-- ==== Sys2Proof/Word.lean ====
section
/-! DEFINITION. The word types of the Foruiso X9 (spec/03_encoding.md R29, R31; spec/01_machine.md, register files). -/

namespace Sys2Proof

/-- A byte of storage. -/
abbrev Byte := BitVec 8

/-- A 64-bit word: the data registers of the S, M, C0 and C1 files and the lane masks. -/
abbrev Word := BitVec 64

/-- A 2048-bit vector register. -/
abbrev VWord := BitVec 2048

/-- A 32-bit word of the instruction store: a header, a slot word or a literal word. -/
abbrev IWord := BitVec 32

/-- A register field of a slot word (R34). -/
abbrev Reg := BitVec 5

end Sys2Proof
end

