-- ==== Sys2Proof/Machine/Bits.lean ====
section
/-! DEFINITION. Bit-field, extension and counting helpers (R3, R7). -/

namespace Sys2Proof.Machine

open Sys2Proof

/-- The field of `len` bits from bit `lo` upward. -/
abbrev fld {w : Nat} (x : BitVec w) (lo len : Nat) : BitVec len := x.extractLsb' lo len

/-- The bit at an index. -/
abbrev bit {w : Nat} (x : BitVec w) (i : Nat) : Bool := x.getLsbD i

/-- A word sign-extended from 32 bits (R7 `sext`). -/
def sext32 (x : BitVec 32) : Word := x.signExtend 64

/-- A word whose value is that of a Nat, modulo 2^64. -/
abbrev word (n : Nat) : Word := BitVec.ofNat 64 n

/-- A Bool as a word: 1 or 0. -/
def boolWord (b : Bool) : Word := if b then 1 else 0

/-- A Bool as a Nat: 1 or 0. -/
def boolNat (b : Bool) : Nat := if b then 1 else 0

/-- The number of one bits among the low `n` bits. -/
def popNat : Nat → Nat → Nat
  | 0, _ => 0
  | n + 1, v => v % 2 + popNat n (v / 2)

/-- The number of one bits. -/
def popcount {w : Nat} (x : BitVec w) : Nat := popNat w x.toNat

/-- The number of leading zero bits among `n` bits. -/
def clzNat : Nat → Nat → Nat
  | 0, _ => 0
  | n + 1, v => if v / 2 ^ n % 2 = 1 then 0 else 1 + clzNat n v

/-- The number of leading zero bits. -/
def clz {w : Nat} (x : BitVec w) : Nat := clzNat w x.toNat

/-- The number of bits of a Nat, looking at no more than `n` bits. -/
def bitLen (n v : Nat) : Nat := n - clzNat n v

/-- The value of the low `n` bits read as a signed integer. -/
def sextNat (n v : Nat) : Int :=
  let m := v % 2 ^ n
  if m < 2 ^ (n - 1) then m else (m : Int) - 2 ^ n

/-- An integer modulo 2^n, as a Nat. -/
def wrapNat (n : Nat) (v : Int) : Nat := (v % 2 ^ n).toNat

/-- An integer clamped to [lo, hi] (R7 `sat`). -/
def clampInt (v lo hi : Int) : Int := if v < lo then lo else if v > hi then hi else v

/-- A word rounded down to a multiple of 2^k, as a Nat. -/
def alignDown (k v : Nat) : Nat := v / 2 ^ k * 2 ^ k

/-- The indices of the one bits of a mask, ascending. -/
def bitsOf {w : Nat} (m : BitVec w) : List Nat := (List.range w).filter (fun i => m.getLsbD i)

end Sys2Proof.Machine
end

