-- ==== Sys2Proof/Syntax.lean ====
section
/-! DEFINITION. The syntax: one constructor for every row of spec/opcode_table.json. The rows with a word are the
instructions of the four opcode spaces (R40); the `uop` rows are the micro-operations of the matrix engine (R164);
the remaining rows are the steps that come about without an instruction (spec/95_what_each_step_holds.md). -/

namespace Sys2Proof

/-- The slots of a bundle, in the order of R32. -/
inductive Slot where
  | s | v0 | v1 | m | c0 | c1
  deriving DecidableEq, Repr

/-- The number of a slot (R32). -/
def Slot.num : Slot → Nat
  | .s => 0 | .v0 => 1 | .v1 => 2 | .m => 3 | .c0 => 4 | .c1 => 5

/-- The two vector units, which share one opcode space (R109). -/
inductive VU where
  | v0 | v1
  deriving DecidableEq, Repr

/-- The slot of a vector unit. -/
def VU.slot : VU → Slot
  | .v0 => .v0 | .v1 => .v1

/-- The two copy slots, which share one opcode space (R199). -/
inductive CU where
  | c0 | c1
  deriving DecidableEq, Repr

/-- The slot of a copy unit. -/
def CU.slot : CU → Slot
  | .c0 => .c0 | .c1 => .c1

/-- The predicate of a slot word (R33): the invert bit and the index. -/
structure Pred where
  inv : Bool
  idx : BitVec 3
  deriving DecidableEq, Repr

/-- The second operand of the RL format (R36), its literal already built from the literal words. -/
inductive Opnd where
  | lit (v : Word)
  | reg (b : Reg) (last : Bool)
  deriving DecidableEq, Repr

/-- The operands of the X format (R38). -/
structure XOp where
  dfile : Slot
  dp : Bool
  dreg : Reg
  sreg : Reg
  lu : Bool
  part : BitVec 5
  deriving DecidableEq, Repr

/-- The stage of a granule of a copy: its source bytes are read, or its destination bytes are written (R212, R213). -/
inductive CopyStage where
  | read | fill
  deriving DecidableEq, Repr

/-- The parts that self-test reports (R351, R357). -/
inductive PartKind where
  | die | stack | port | link
  deriving DecidableEq, Repr

/-- Where a read of an uncorrectable line is repaired from (R332). -/
inductive RebuildSource where
  | parity | cleanCopy | none | cxl
  deriving DecidableEq, Repr

/-- A driver request in an ADMIN message (R337): contexts, grants, handles, page entries, queues, peers and shares. The
requests that have a row of their own in the table stand there as the step that Holly takes; here they stand as what a
message asks for. -/
inductive AdminReq where
  | newCtx (id : BitVec 12) (htlen : BitVec 16) (tier : BitVec 2) (ceil : BitVec 8) (alw : Word)
  | grant (id : BitVec 12) (grains : Word)
  | endCtx (id : BitVec 12) (kill : Bool)
  | handle (ctx : BitVec 12) (idx : BitVec 16) (w0 w1 w2 : Word)
  | page (ctx : BitVec 12) (pa : BitVec 56) (entry : Word)
  | queue (qid : BitVec 16) (ctx : BitVec 12) (dir : BitVec 2) (logSlots : BitVec 5) (region : BitVec 32)
  | share (ctx : BitVec 12) (stack : BitVec 3) (share : BitVec 9)
  | mirror (ctx : BitVec 12) (peer : BitVec 8)
  | domain (ctx : BitVec 12)
  | xport (peer : BitVec 8) (regions : List (BitVec 32))
  | join (peer : BitVec 8) (addrs : List (BitVec 48))
  | leave (peer : BitVec 8)
  | lost (peer : BitVec 8)
  | budget (units : Nat) (floors : List Nat) (demands : List (Nat × Nat))
  deriving DecidableEq, Repr

/-- A JOIN request (R339): the peer's number and its Ethernet addresses. -/
structure JoinReq where
  peer : BitVec 8
  addrs : List (BitVec 48)
  deriving DecidableEq, Repr

/-- A packet of a peer (R339), with the granule that the peer mirrors here and the address that it names, where it carries one
(R342). -/
structure PeerPacket where
  peer : BitVec 8
  mirrored : Option (Nat × List Byte)
  deriving DecidableEq, Repr

/-- Who accesses memory here over the link, and of which shard: this device's own, or that of a lost peer (R340, R343). -/
structure PeerAsk where
  peer : BitVec 8
  lost : Option (BitVec 8)
  deriving DecidableEq, Repr

/-- TYPE and VER of a Mbaup message (R337). -/
structure MsgKind where
  type : BitVec 8
  ver : BitVec 8
  deriving DecidableEq, Repr

/-- Every row of spec/opcode_table.json. -/
inductive Instr where
  /- The S space (R22, R70 to R87). -/
  | emptyBundle (ew : BitVec 5)
  | add (p : Pred) (d a : Reg) (la : Bool) (o : Opnd)
  | sub (p : Pred) (d a : Reg) (la : Bool) (o : Opnd)
  | and (p : Pred) (d a : Reg) (la : Bool) (o : Opnd)
  | or (p : Pred) (d a : Reg) (la : Bool) (o : Opnd)
  | xor (p : Pred) (d a : Reg) (la : Bool) (o : Opnd)
  | andn (p : Pred) (d a : Reg) (la : Bool) (o : Opnd)
  | shl (p : Pred) (d a : Reg) (la : Bool) (o : Opnd)
  | shr (p : Pred) (d a : Reg) (la : Bool) (o : Opnd)
  | sra (p : Pred) (d a : Reg) (la : Bool) (o : Opnd)
  | min (p : Pred) (d a : Reg) (la : Bool) (o : Opnd)
  | max (p : Pred) (d a : Reg) (la : Bool) (o : Opnd)
  | minu (p : Pred) (d a : Reg) (la : Bool) (o : Opnd)
  | maxu (p : Pred) (d a : Reg) (la : Bool) (o : Opnd)
  | mul (p : Pred) (d a : Reg) (la : Bool) (o : Opnd)
  | mulh (p : Pred) (d a : Reg) (la : Bool) (o : Opnd)
  | mulhu (p : Pred) (d a : Reg) (la : Bool) (o : Opnd)
  | clz (p : Pred) (d a : Reg) (la : Bool)
  | popc (p : Pred) (d a : Reg) (la : Bool)
  | cmpeq (p : Pred) (d : BitVec 3) (a : Reg) (la : Bool) (o : Opnd) (m : BitVec 2)
  | cmpne (p : Pred) (d : BitVec 3) (a : Reg) (la : Bool) (o : Opnd) (m : BitVec 2)
  | cmplt (p : Pred) (d : BitVec 3) (a : Reg) (la : Bool) (o : Opnd) (m : BitVec 2)
  | cmpge (p : Pred) (d : BitVec 3) (a : Reg) (la : Bool) (o : Opnd) (m : BitVec 2)
  | cmpltu (p : Pred) (d : BitVec 3) (a : Reg) (la : Bool) (o : Opnd) (m : BitVec 2)
  | cmpgeu (p : Pred) (d : BitVec 3) (a : Reg) (la : Bool) (o : Opnd) (m : BitVec 2)
  | pand (p : Pred) (d a b : BitVec 3) (n : Bool)
  | por (p : Pred) (d a b : BitVec 3) (n : Bool)
  | pxor (p : Pred) (d a b : BitVec 3) (n : Bool)
  | sel (p : Pred) (d : Reg) (k : BitVec 3) (a : Reg) (la : Bool) (b : Reg) (lb : Bool)
  | lds (p : Pred) (d a : Reg) (la : Bool) (o : Opnd) (sx : Bool) (sz : BitVec 2)
  | sts (p : Pred) (d a : Reg) (la : Bool) (o : Opnd) (sz : BitVec 2)
  | amo (p : Pred) (d a : Reg) (la : Bool) (off : Word) (w : Bool) (op : BitVec 3)
  | amocas (p : Pred) (d a : Reg) (la : Bool) (b : Reg) (lb : Bool) (w : Bool)
  | br (p : Pred) (o : Opnd)
  | bri (p : Pred) (a : Reg) (la : Bool) (b : Reg) (lb : Bool)
  | call (p : Pred) (d : Reg) (o : Opnd)
  | ret (p : Pred) (a : Reg) (la : Bool)
  | loop (p : Pred) (a : Reg) (la : Bool) (o : Opnd)
  | endk (p : Pred)
  | trap (p : Pred) (o : Opnd)
  | rft (p : Pred) (d a : Reg)
  | rftSkip (p : Pred) (d a : Reg)
  | csrr (p : Pred) (d : Reg) (o : Opnd)
  | csrw (p : Pred) (d a : Reg) (la : Bool) (o : Opnd)
  | csrs (p : Pred) (d a : Reg) (la : Bool) (o : Opnd)
  | csrc (p : Pred) (d a : Reg) (la : Bool) (o : Opnd)
  | xmovS (p : Pred) (x : XOp)
  | xmovpS (p : Pred) (x : XOp)
  | bankRS (p : Pred) (o : Opnd)
  | bankWRS (p : Pred) (o : Opnd)
  | bankSR (p : Pred) (a : Reg) (la : Bool) (o : Opnd)
  | bankSW (p : Pred) (a : Reg) (la : Bool) (o : Opnd)
  | rentSP (p : Pred) (d a : Reg) (la : Bool) (t : Word)
  | rentIS (p : Pred) (d a : Reg) (la : Bool) (t : Word)
  | rentHBM (p : Pred) (d a : Reg) (la : Bool) (t : Word)
  | rentCAP (p : Pred) (d a : Reg) (la : Bool) (t : Word)
  | renew (p : Pred) (d a : Reg) (la : Bool) (o : Opnd)
  | prepay (p : Pred) (d a : Reg) (la : Bool) (o : Opnd)
  | sublet (p : Pred) (d a : Reg) (la : Bool) (b : Reg) (lb : Bool)
  | vacate (p : Pred) (d a : Reg) (la : Bool)
  | rqry (p : Pred) (d a : Reg) (la : Bool) (item : BitVec 3)
  | fence (p : Pred) (path scope : BitVec 3)
  | fencex (p : Pred) (wpath rpath scope : BitVec 3)
  | acqW (p : Pred) (d a : Reg) (la : Bool) (b : Reg) (lb : Bool)
  | acqR (p : Pred) (d a : Reg) (la : Bool) (b : Reg) (lb : Bool)
  | acqT (p : Pred) (d a : Reg) (la : Bool) (b : Reg) (lb : Bool)
  | acqQ (p : Pred) (d a : Reg) (la : Bool)
  | rel (p : Pred) (d a : Reg) (la : Bool) (b : Reg) (lb : Bool)
  | barm (p : Pred) (d a : Reg) (la : Bool) (o : Opnd)
  | barr (p : Pred) (d : Reg) (o : Opnd)
  | bwait (p : Pred) (o : Opnd)
  | btry (p : Pred) (d : BitVec 3) (o : Opnd)
  | balr (p : Pred) (o : Opnd)
  | qput (p : Pred) (d a : Reg) (la : Bool) (b : Reg) (lb : Bool)
  | qtake (p : Pred) (d a : Reg) (la : Bool) (b : Reg) (lb : Bool) (w : Bool)
  | gnew (p : Pred) (d a : Reg) (la : Bool) (b : Reg) (lb : Bool) (k : BitVec 2)
  | gdep (p : Pred) (d a : Reg) (la : Bool) (b : Reg) (lb : Bool)
  | garm (p : Pred) (d a : Reg) (la : Bool)
  | launch (p : Pred) (d a : Reg) (la : Bool) (b : Reg) (lb : Bool)
  | clkdivV (p : Pred) (o : Opnd)
  | clkdivM (p : Pred) (o : Opnd)
  | clkdivC (p : Pred) (o : Opnd)
  | clkdivK (p : Pred) (o : Opnd)
  | rfwait (p : Pred) (o : Opnd)
  | ctxsw (p : Pred)
  | ctxctlNew (p : Pred) (d a b : Reg)
  | ctxctlGrant (p : Pred) (d a b : Reg)
  | ctxctlSave (p : Pred) (d a b : Reg)
  | ctxctlResume (p : Pred) (d a b : Reg)
  | ctxctlSettier (p : Pred) (d a b : Reg)
  | ctxctlRoot (p : Pred) (d a b : Reg)
  | ctxctlEnd (p : Pred) (d a b : Reg)
  | ctxctlQuery (p : Pred) (d a b : Reg)
  /- The V space (R114 to R136), in V0 or V1. -/
  | vadd (u : VU) (p : Pred) (d a : Reg) (la : Bool) (b : Reg) (lb : Bool) (rtz : Bool)
  | vsub (u : VU) (p : Pred) (d a : Reg) (la : Bool) (b : Reg) (lb : Bool) (rtz : Bool)
  | vmul (u : VU) (p : Pred) (d a : Reg) (la : Bool) (b : Reg) (lb : Bool) (rtz : Bool)
  | vfma (u : VU) (p : Pred) (d a : Reg) (la : Bool) (b : Reg) (lb : Bool) (rtz : Bool)
  | vmin (u : VU) (p : Pred) (d a : Reg) (la : Bool) (b : Reg) (lb : Bool)
  | vmax (u : VU) (p : Pred) (d a : Reg) (la : Bool) (b : Reg) (lb : Bool)
  | vabs (u : VU) (p : Pred) (d a : Reg) (la : Bool)
  | vneg (u : VU) (p : Pred) (d a : Reg) (la : Bool)
  | vcmp (u : VU) (p : Pred) (d : BitVec 3) (a : Reg) (la : Bool) (b : Reg) (lb : Bool) (cc : BitVec 3)
  | vcswpHi (u : VU) (p : Pred) (d a : Reg) (la : Bool) (b : Reg) (lb : Bool)
  | vcswpLo (u : VU) (p : Pred) (d a : Reg) (la : Bool) (b : Reg) (lb : Bool)
  | vcswpX (u : VU) (p : Pred) (d a : Reg) (la : Bool) (k : BitVec 3)
  | vrcp (u : VU) (p : Pred) (d a : Reg) (la : Bool)
  | vrsq (u : VU) (p : Pred) (d a : Reg) (la : Bool)
  | vexp2 (u : VU) (p : Pred) (d a : Reg) (la : Bool)
  | vlog2 (u : VU) (p : Pred) (d a : Reg) (la : Bool)
  | viadd (u : VU) (p : Pred) (d a : Reg) (la : Bool) (b : Reg) (lb : Bool)
  | visub (u : VU) (p : Pred) (d a : Reg) (la : Bool) (b : Reg) (lb : Bool)
  | viadds (u : VU) (p : Pred) (d a : Reg) (la : Bool) (b : Reg) (lb : Bool)
  | visubs (u : VU) (p : Pred) (d a : Reg) (la : Bool) (b : Reg) (lb : Bool)
  | vimul (u : VU) (p : Pred) (d a : Reg) (la : Bool) (b : Reg) (lb : Bool)
  | vimac (u : VU) (p : Pred) (d a : Reg) (la : Bool) (b : Reg) (lb : Bool)
  | vimin (u : VU) (p : Pred) (d a : Reg) (la : Bool) (b : Reg) (lb : Bool)
  | vimax (u : VU) (p : Pred) (d a : Reg) (la : Bool) (b : Reg) (lb : Bool)
  | vicmp (u : VU) (p : Pred) (d : BitVec 3) (a : Reg) (la : Bool) (b : Reg) (lb : Bool) (cc : BitVec 3)
  | vshl (u : VU) (p : Pred) (d a : Reg) (la : Bool) (b : Reg) (lb : Bool)
  | vshr (u : VU) (p : Pred) (d a : Reg) (la : Bool) (b : Reg) (lb : Bool)
  | vsra (u : VU) (p : Pred) (d a : Reg) (la : Bool) (b : Reg) (lb : Bool)
  | vpopc (u : VU) (p : Pred) (d a : Reg) (la : Bool)
  | vand (u : VU) (p : Pred) (d a : Reg) (la : Bool) (b : Reg) (lb : Bool)
  | vor (u : VU) (p : Pred) (d a : Reg) (la : Bool) (b : Reg) (lb : Bool)
  | vxor (u : VU) (p : Pred) (d a : Reg) (la : Bool) (b : Reg) (lb : Bool)
  | vandn (u : VU) (p : Pred) (d a : Reg) (la : Bool) (b : Reg) (lb : Bool)
  | vsel (u : VU) (p : Pred) (d : Reg) (k : BitVec 3) (a : Reg) (la : Bool) (b : Reg) (lb : Bool)
  | vmov (u : VU) (p : Pred) (d a : Reg) (la : Bool)
  | vpand (u : VU) (p : Pred) (d a b : BitVec 3) (n : Bool)
  | vpor (u : VU) (p : Pred) (d a b : BitVec 3) (n : Bool)
  | vpxor (u : VU) (p : Pred) (d a b : BitVec 3) (n : Bool)
  | vpnot (u : VU) (p : Pred) (d a : BitVec 3)
  | vpset (u : VU) (p : Pred) (d : BitVec 3) (o : Opnd)
  | vpcnt (u : VU) (p : Pred) (d : Reg) (a : BitVec 3)
  | vcvt (u : VU) (p : Pred) (d a : Reg) (la : Bool) (fmt : BitVec 5) (mode : BitVec 2) (sat : Bool)
  | vrnd (u : VU) (p : Pred) (d a : Reg) (la : Bool) (mode : BitVec 2)
  | vclmp (u : VU) (p : Pred) (d a : Reg) (la : Bool) (b : Reg) (lb : Bool)
  | vperm (u : VU) (p : Pred) (d a : Reg) (la : Bool) (b : Reg) (lb : Bool) (byte : Bool)
  | vbcst (u : VU) (p : Pred) (d a : Reg) (la : Bool) (o : Opnd) (fmt : BitVec 4)
  | vrot (u : VU) (p : Pred) (d a : Reg) (la : Bool) (b : Reg) (lb : Bool)
  | vred (u : VU) (p : Pred) (d a : Reg) (la : Bool) (op : BitVec 2)
  | vscan (u : VU) (p : Pred) (d a : Reg) (la : Bool) (op : BitVec 2)
  | vidx (u : VU) (p : Pred) (d : Reg) (fmt : BitVec 2)
  | vld (u : VU) (p : Pred) (d a : Reg) (la : Bool) (off : Word) (fmt : BitVec 4)
  | vst (u : VU) (p : Pred) (d a : Reg) (la : Bool) (off : Word)
  | vldx (u : VU) (p : Pred) (d a : Reg) (la : Bool) (fmt : BitVec 2)
  | vstx (u : VU) (p : Pred) (d a : Reg) (la : Bool)
  | vpln (u : VU) (p : Pred) (d a : Reg) (la : Bool) (sg j : BitVec 3)
  | vupl (u : VU) (p : Pred) (d a : Reg) (la : Bool) (sg j : BitVec 3)
  | vpack (u : VU) (p : Pred) (d a : Reg) (la : Bool) (g : BitVec 2) (r : Bool) (part : BitVec 2)
  | vmulw (u : VU) (p : Pred) (d a : Reg) (la : Bool) (b : Reg) (lb : Bool)
  | vxtr (u : VU) (p : Pred) (d a : Reg) (la : Bool) (b : Reg) (lb : Bool)
  | vgrd (u : VU) (p : Pred) (d : BitVec 3) (a : Reg) (la : Bool) (b : Reg) (lb : Bool) (t : Bool)
  | vhist (u : VU) (p : Pred) (a : Reg) (lvl : BitVec 3) (u8 : Bool)
  | vtag (u : VU) (p : Pred) (d a : Reg) (la : Bool) (o : Opnd)
  | vtget (u : VU) (p : Pred) (d a : Reg) (la : Bool)
  | xmovV (u : VU) (p : Pred) (x : XOp)
  | xmovpV (u : VU) (p : Pred) (x : XOp)
  | bankRV (u : VU) (p : Pred) (o : Opnd)
  | bankWRV (u : VU) (p : Pred) (o : Opnd)
  /- The M space (R171). -/
  | mcall (p : Pred) (o : Opnd)
  | mparm (p : Pred) (d : Reg) (o : Opnd)
  | madd (p : Pred) (d a : Reg) (o : Opnd)
  | msql (p : Pred) (a : Reg) (o : Opnd)
  | msqr (p : Pred) (d : Reg) (clr : Bool)
  | acrel (p : Pred) (o : Opnd)
  | mstat (p : Pred) (d a : Reg)
  | mtst (p : Pred) (d a : Reg) (e : BitVec 3)
  | mwait (p : Pred)
  | mupl (p : Pred) (a : Reg) (o : Opnd)
  | xmovM (p : Pred) (x : XOp)
  | xmovpM (p : Pred) (x : XOp)
  /- The C space (R201 to R224, R311 to R320, R293, R294, R344), in C0 or C1. -/
  | kmov (u : CU) (p : Pred) (d : Reg) (o : Opnd)
  | kadd (u : CU) (p : Pred) (d a : Reg) (o : Opnd)
  | ksub (u : CU) (p : Pred) (d a : Reg) (o : Opnd)
  | kmul (u : CU) (p : Pred) (d a : Reg) (o : Opnd)
  | kand (u : CU) (p : Pred) (d a : Reg) (o : Opnd)
  | kor (u : CU) (p : Pred) (d a : Reg) (o : Opnd)
  | kxor (u : CU) (p : Pred) (d a : Reg) (o : Opnd)
  | kshl (u : CU) (p : Pred) (d a : Reg) (o : Opnd)
  | kshr (u : CU) (p : Pred) (d a : Reg) (o : Opnd)
  | ksra (u : CU) (p : Pred) (d a : Reg) (o : Opnd)
  | kmin (u : CU) (p : Pred) (d a : Reg) (o : Opnd)
  | kmax (u : CU) (p : Pred) (d a : Reg) (o : Opnd)
  | kclz (u : CU) (p : Pred) (d a : Reg)
  | kpopc (u : CU) (p : Pred) (d a : Reg)
  | kcmp (u : CU) (p : Pred) (d : BitVec 2) (cc : BitVec 3) (a : Reg) (o : Opnd)
  | ksel (u : CU) (p : Pred) (d a b : Reg) (e : BitVec 2)
  | kld (u : CU) (p : Pred) (d a : Reg) (o : Opnd) (sx : Bool) (sz : BitVec 2)
  | kst (u : CU) (p : Pred) (d a : Reg) (o : Opnd) (sz : BitVec 2)
  | xmovC (u : CU) (p : Pred) (x : XOp)
  | xmovpC (u : CU) (p : Pred) (x : XOp)
  | eset (u : CU) (p : Pred) (ch : BitVec 2) (lvl : BitVec 3) (a b e : Reg)
  | egoLd (u : CU) (p : Pred) (ch : BitVec 2) (g : Bool) (a b e : Reg)
  | egoSt (u : CU) (p : Pred) (ch : BitVec 2) (a b e : Reg)
  | egoLl (u : CU) (p : Pred) (ch : BitVec 2) (g : Bool) (a b e : Reg)
  | egoSp (u : CU) (p : Pred) (ch : BitVec 2) (a b e : Reg)
  | esusp (u : CU) (p : Pred) (mask : BitVec 4)
  | eres (u : CU) (p : Pred) (mask : BitVec 4)
  | ecan (u : CU) (p : Pred) (mask : BitVec 4)
  | eclr (u : CU) (p : Pred) (mask : BitVec 4)
  | eqry (u : CU) (p : Pred) (d : Reg) (ch : BitVec 2) (item : BitVec 2)
  | waitwF (u : CU) (p : Pred) (ch : BitVec 2) (base : Option Reg) (o : Opnd)
  | waitwS (u : CU) (p : Pred) (ch : BitVec 2) (base : Option Reg) (o : Opnd)
  | waitwCF (u : CU) (p : Pred) (ch : BitVec 2) (base : Option Reg) (o : Opnd)
  | waitwCS (u : CU) (p : Pred) (ch : BitVec 2) (base : Option Reg) (o : Opnd)
  | cwm (u : CU) (p : Pred) (d : Reg) (ch : BitVec 2) (item : BitVec 2)
  | cfence (u : CU) (p : Pred) (mask : BitVec 4)
  | bcast (u : CU) (p : Pred) (bus : BitVec 2) (a b e : Reg)
  | blatch (u : CU) (p : Pred) (bus : BitVec 2) (a b : Reg)
  | bltry (u : CU) (p : Pred) (d : BitVec 2) (a b : Reg) (bus : BitVec 2)
  | gath (u : CU) (p : Pred) (addf : Bool) (t : BitVec 4) (pp l d : Reg)
  | scat (u : CU) (p : Pred) (t : BitVec 4) (pp l d : Reg)
  | gwait (u : CU) (p : Pred) (a : Reg)
  | gwaitAll (u : CU) (p : Pred)
  | gwaitCan (u : CU) (p : Pred)
  | kvapp (u : CU) (p : Pred) (nr : Bool) (t : BitVec 4) (pp sr : Reg)
  | pxlook (u : CU) (p : Pred) (t : BitVec 4) (r : Reg)
  | pxins (u : CU) (p : Pred) (t : BitVec 4) (r : Reg)
  | pxdrop (u : CU) (p : Pred) (t : BitVec 4) (r : Reg)
  | coll (u : CU) (p : Pred) (i32 : Bool) (op : BitVec 2) (lvl : BitVec 2) (src dst cnt : Reg)
  | csnap (u : CU) (p : Pred) (lvl : BitVec 2) (a : Reg) (keep : Bool)
  | mirrMark (u : CU) (p : Pred) (d : Reg)
  | mirrDone (u : CU) (p : Pred) (d : Reg)
  | mirrSt (u : CU) (p : Pred) (d : Reg)
  | hqry (u : CU) (p : Pred) (d : Reg) (o : Opnd)
  | hqryF (u : CU) (p : Pred) (d : Reg) (o : Opnd)
  /- The micro-operations of the matrix engine (R164), acting on the running routine of the acting core. -/
  | uopNop (n : BitVec 16)
  | uopPlane (ra : BitVec 3) (pi : BitVec 3) (w : BitVec 4) (step : BitVec 32)
  | uopBload (ra : BitVec 3) (u : Bool) (step : BitVec 32)
  | uopMulw
  | uopXtr (z n : Bool)
  | uopAcc (ra : BitVec 3) (sh : BitVec 3)
  | uopScale
  | uopSpidx (ra rb : BitVec 3) (nc : BitVec 2) (u : Bool) (step : BitVec 32)
  | uopDrain (ra rb : BitVec 3) (fmt : BitVec 2) (sr sat : Bool) (step : BitVec 32)
  | uopLoop (ra : BitVec 3) (reg : Bool) (fin : BitVec 11) (cnt : BitVec 16)
  | uopJnz (target : BitVec 11)
  | uopEnd
  | uopWaitq (n : BitVec 7)
  | uopSetexp (e : BitVec 10) (auto : Bool)
  | uopStat (ra rb : BitVec 3) (c : Bool)
  | uopFence
  /- The steps that come about without an instruction, on the acting core where they concern a core. -/
  | resultLanding
  | xmovArrival
  | freezeEnd
  | bankWakeComplete (file : Slot) (bank : BitVec 2)
  | scratchpadBankWake (bank : BitVec 9)
  | asyncFaultTake
  | machineCheck (syndrome : Word)
  | trapRecordUnlatch
  | tqpop
  | wdataWrite (v : Word)
  | wdataRead
  | lastfatalClear
  | ldepthWrite (v : Word)
  | lcntWrite (v : Word)
  | csrWrite (num : BitVec 12) (v : Word)
  | kernelPlace (node : BitVec 32)
  | loadComplete
  | dispatchDecision
  | starveTimeout (node : BitVec 32)
  | kernelRetire
  | saveComplete
  | restoreComplete
  | contextFree (ctx : BitVec 12)
  | tickBoundary
  | paidUntilReached (h : BitVec 32)
  | launchRegionRenewal (h : BitVec 32)
  | graceEnd (h : BitVec 32)
  | subletTermEnd (h : BitVec 32)
  | zeroFillComplete (h : BitVec 32)
  | copyComplete (ch : BitVec 3) (copy gran : Nat) (st : CopyStage)
  | copyFault (ch : BitVec 3)
  | bcastDrive (bus : BitVec 2)
  | bcastLanding (bus : BitVec 2)
  | routineStart
  | muplRun
  | msqlEntryRead
  | scaleEntryEnqueue
  | acrelEffect
  | statusSample
  | gatherOpStart
  | gatherOpComplete
  | gatherElementFault
  | barrierRelease (g : BitVec 16) (b : BitVec 12)
  | barrierRemoteArrival (g : BitVec 16) (b : BitVec 12)
  | barrierRemoteRelease (g : BitVec 16) (b : BitVec 12)
  | collSetRun (g : BitVec 16) (k : Nat)
  | collSetComplete (g : BitVec 16) (k : Nat)
  | csnapVisible
  | copyNodeComplete (node : BitVec 32)
  | copyNodeFault (node : BitVec 32)
  | refreshSlot (waiting : List (Nat × Nat))
  | hotModeEnter (stack : BitVec 3)
  | hotModeExit (stack : BitVec 3)
  | lineRebuild (pa : BitVec 56) (src : RebuildSource)
  | dieMapOut (stack : BitVec 3) (die : BitVec 4)
  | mapOutComplete (stack : BitVec 3) (die : BitVec 4)
  | cxlLinkDown (link : BitVec 4)
  | latencyRecordClear (stack : BitVec 3) (chan : BitVec 5)
  | portDown (port : BitVec 3)
  | mbaupQmsg (ctx : BitVec 12) (qid : BitVec 16) (seq : BitVec 32) (msg : List Byte)
  | mbaupAdmin (seq : BitVec 32) (req : AdminReq)
  | mbaupStatus (seq : BitVec 32)
  | mbaupLog (seq first : BitVec 32)
  | mbaupResync (seq : BitVec 32)
  | resyncSample
  | mbaupSpdm (seq : BitVec 32) (msg : List Byte)
  | adminJoin (req : JoinReq)
  | adminLeave (peer : BitVec 8)
  | adminPeerLost (peer : BitVec 8)
  | handleInstall (ctx : BitVec 12) (idx : BitVec 16) (w0 w1 w2 : Word)
  | pageTableUpdate (ctx : BitVec 12) (pa : BitVec 56) (entry : Word)
  | queueCreate (qid : BitVec 16) (ctx : BitVec 12) (dir : BitVec 2) (logSlots : BitVec 5) (region : BitVec 32)
  | shareAssign (ctx : BitVec 12) (stack : BitVec 3) (share : BitVec 9)
  | mirrorAssign (ctx : BitVec 12) (peer : BitVec 8)
  | domainCreate (ctx : BitVec 12)
  | exportInstall (peer : BitVec 8) (regions : List (BitVec 32))
  | powerBudgetSet (b : Nat) (floors : List Nat) (demands : List (Nat × Nat))
  | peerConnected (peer : BitVec 8)
  | joinTimeout (peer : BitVec 8)
  | peerSilence (peer : BitVec 8)
  | peerPacketArrive (pkt : PeerPacket)
  | peerLostTimeout (peer : BitVec 8)
  | promoteNotice (peer promoter : BitVec 8)
  | heartbeatSend (peer : BitVec 8)
  | peerAccessArrive (ask : PeerAsk) (off len : Nat) (write : Option (List Byte))
  | mirrorGranuleSend
  | mirrorAck
  | clkdivDrainEnd
  | powerGood
  | selftestEnd (passed : List (PartKind × Nat)) (bramble : List Byte)
  | partTestEnd (part : PartKind) (num : Nat) (passed : Bool)
  | brambleRestart (image : List Byte)
  | hollyFault
  | powerCycle
  | decodeFault
  | mbaupOtherType (kind : MsgKind) (seq : BitVec 32)
  deriving DecidableEq, Repr

end Sys2Proof
end

