-- ==== Sys2Proof/Machine/Legal.lean ====
section
/-! DEFINITION. Which field values of an instruction are legal (R33, R34, R36, R38, R39 and each instruction's entry), and
which literal values are (R85, R83, R136, R171, R298, R349). The decoder answers ILLEGAL_OP for the others (R42). -/

namespace Sys2Proof.Machine

open Sys2Proof

/-- The number of data registers of a slot's file (R34). -/
def dataRegs : Slot → Nat
  | .s => 32 | .v0 => 32 | .v1 => 32 | .m => 8 | .c0 => 16 | .c1 => 16

/-- The number of predicate registers of a slot's file (R34). -/
def predRegs : Slot → Nat
  | .s => 8 | .v0 => 8 | .v1 => 8 | .m => 4 | .c0 => 4 | .c1 => 4

/-- Whether a slot is a vector slot. -/
def isV : Slot → Bool
  | .v0 => true | .v1 => true | .s => false | .m => false | .c0 => false | .c1 => false

/-- A last-use mark of an S instruction stands on no s0 (R39). -/
def markS (r : Reg) (l : Bool) : Bool := !l || r != 0

/-- Whether an operand is a literal. -/
def isLit : Opnd → Bool
  | .lit _ => true | .reg _ _ => false

/-- An RL operand of the S space (R39). -/
def oS : Opnd → Bool
  | .lit _ => true | .reg b l => markS b l

/-- An RL operand of the M space (R34, R36). -/
def oM : Opnd → Bool
  | .lit _ => true | .reg b l => b < 8 && !l

/-- An RL operand of the C space (R34, R36). -/
def oC : Opnd → Bool
  | .lit _ => true | .reg b l => b < 16 && !l

/-- A predicate index of M, C0 and C1 (R33). -/
def p4 (p : Pred) : Bool := p.idx < 4

/-- A register of the M file. -/
def r8 (r : Reg) : Bool := r < 8

/-- A register of a C file. -/
def r16 (r : Reg) : Bool := r < 16

/-- The even register of a pair (R112, R310). -/
def even (r : Reg) : Bool := !r.getLsbD 0

/-- The tag codes of the element formats that VCVT and VBCST name: floats and integers (R121, R124). -/
def elemTag (t : Nat) : Bool := (1 ≤ t && t ≤ 6) || (8 ≤ t && t ≤ 11)

/-- The integer tag codes (R88). -/
def intTag (t : Nat) : Bool := 8 ≤ t && t ≤ 11

/-- The tag codes that R88 assigns. -/
def tagKnown (t : Nat) : Bool := t ≤ 6 || (8 ≤ t && t ≤ 11) || (16 ≤ t && t ≤ 24) || t == 32

/-- The CSR numbers that R86 and R192 assign. -/
def csrKnown (n : Nat) : Bool :=
  n ≤ 5 || (0x10 ≤ n && n ≤ 0x13) || n == 0x18 || n == 0x19 || n == 0x20 || n == 0x30 || n == 0x40 || n == 0x41
    || n == 0x50 || (0xF0 ≤ n && n ≤ 0xF6) || n == 0xF8 || n == 0xF9

/-- The CSRs of R192, which only a control core may name (R85). -/
def csrControl (n : Nat) : Bool := 0xF0 ≤ n

/-- A load's size and sign bits: no sign extension of 8 bytes, and the register form loads 8 bytes (R76). -/
def ldOk (o : Opnd) (sx : Bool) (sz : BitVec 2) : Bool := !(sx && sz == 3) && (isLit o || (!sx && sz == 3))

/-- The operands of XMOV and XMOVP (R38, R39): `sl` is the executing slot, `sp` whether the source is a predicate. -/
def xOk (sl : Slot) (sp : Bool) (x : XOp) : Bool :=
  x.dreg.toNat < (if x.dp then predRegs x.dfile else dataRegs x.dfile)
    && x.sreg.toNat < (if sp then predRegs sl else dataRegs sl)
    && (!x.lu || (!sp && (isV sl || (sl == .s && x.sreg != 0))))
    && (x.part == 0 || ((isV x.dfile && !x.dp) != (isV sl && !sp)))

/-- Whether the operands of an instruction are legal. The steps without an instruction word have no illegal operands. -/
def legal : Instr → Bool
  | .emptyBundle _ => true
  | .add _ _ a la o | .sub _ _ a la o | .and _ _ a la o | .or _ _ a la o | .xor _ _ a la o | .andn _ _ a la o
  | .shl _ _ a la o | .shr _ _ a la o | .sra _ _ a la o | .min _ _ a la o | .max _ _ a la o | .minu _ _ a la o
  | .maxu _ _ a la o | .mul _ _ a la o | .mulh _ _ a la o | .mulhu _ _ a la o => markS a la && oS o
  | .clz _ _ a la | .popc _ _ a la => markS a la
  | .cmpeq _ _ a la o m | .cmpne _ _ a la o m | .cmplt _ _ a la o m | .cmpge _ _ a la o m | .cmpltu _ _ a la o m
  | .cmpgeu _ _ a la o m => markS a la && oS o && m != 3 && (isLit o || m == 0)
  | .pand _ _ _ _ _ | .por _ _ _ _ _ | .pxor _ _ _ _ _ => true
  | .sel _ _ _ a la b lb => markS a la && markS b lb
  | .lds _ _ a la o sx sz => markS a la && oS o && ldOk o sx sz
  | .sts _ _ a la o sz => markS a la && oS o && ldOk o false sz
  | .amo _ _ a la _ _ _ => markS a la
  | .amocas _ _ a la b lb _ => markS a la && markS b lb
  | .br _ o | .call _ _ o | .trap _ o | .csrr _ _ o | .barr _ _ o | .bwait _ o | .btry _ _ o | .balr _ o
  | .rfwait _ o | .bankRS _ o | .clkdivV _ o => oS o
  | .bri _ a la b lb => markS a la && markS b lb
  | .ret _ a la => markS a la
  | .loop _ a la o => markS a la && oS o
  | .endk _ | .ctxsw _ | .rft _ _ _ | .rftSkip _ _ _ => true
  | .csrw _ _ a la o | .csrs _ _ a la o | .csrc _ _ a la o | .renew _ _ a la o | .prepay _ _ a la o
  | .barm _ _ a la o => markS a la && oS o
  | .xmovS _ x => xOk .s false x
  | .xmovpS _ x => xOk .s true x
  | .bankWRS _ o | .clkdivM _ o | .clkdivC _ o | .clkdivK _ o => isLit o
  | .bankSR _ a la o | .bankSW _ a la o => markS a la && isLit o
  | .rentSP _ _ a _ _ | .rentIS _ _ a _ _ | .rentHBM _ _ a _ _ | .rentCAP _ _ a _ _ => a != 0 && a != 31
  | .sublet _ _ a _ b _ => a != 0 && a != 31 && b != 0 && b != 31
  | .vacate _ _ a la | .garm _ _ a la | .acqQ _ _ a la => markS a la
  | .rqry _ _ a la item => markS a la && item < 6
  | .fence _ path scope => path < 6 && scope < 5
  | .fencex _ wpath rpath scope => wpath < 6 && rpath < 6 && rpath != 0 && wpath != rpath && scope < 5
  | .acqW _ _ a la b lb | .acqR _ _ a la b lb | .acqT _ _ a la b lb | .rel _ _ a la b lb | .qput _ _ a la b lb
  | .qtake _ _ a la b lb _ | .gdep _ _ a la b lb | .launch _ _ a la b lb => markS a la && markS b lb
  | .gnew _ _ a la b lb k => markS a la && markS b lb && k != 3
  | .ctxctlNew _ _ _ _ | .ctxctlGrant _ _ _ _ | .ctxctlSave _ _ _ _ | .ctxctlResume _ _ _ _
  | .ctxctlSettier _ _ _ _ | .ctxctlRoot _ _ _ _ | .ctxctlEnd _ _ _ _ | .ctxctlQuery _ _ _ _ => true
  | .vadd _ _ _ _ _ _ _ _ | .vsub _ _ _ _ _ _ _ _ | .vmul _ _ _ _ _ _ _ _ | .vfma _ _ _ _ _ _ _ _ => true
  | .vmin _ _ _ _ _ _ _ | .vmax _ _ _ _ _ _ _ | .vabs _ _ _ _ _ | .vneg _ _ _ _ _ | .vcmp _ _ _ _ _ _ _ _ => true
  | .vcswpHi _ _ d a _ b _ | .vcswpLo _ _ d a _ b _ => even d && even a && even b
  | .vcswpX _ _ d a _ k => even d && even a && k < 6
  | .vrcp _ _ _ _ _ | .vrsq _ _ _ _ _ | .vexp2 _ _ _ _ _ | .vlog2 _ _ _ _ _ => true
  | .viadd _ _ _ _ _ _ _ | .visub _ _ _ _ _ _ _ | .viadds _ _ _ _ _ _ _ | .visubs _ _ _ _ _ _ _
  | .vimul _ _ _ _ _ _ _ | .vimac _ _ _ _ _ _ _ | .vimin _ _ _ _ _ _ _ | .vimax _ _ _ _ _ _ _ => true
  | .vicmp _ _ _ _ _ _ _ cc => cc < 6
  | .vshl _ _ _ _ _ _ _ | .vshr _ _ _ _ _ _ _ | .vsra _ _ _ _ _ _ _ | .vpopc _ _ _ _ _ => true
  | .vand _ _ _ _ _ _ _ | .vor _ _ _ _ _ _ _ | .vxor _ _ _ _ _ _ _ | .vandn _ _ _ _ _ _ _
  | .vsel _ _ _ _ _ _ _ _ | .vmov _ _ _ _ _ => true
  | .vpand _ _ _ _ _ _ | .vpor _ _ _ _ _ _ | .vpxor _ _ _ _ _ _ | .vpnot _ _ _ _ | .vpset _ _ _ _
  | .vpcnt _ _ _ _ => true
  | .vcvt _ _ _ _ _ fmt mode sat =>
    elemTag fmt.toNat && mode != 3 && !(intTag fmt.toNat && (mode == 2 || sat)) && !(fmt == 6 && mode == 2)
  | .vrnd _ _ _ _ _ _ | .vclmp _ _ _ _ _ _ _ | .vperm _ _ _ _ _ _ _ _ | .vrot _ _ _ _ _ _ _ => true
  | .vbcst _ _ _ a la o fmt => if isLit o then elemTag fmt.toNat && a == 0 && !la else fmt == 0
  | .vred _ _ _ _ _ op | .vscan _ _ _ _ _ op => op != 3
  | .vidx _ _ _ fmt => fmt != 3
  | .vld _ _ _ a la _ fmt => fmt < 12 && (a != 0 || !la)
  | .vst _ _ _ a la _ => a != 0 || !la
  | .vldx _ _ _ _ _ fmt => fmt != 3
  | .vstx _ _ _ _ _ | .vpln _ _ _ _ _ _ _ | .vupl _ _ _ _ _ _ _ | .vpack _ _ _ _ _ _ _ _ => true
  | .vmulw _ _ d _ _ _ _ => even d
  | .vxtr _ _ _ a _ _ _ => even a
  | .vgrd _ _ _ _ _ _ _ _ => true
  | .vhist _ _ _ lvl _ => lvl != 0 && lvl < 5
  | .vtag _ _ _ _ _ _ | .vtget _ _ _ _ _ => true
  | .xmovV u _ x => xOk u.slot false x
  | .xmovpV u _ x => xOk u.slot true x
  | .bankRV _ _ _ => true
  | .bankWRV _ _ o => isLit o
  | .mcall p o | .acrel p o => p4 p && oM o
  | .mparm p d o => p4 p && r8 d && oM o
  | .madd p d a o => p4 p && r8 d && r8 a && oM o
  | .msql p a o | .mupl p a o => p4 p && r8 a && oM o
  | .msqr p d _ => p4 p && r8 d
  | .mstat p d a => p4 p && r8 d && r8 a
  | .mtst p d a e => p4 p && d < 4 && r8 a && e < 5
  | .mwait p => p4 p
  | .xmovM p x => p4 p && xOk .m false x
  | .xmovpM p x => p4 p && xOk .m true x
  | .kmov _ p d o => p4 p && r16 d && oC o
  | .kadd _ p d a o | .ksub _ p d a o | .kmul _ p d a o | .kand _ p d a o | .kor _ p d a o | .kxor _ p d a o
  | .kshl _ p d a o | .kshr _ p d a o | .ksra _ p d a o | .kmin _ p d a o | .kmax _ p d a o =>
    p4 p && r16 d && r16 a && oC o
  | .kclz _ p d a | .kpopc _ p d a => p4 p && r16 d && r16 a
  | .kcmp _ p _ cc a o => p4 p && cc < 6 && r16 a && oC o
  | .ksel _ p d a b _ => p4 p && r16 d && r16 a && r16 b
  | .kld _ p d a o sx sz => p4 p && r16 d && r16 a && oC o && ldOk o sx sz
  | .kst _ p d a o sz => p4 p && r16 d && r16 a && oC o && ldOk o false sz
  | .xmovC u p x => p4 p && xOk u.slot false x
  | .xmovpC u p x => p4 p && xOk u.slot true x
  | .eset _ p _ lvl a b e => p4 p && lvl < 6 && r16 a && r16 b && r16 e
  | .egoLd _ p _ _ a b e => p4 p && r16 a && even a && r16 b && r16 e
  | .egoSt _ p _ a b e => p4 p && r16 a && even a && r16 b && r16 e
  | .egoLl _ p _ _ a b e => p4 p && r16 a && r16 b && r16 e
  | .egoSp _ p _ a b e => p4 p && r16 a && r16 b && r16 e
  | .esusp _ p _ | .eres _ p _ | .ecan _ p _ | .eclr _ p _ | .cfence _ p _ => p4 p
  | .eqry _ p d _ item => p4 p && r16 d && item != 3
  | .waitwF _ p _ base o => p4 p && base.all r16 && oC o && (isLit o || base.isNone)
  | .waitwS _ p _ base o | .waitwCF _ p _ base o | .waitwCS _ p _ base o => p4 p && base.all r16 && isLit o
  | .cwm _ p d _ _ => p4 p && r16 d
  | .bcast _ p _ a b e => p4 p && r16 a && r16 b && r16 e
  | .blatch _ p _ a b | .bltry _ p _ a b _ => p4 p && r16 a && r16 b
  | .gath _ p _ _ pp l d => p4 p && r16 pp && even pp && r16 l && even l && r16 d
  | .scat _ p _ pp l d => p4 p && r16 pp && even pp && r16 l && even l && r16 d
  | .gwait _ p a => p4 p && r16 a
  | .gwaitAll _ p | .gwaitCan _ p => p4 p
  | .kvapp _ p _ _ pp s => p4 p && r16 pp && even pp && r16 s && even s
  | .pxlook _ p _ r | .pxins _ p _ r | .pxdrop _ p _ r => p4 p && r16 r
  | .coll _ p _ op _ src dst cnt => p4 p && op != 3 && r16 src && r16 dst && r16 cnt
  | .csnap _ p _ a _ => p4 p && r16 a
  | .mirrMark _ p d | .mirrDone _ p d | .mirrSt _ p d => p4 p && r16 d
  | .hqry _ p d o => p4 p && r16 d && oC o
  | .hqryF _ p d o => p4 p && r16 d && isLit o
  | .uopNop n => n != 0
  | .uopPlane _ pi w _ => w != 0 && w < 9 && pi.toNat < w.toNat
  | .uopSpidx _ _ nc _ _ => nc != 0
  | .uopLoop ra reg _ cnt => if reg then cnt == 0 else ra == 0
  | .uopWaitq n => n != 0 && n < 65
  | .uopSetexp _ _ | .uopBload _ _ _ | .uopMulw | .uopXtr _ _ | .uopAcc _ _ | .uopScale | .uopDrain _ _ _ _ _ _
  | .uopJnz _ | .uopEnd | .uopStat _ _ _ | .uopFence => true
  | .resultLanding | .xmovArrival | .freezeEnd | .bankWakeComplete _ _ | .scratchpadBankWake _ | .asyncFaultTake
  | .machineCheck _ | .trapRecordUnlatch | .tqpop | .wdataWrite _ | .wdataRead | .lastfatalClear | .ldepthWrite _
  | .lcntWrite _ | .csrWrite _ _ | .kernelPlace _ | .loadComplete | .dispatchDecision | .starveTimeout _ | .kernelRetire
  | .saveComplete | .restoreComplete | .contextFree _ | .tickBoundary | .paidUntilReached _ | .launchRegionRenewal _
  | .graceEnd _ | .subletTermEnd _ | .zeroFillComplete _ | .copyComplete _ _ _ _ | .copyFault _ | .bcastDrive _
  | .bcastLanding _ | .routineStart | .muplRun | .msqlEntryRead | .scaleEntryEnqueue | .acrelEffect | .statusSample
  | .gatherOpStart | .gatherOpComplete | .gatherElementFault | .barrierRelease _ _ | .barrierRemoteArrival _ _
  | .barrierRemoteRelease _ _ | .collSetRun _ _ | .collSetComplete _ _ | .csnapVisible | .copyNodeComplete _
  | .copyNodeFault _ | .refreshSlot _ | .hotModeEnter _ | .hotModeExit _ | .lineRebuild _ _ | .dieMapOut _ _
  | .mapOutComplete _ _ | .cxlLinkDown _ | .latencyRecordClear _ _ | .portDown _ | .mbaupQmsg _ _ _ _
  | .mbaupAdmin _ _ | .mbaupStatus _ | .mbaupLog _ _ | .mbaupResync _ | .resyncSample | .mbaupSpdm _ _ | .adminJoin _
  | .adminLeave _ | .adminPeerLost _ | .handleInstall _ _ _ _ _ | .pageTableUpdate _ _ _ | .queueCreate _ _ _ _ _
  | .shareAssign _ _ _ | .mirrorAssign _ _ | .domainCreate _ | .exportInstall _ _ | .powerBudgetSet _ _ _
  | .peerConnected _ | .joinTimeout _ | .peerSilence _ | .peerPacketArrive _ | .peerLostTimeout _ | .promoteNotice _ _
  | .heartbeatSend _ | .peerAccessArrive _ _ _ _ | .mirrorGranuleSend | .mirrorAck | .clkdivDrainEnd | .powerGood
  | .selftestEnd _ _ | .partTestEnd _ _ _ | .brambleRestart _ | .hollyFault | .powerCycle | .decodeFault
  | .mbaupOtherType _ _ => true

/-- Whether the value is a barrier specification word for BARR, BWAIT, BTRY and BALR (R298). -/
def barSpecOk (v : Word) : Bool := v.toNat < 2 ^ 14

/-- Whether the value is a barrier specification word for BARM (R298). -/
def barmSpecOk (v : Word) : Bool := v.toNat < 2 ^ 23

/-- Whether a value is a tag word: a known TAG, DW only with PACKED, nothing above (R136). -/
def tagWordOk (v : Word) : Bool :=
  v.toNat < 256 && tagKnown (fld v 0 6).toNat && (fld v 6 2 == 0 || fld v 0 6 == 24)

/-- Whether the offset of a LOOP at `pc` is legal (R83). -/
def loopOffOk (pc : Nat) (v : Word) : Bool :=
  decide (0 < v.toInt) && fld v 0 2 == 0 && decide ((pc : Int) + v.toInt < 0x40000)

/-- A check on the value of an operand when it is a literal. -/
def onLit (o : Opnd) (f : Word → Bool) : Bool :=
  match o with
  | .lit v => f v
  | .reg _ _ => true

/-- The decode checks on a literal's value, for a bundle at `pc` (R83, R85, R136, R171, R298, R349). Every other
instruction accepts every literal at decode. -/
def litOk (pc : Nat) : Instr → Bool
  | .loop _ _ _ o => onLit o (loopOffOk pc)
  | .csrr _ _ o | .csrw _ _ _ _ o | .csrs _ _ _ _ o | .csrc _ _ _ _ o => onLit o (fun v => csrKnown v.toNat)
  | .barm _ _ _ _ o => onLit o barmSpecOk
  | .barr _ _ o | .bwait _ o | .btry _ _ o | .balr _ o => onLit o barSpecOk
  | .clkdivV _ o | .clkdivM _ o | .clkdivC _ o | .clkdivK _ o => onLit o (fun v => 1 ≤ v.toNat && v.toNat ≤ 4)
  | .vtag _ _ _ _ _ o => onLit o tagWordOk
  | .mcall _ o | .mupl _ _ o => onLit o (fun v => v.toNat < 256)
  | .msql _ _ o => onLit o (fun v => 1 ≤ v.toNat && v.toNat ≤ 64)
  | .acrel _ o => onLit o (fun v => v.toNat ≤ 32)
  | _ => true

/-- The privileged instructions of R40: RFT and CTXCTL. -/
def privileged : Instr → Bool
  | .rft _ _ _ | .rftSkip _ _ _ | .ctxctlNew _ _ _ _ | .ctxctlGrant _ _ _ _ | .ctxctlSave _ _ _ _
  | .ctxctlResume _ _ _ _ | .ctxctlSettier _ _ _ _ | .ctxctlRoot _ _ _ _ | .ctxctlEnd _ _ _ _
  | .ctxctlQuery _ _ _ _ => true
  | _ => false

end Sys2Proof.Machine
end

