-- ==== Sys2Proof/WellFormed.lean ====
section
/-! DEFINITION. Well-formed instructions: those whose operands the spec calls legal, so that a word of the instruction
decodes (R42). The checks themselves stand in Sys2Proof/Machine/Legal.lean. -/

namespace Sys2Proof

/-- A well-formed instruction for a bundle at `pc`: its fields are legal, and so are the values of its literals. -/
def Instr.wf (pc : Nat) (i : Instr) : Bool := Machine.legal i && Machine.litOk pc i

end Sys2Proof
end

