-- ==== Sys2Proof/Decode.lean ====
section
/-! DEFINITION. The decoder of slot words (R31 to R42) and of micro-operation words (R164), total on any words and
rejecting by name; after it the encoder, from the same strips. -/

namespace Sys2Proof

open Machine

/-- Why a slot word is refused (R42). -/
inductive DecErr where
  /-- An unassigned opcode, a nonzero reserved field or an illegal field value. -/
  | illegalOp
  /-- A privileged opcode on a compute core. -/
  | priv
  /-- A reference to a literal that the bundle does not carry. -/
  | illegalLiteral
  deriving DecidableEq, Repr

/-! ### The header (R31) -/

/-- The presence bit of a slot. -/
def present (h : IWord) (sl : Slot) : Bool := h.getLsbD (31 - sl.num)

/-- The slots present in a bundle, in the order of R32. -/
def presentSlots (h : IWord) : List Slot := [Slot.s, .v0, .v1, .m, .c0, .c1].filter (present h)

/-- The number of literal words. -/
def litCount (h : IWord) : Nat := (fld h 23 3).toNat

/-- The length of a bundle in words (R22, R31). -/
def bundleLen (h : IWord) : Nat := 1 + (presentSlots h).length + litCount h

/-! ### Fields of a slot word (R32 to R38) -/

def opcode (w : IWord) : Nat := (fld w 24 8).toNat
def pr (w : IWord) : Pred := ⟨w.getLsbD 23, fld w 20 3⟩
def fd (w : IWord) : Reg := fld w 15 5
def fa (w : IWord) : Reg := fld w 10 5
def fb (w : IWord) : Reg := fld w 5 5
def fe (w : IWord) : Reg := fld w 0 5
/-- RR: the last-use marks and the modifier (R35). -/
def l4 (w : IWord) : Bool := w.getLsbD 4
def l3 (w : IWord) : Bool := w.getLsbD 3
def m3 (w : IWord) : BitVec 3 := fld w 0 3
def m2 (w : IWord) : BitVec 2 := fld w 0 2
/-- RL: the last-use mark of a, the literal index, and the register form's b and lb (R36). -/
def l9 (w : IWord) : Bool := w.getLsbD 9
def lidx (w : IWord) : Nat := (fld w 6 3).toNat
def lx (w : IWord) : BitVec 2 := fld w 4 2
def regForm (w : IWord) : Bool := fld w 6 3 == 7
/-- The modifier of RL; the register form has none, and it then reads 0 (DEDUCED, log 16). -/
def mo (w : IWord) : BitVec 4 := if regForm w then 0 else fld w 0 4
def mo2 (w : IWord) : BitVec 2 := if regForm w then 0 else fld w 0 2
/-- The operand of RL, `v` being the literal's value. -/
def op (w : IWord) (v : Word) : Opnd := if regForm w then .reg (fld w 1 5) (w.getLsbD 0) else .lit v
/-- The size and sign bits of loads and stores; the register form moves 8 bytes (R75, R76). -/
def msz (w : IWord) : BitVec 2 := if regForm w then 3 else fld w 0 2
def msx (w : IWord) : Bool := !regForm w && w.getLsbD 2
/-- Narrow views of the fields, and tests that the bits above are zero. -/
def d2 (w : IWord) : BitVec 2 := fld w 15 2
def d3 (w : IWord) : BitVec 3 := fld w 15 3
def d4 (w : IWord) : BitVec 4 := fld w 15 4
def a2 (w : IWord) : BitVec 2 := fld w 10 2
def a3 (w : IWord) : BitVec 3 := fld w 10 3
def b3 (w : IWord) : BitVec 3 := fld w 5 3
def dch (w : IWord) : BitVec 2 := fld w 18 2
def dg (w : IWord) : Bool := w.getLsbD 17
def dir (w : IWord) : BitVec 2 := fld w 15 2
def d0 (w : IWord) : Bool := fd w == 0
def a0 (w : IWord) : Bool := fa w == 0
def b0 (w : IWord) : Bool := fb w == 0
def d8 (w : IWord) : Bool := fd w < 8
def a8 (w : IWord) : Bool := fa w < 8
def b8 (w : IWord) : Bool := fb w < 8
def a4 (w : IWord) : Bool := fa w < 4
def d4lt (w : IWord) : Bool := fd w < 4
def d16 (w : IWord) : Bool := fd w < 16
def m0 (w : IWord) : Bool := mo w == 0
def mod8 (w : IWord) : Bool := mo w < 8
def n0 (w : IWord) : Bool := m3 w == 0
def nreg (w : IWord) : Bool := !regForm w
def z20 (w : IWord) : Bool := fld w 0 20 == 0
def x6 (w : IWord) : Bool := fld w 17 3 < 6
/-- WAITW: its base bit, its reserved bit and its kind (R219). -/
def wb (w : IWord) : Bool := !regForm w && w.getLsbD 3
def w2 (w : IWord) : Bool := !regForm w && w.getLsbD 2
def wk (w : IWord) : BitVec 2 := mo2 w

/-- The slot with a number (R32); 6 and 7 are no slots and read as C1 here, which `x6` keeps out. -/
def slotOf (n : BitVec 3) : Slot :=
  match n.toNat with
  | 0 => .s | 1 => .v0 | 2 => .v1 | 3 => .m | 4 => .c0 | _ => .c1

/-- The operands of the X format (R38). -/
def xop (w : IWord) : XOp := ⟨slotOf (fld w 17 3), w.getLsbD 16, fld w 11 5, fld w 6 5, w.getLsbD 5, fld w 0 5⟩

/-! ### The opcode spaces (R40) -/

/-- A parsed word: whether its format is RL, and the instruction. -/
abbrev Parsed := Option (Bool × Instr)

/-- A word of the RL format, if its reserved fields are zero. -/
def rl (ok : Bool) (i : Instr) : Parsed := if ok then some (true, i) else none

/-- A word of another format, if its reserved fields are zero. -/
def rr (ok : Bool) (i : Instr) : Parsed := if ok then some (false, i) else none

/-- The S space; `v` is the value of the literal that the word refers to. -/
def parseS (w : IWord) (v : Word) : Parsed :=
  match opcode w with
  | 0x01 => rl (m0 w) (.add (pr w) (fd w) (fa w) (l9 w) (op w v))
  | 0x02 => rl (m0 w) (.sub (pr w) (fd w) (fa w) (l9 w) (op w v))
  | 0x03 => rl (m0 w) (.and (pr w) (fd w) (fa w) (l9 w) (op w v))
  | 0x04 => rl (m0 w) (.or (pr w) (fd w) (fa w) (l9 w) (op w v))
  | 0x05 => rl (m0 w) (.xor (pr w) (fd w) (fa w) (l9 w) (op w v))
  | 0x06 => rl (m0 w) (.andn (pr w) (fd w) (fa w) (l9 w) (op w v))
  | 0x07 => rl (m0 w) (.shl (pr w) (fd w) (fa w) (l9 w) (op w v))
  | 0x08 => rl (m0 w) (.shr (pr w) (fd w) (fa w) (l9 w) (op w v))
  | 0x09 => rl (m0 w) (.sra (pr w) (fd w) (fa w) (l9 w) (op w v))
  | 0x0A => rl (m0 w) (.min (pr w) (fd w) (fa w) (l9 w) (op w v))
  | 0x0B => rl (m0 w) (.max (pr w) (fd w) (fa w) (l9 w) (op w v))
  | 0x0C => rl (m0 w) (.minu (pr w) (fd w) (fa w) (l9 w) (op w v))
  | 0x0D => rl (m0 w) (.maxu (pr w) (fd w) (fa w) (l9 w) (op w v))
  | 0x0E => rl (m0 w) (.mul (pr w) (fd w) (fa w) (l9 w) (op w v))
  | 0x0F => rl (m0 w) (.mulh (pr w) (fd w) (fa w) (l9 w) (op w v))
  | 0x10 => rl (m0 w) (.mulhu (pr w) (fd w) (fa w) (l9 w) (op w v))
  | 0x11 => rr (b0 w && !l3 w && n0 w) (.clz (pr w) (fd w) (fa w) (l4 w))
  | 0x12 => rr (b0 w && !l3 w && n0 w) (.popc (pr w) (fd w) (fa w) (l4 w))
  | 0x13 => rl (d8 w && mo w < 4) (.cmpeq (pr w) (d3 w) (fa w) (l9 w) (op w v) (mo2 w))
  | 0x14 => rl (d8 w && mo w < 4) (.cmpne (pr w) (d3 w) (fa w) (l9 w) (op w v) (mo2 w))
  | 0x15 => rl (d8 w && mo w < 4) (.cmplt (pr w) (d3 w) (fa w) (l9 w) (op w v) (mo2 w))
  | 0x16 => rl (d8 w && mo w < 4) (.cmpge (pr w) (d3 w) (fa w) (l9 w) (op w v) (mo2 w))
  | 0x17 => rl (d8 w && mo w < 4) (.cmpltu (pr w) (d3 w) (fa w) (l9 w) (op w v) (mo2 w))
  | 0x18 => rl (d8 w && mo w < 4) (.cmpgeu (pr w) (d3 w) (fa w) (l9 w) (op w v) (mo2 w))
  | 0x19 => rr (d8 w && a8 w && b8 w && !l4 w && !l3 w && m3 w < 2) (.pand (pr w) (d3 w) (a3 w) (b3 w) (m3 w != 0))
  | 0x1A => rr (d8 w && a8 w && b8 w && !l4 w && !l3 w && m3 w < 2) (.por (pr w) (d3 w) (a3 w) (b3 w) (m3 w != 0))
  | 0x1B => rr (d8 w && a8 w && b8 w && !l4 w && !l3 w && m3 w < 2) (.pxor (pr w) (d3 w) (a3 w) (b3 w) (m3 w != 0))
  | 0x1C => rr (true) (.sel (pr w) (fd w) (m3 w) (fa w) (l4 w) (fb w) (l3 w))
  | 0x20 => rl (mod8 w) (.lds (pr w) (fd w) (fa w) (l9 w) (op w v) (msx w) (msz w))
  | 0x21 => rl (mod8 w && !msx w) (.sts (pr w) (fd w) (fa w) (l9 w) (op w v) (msz w))
  | 0x22 => rl (nreg w) (.amo (pr w) (fd w) (fa w) (l9 w) v (w.getLsbD 3) (m3 w))
  | 0x23 => rr (m3 w < 2) (.amocas (pr w) (fd w) (fa w) (l4 w) (fb w) (l3 w) (m3 w != 0))
  | 0x28 => rl (d0 w && a0 w && !l9 w && m0 w) (.br (pr w) (op w v))
  | 0x29 => rr (d0 w && n0 w) (.bri (pr w) (fa w) (l4 w) (fb w) (l3 w))
  | 0x2A => rl (a0 w && !l9 w && m0 w) (.call (pr w) (fd w) (op w v))
  | 0x2B => rr (d0 w && b0 w && !l3 w && n0 w) (.ret (pr w) (fa w) (l4 w))
  | 0x2C => rl (d0 w && m0 w) (.loop (pr w) (fa w) (l9 w) (op w v))
  | 0x2D => rr (z20 w) (.endk (pr w))
  | 0x2E => rl (d0 w && a0 w && !l9 w && m0 w) (.trap (pr w) (op w v))
  | 0x2F => match (m3 w).toNat with
    | 0 => rr (b0 w && !l4 w && !l3 w) (.rft (pr w) (fd w) (fa w))
    | 1 => rr (b0 w && !l4 w && !l3 w) (.rftSkip (pr w) (fd w) (fa w))
    | _ => none
  | 0x30 => rl (a0 w && !l9 w && m0 w) (.csrr (pr w) (fd w) (op w v))
  | 0x31 => rl (m0 w) (.csrw (pr w) (fd w) (fa w) (l9 w) (op w v))
  | 0x32 => rl (m0 w) (.csrs (pr w) (fd w) (fa w) (l9 w) (op w v))
  | 0x33 => rl (m0 w) (.csrc (pr w) (fd w) (fa w) (l9 w) (op w v))
  | 0x34 => rr (x6 w) (.xmovS (pr w) (xop w))
  | 0x35 => rr (x6 w) (.xmovpS (pr w) (xop w))
  | 0x36 => match (mo w).toNat with
    | 0 => rl (d0 w && a0 w && !l9 w) (.bankRS (pr w) (op w v))
    | 1 => rl (d0 w && a0 w && !l9 w) (.bankWRS (pr w) (op w v))
    | 2 => rl (d0 w) (.bankSR (pr w) (fa w) (l9 w) (op w v))
    | 3 => rl (d0 w) (.bankSW (pr w) (fa w) (l9 w) (op w v))
    | _ => none
  | 0x40 => match (mo w).toNat with
    | 1 => rl (nreg w) (.rentSP (pr w) (fd w) (fa w) (l9 w) v)
    | 2 => rl (nreg w) (.rentIS (pr w) (fd w) (fa w) (l9 w) v)
    | 3 => rl (nreg w) (.rentHBM (pr w) (fd w) (fa w) (l9 w) v)
    | 4 => rl (nreg w) (.rentCAP (pr w) (fd w) (fa w) (l9 w) v)
    | _ => none
  | 0x41 => rl (m0 w) (.renew (pr w) (fd w) (fa w) (l9 w) (op w v))
  | 0x42 => rl (m0 w) (.prepay (pr w) (fd w) (fa w) (l9 w) (op w v))
  | 0x43 => rr (n0 w) (.sublet (pr w) (fd w) (fa w) (l4 w) (fb w) (l3 w))
  | 0x44 => rr (b0 w && !l3 w && n0 w) (.vacate (pr w) (fd w) (fa w) (l4 w))
  | 0x45 => rr (b0 w && !l3 w) (.rqry (pr w) (fd w) (fa w) (l4 w) (m3 w))
  | 0x48 => rr (d8 w && a0 w && b0 w && !l4 w && !l3 w) (.fence (pr w) (d3 w) (m3 w))
  | 0x49 => rr (d8 w && a8 w && b0 w && !l4 w && !l3 w) (.fencex (pr w) (d3 w) (a3 w) (m3 w))
  | 0x4A => match (m3 w).toNat with
    | 0 => rr (true) (.acqW (pr w) (fd w) (fa w) (l4 w) (fb w) (l3 w))
    | 1 => rr (true) (.acqR (pr w) (fd w) (fa w) (l4 w) (fb w) (l3 w))
    | 2 => rr (true) (.acqT (pr w) (fd w) (fa w) (l4 w) (fb w) (l3 w))
    | 3 => rr (b0 w && !l3 w) (.acqQ (pr w) (fd w) (fa w) (l4 w))
    | _ => none
  | 0x4B => rr (n0 w) (.rel (pr w) (fd w) (fa w) (l4 w) (fb w) (l3 w))
  | 0x50 => rl (m0 w) (.barm (pr w) (fd w) (fa w) (l9 w) (op w v))
  | 0x51 => rl (a0 w && !l9 w && m0 w) (.barr (pr w) (fd w) (op w v))
  | 0x52 => rl (d0 w && a0 w && !l9 w && m0 w) (.bwait (pr w) (op w v))
  | 0x53 => rl (d8 w && a0 w && !l9 w && m0 w) (.btry (pr w) (d3 w) (op w v))
  | 0x54 => rl (d0 w && a0 w && !l9 w && m0 w) (.balr (pr w) (op w v))
  | 0x58 => rr (n0 w) (.qput (pr w) (fd w) (fa w) (l4 w) (fb w) (l3 w))
  | 0x59 => rr (m3 w < 2) (.qtake (pr w) (fd w) (fa w) (l4 w) (fb w) (l3 w) (m3 w != 0))
  | 0x5A => rr (m3 w < 4) (.gnew (pr w) (fd w) (fa w) (l4 w) (fb w) (l3 w) (m2 w))
  | 0x5B => rr (n0 w) (.gdep (pr w) (fd w) (fa w) (l4 w) (fb w) (l3 w))
  | 0x5C => rr (b0 w && !l3 w && n0 w) (.garm (pr w) (fd w) (fa w) (l4 w))
  | 0x60 => rr (n0 w) (.launch (pr w) (fd w) (fa w) (l4 w) (fb w) (l3 w))
  | 0x61 => match (mo w).toNat with
    | 0 => rl (d0 w && a0 w && !l9 w) (.clkdivV (pr w) (op w v))
    | 1 => rl (d0 w && a0 w && !l9 w) (.clkdivM (pr w) (op w v))
    | 2 => rl (d0 w && a0 w && !l9 w) (.clkdivC (pr w) (op w v))
    | 3 => rl (d0 w && a0 w && !l9 w) (.clkdivK (pr w) (op w v))
    | _ => none
  | 0x62 => rl (d0 w && a0 w && !l9 w && m0 w) (.rfwait (pr w) (op w v))
  | 0x63 => rr (z20 w) (.ctxsw (pr w))
  | 0x64 => match (m3 w).toNat with
    | 0 => rr (!l4 w && !l3 w) (.ctxctlNew (pr w) (fd w) (fa w) (fb w))
    | 1 => rr (!l4 w && !l3 w) (.ctxctlGrant (pr w) (fd w) (fa w) (fb w))
    | 2 => rr (!l4 w && !l3 w) (.ctxctlSave (pr w) (fd w) (fa w) (fb w))
    | 3 => rr (!l4 w && !l3 w) (.ctxctlResume (pr w) (fd w) (fa w) (fb w))
    | 4 => rr (!l4 w && !l3 w) (.ctxctlSettier (pr w) (fd w) (fa w) (fb w))
    | 5 => rr (!l4 w && !l3 w) (.ctxctlRoot (pr w) (fd w) (fa w) (fb w))
    | 6 => rr (!l4 w && !l3 w) (.ctxctlEnd (pr w) (fd w) (fa w) (fb w))
    | 7 => rr (!l4 w && !l3 w) (.ctxctlQuery (pr w) (fd w) (fa w) (fb w))
    | _ => none
  | _ => none

/-- The V space. -/
def parseV (u : VU) (w : IWord) (v : Word) : Parsed :=
  match opcode w with
  | 0x01 => rr (m3 w < 2) (.vadd u (pr w) (fd w) (fa w) (l4 w) (fb w) (l3 w) (m3 w != 0))
  | 0x02 => rr (m3 w < 2) (.vsub u (pr w) (fd w) (fa w) (l4 w) (fb w) (l3 w) (m3 w != 0))
  | 0x03 => rr (m3 w < 2) (.vmul u (pr w) (fd w) (fa w) (l4 w) (fb w) (l3 w) (m3 w != 0))
  | 0x04 => rr (m3 w < 2) (.vfma u (pr w) (fd w) (fa w) (l4 w) (fb w) (l3 w) (m3 w != 0))
  | 0x05 => rr (n0 w) (.vmin u (pr w) (fd w) (fa w) (l4 w) (fb w) (l3 w))
  | 0x06 => rr (n0 w) (.vmax u (pr w) (fd w) (fa w) (l4 w) (fb w) (l3 w))
  | 0x07 => rr (b0 w && !l3 w && n0 w) (.vabs u (pr w) (fd w) (fa w) (l4 w))
  | 0x08 => rr (b0 w && !l3 w && n0 w) (.vneg u (pr w) (fd w) (fa w) (l4 w))
  | 0x09 => rr (d8 w) (.vcmp u (pr w) (d3 w) (fa w) (l4 w) (fb w) (l3 w) (m3 w))
  | 0x0A => match (m3 w).toNat with
    | 0 => rr (true) (.vcswpHi u (pr w) (fd w) (fa w) (l4 w) (fb w) (l3 w))
    | 1 => rr (true) (.vcswpLo u (pr w) (fd w) (fa w) (l4 w) (fb w) (l3 w))
    | _ => rr (b0 w && !l3 w) (.vcswpX u (pr w) (fd w) (fa w) (l4 w) (m3 w - 2))
  | 0x0B => rr (b0 w && !l3 w && n0 w) (.vrcp u (pr w) (fd w) (fa w) (l4 w))
  | 0x0C => rr (b0 w && !l3 w && n0 w) (.vrsq u (pr w) (fd w) (fa w) (l4 w))
  | 0x0D => rr (b0 w && !l3 w && n0 w) (.vexp2 u (pr w) (fd w) (fa w) (l4 w))
  | 0x0E => rr (b0 w && !l3 w && n0 w) (.vlog2 u (pr w) (fd w) (fa w) (l4 w))
  | 0x10 => rr (n0 w) (.viadd u (pr w) (fd w) (fa w) (l4 w) (fb w) (l3 w))
  | 0x11 => rr (n0 w) (.visub u (pr w) (fd w) (fa w) (l4 w) (fb w) (l3 w))
  | 0x12 => rr (n0 w) (.viadds u (pr w) (fd w) (fa w) (l4 w) (fb w) (l3 w))
  | 0x13 => rr (n0 w) (.visubs u (pr w) (fd w) (fa w) (l4 w) (fb w) (l3 w))
  | 0x14 => rr (n0 w) (.vimul u (pr w) (fd w) (fa w) (l4 w) (fb w) (l3 w))
  | 0x15 => rr (n0 w) (.vimac u (pr w) (fd w) (fa w) (l4 w) (fb w) (l3 w))
  | 0x16 => rr (n0 w) (.vimin u (pr w) (fd w) (fa w) (l4 w) (fb w) (l3 w))
  | 0x17 => rr (n0 w) (.vimax u (pr w) (fd w) (fa w) (l4 w) (fb w) (l3 w))
  | 0x18 => rr (d8 w) (.vicmp u (pr w) (d3 w) (fa w) (l4 w) (fb w) (l3 w) (m3 w))
  | 0x19 => rr (n0 w) (.vshl u (pr w) (fd w) (fa w) (l4 w) (fb w) (l3 w))
  | 0x1A => rr (n0 w) (.vshr u (pr w) (fd w) (fa w) (l4 w) (fb w) (l3 w))
  | 0x1B => rr (n0 w) (.vsra u (pr w) (fd w) (fa w) (l4 w) (fb w) (l3 w))
  | 0x1C => rr (b0 w && !l3 w && n0 w) (.vpopc u (pr w) (fd w) (fa w) (l4 w))
  | 0x20 => rr (n0 w) (.vand u (pr w) (fd w) (fa w) (l4 w) (fb w) (l3 w))
  | 0x21 => rr (n0 w) (.vor u (pr w) (fd w) (fa w) (l4 w) (fb w) (l3 w))
  | 0x22 => rr (n0 w) (.vxor u (pr w) (fd w) (fa w) (l4 w) (fb w) (l3 w))
  | 0x23 => rr (n0 w) (.vandn u (pr w) (fd w) (fa w) (l4 w) (fb w) (l3 w))
  | 0x24 => rr (true) (.vsel u (pr w) (fd w) (m3 w) (fa w) (l4 w) (fb w) (l3 w))
  | 0x25 => rr (b0 w && !l3 w && n0 w) (.vmov u (pr w) (fd w) (fa w) (l4 w))
  | 0x28 => rr (d8 w && a8 w && b8 w && !l4 w && !l3 w && m3 w < 2) (.vpand u (pr w) (d3 w) (a3 w) (b3 w) (m3 w != 0))
  | 0x29 => rr (d8 w && a8 w && b8 w && !l4 w && !l3 w && m3 w < 2) (.vpor u (pr w) (d3 w) (a3 w) (b3 w) (m3 w != 0))
  | 0x2A => rr (d8 w && a8 w && b8 w && !l4 w && !l3 w && m3 w < 2) (.vpxor u (pr w) (d3 w) (a3 w) (b3 w) (m3 w != 0))
  | 0x2B => rr (d8 w && a8 w && b0 w && !l4 w && !l3 w && n0 w) (.vpnot u (pr w) (d3 w) (a3 w))
  | 0x2C => rl (d8 w && a0 w && !l9 w && m0 w) (.vpset u (pr w) (d3 w) (op w v))
  | 0x2D => rr (a8 w && b0 w && !l4 w && !l3 w && n0 w) (.vpcnt u (pr w) (fd w) (a3 w))
  | 0x30 => rr (!l3 w) (.vcvt u (pr w) (fd w) (fa w) (l4 w) (fb w) (m2 w) (w.getLsbD 2))
  | 0x31 => rr (b0 w && !l3 w && m3 w < 4) (.vrnd u (pr w) (fd w) (fa w) (l4 w) (m2 w))
  | 0x32 => rr (n0 w) (.vclmp u (pr w) (fd w) (fa w) (l4 w) (fb w) (l3 w))
  | 0x33 => rr (m3 w < 2) (.vperm u (pr w) (fd w) (fa w) (l4 w) (fb w) (l3 w) (m3 w != 0))
  | 0x34 => rl (true) (.vbcst u (pr w) (fd w) (fa w) (l9 w) (op w v) (mo w))
  | 0x35 => rr (n0 w) (.vrot u (pr w) (fd w) (fa w) (l4 w) (fb w) (l3 w))
  | 0x36 => rr (b0 w && !l3 w && m3 w < 4) (.vred u (pr w) (fd w) (fa w) (l4 w) (m2 w))
  | 0x37 => rr (b0 w && !l3 w && m3 w < 4) (.vscan u (pr w) (fd w) (fa w) (l4 w) (m2 w))
  | 0x38 => rr (a0 w && b0 w && !l4 w && !l3 w && m3 w < 4) (.vidx u (pr w) (fd w) (m2 w))
  | 0x40 => rl (nreg w) (.vld u (pr w) (fd w) (fa w) (l9 w) v (mo w))
  | 0x41 => rl (nreg w && m0 w) (.vst u (pr w) (fd w) (fa w) (l9 w) v)
  | 0x42 => rr (b0 w && !l3 w && m3 w < 4) (.vldx u (pr w) (fd w) (fa w) (l4 w) (m2 w))
  | 0x43 => rr (b0 w && !l3 w && n0 w) (.vstx u (pr w) (fd w) (fa w) (l4 w))
  | 0x48 => rr (b8 w && !l3 w) (.vpln u (pr w) (fd w) (fa w) (l4 w) (b3 w) (m3 w))
  | 0x49 => rr (b8 w && !l3 w) (.vupl u (pr w) (fd w) (fa w) (l4 w) (b3 w) (m3 w))
  | 0x4A => rr (b8 w && !l3 w && m3 w < 4) (.vpack u (pr w) (fd w) (fa w) (l4 w) (m2 w) (w.getLsbD 5) (w.extractLsb' 6 2))
  | 0x4B => rr (n0 w) (.vmulw u (pr w) (fd w) (fa w) (l4 w) (fb w) (l3 w))
  | 0x4C => rr (n0 w) (.vxtr u (pr w) (fd w) (fa w) (l4 w) (fb w) (l3 w))
  | 0x4D => rr (d8 w && m3 w < 2) (.vgrd u (pr w) (d3 w) (fa w) (l4 w) (fb w) (l3 w) (m3 w != 0))
  | 0x4E => rr (d0 w && b8 w && !l4 w && !l3 w && m3 w < 2) (.vhist u (pr w) (fa w) (b3 w) (m3 w != 0))
  | 0x50 => rl (m0 w) (.vtag u (pr w) (fd w) (fa w) (l9 w) (op w v))
  | 0x51 => rr (b0 w && !l3 w && n0 w) (.vtget u (pr w) (fd w) (fa w) (l4 w))
  | 0x52 => rr (x6 w) (.xmovV u (pr w) (xop w))
  | 0x53 => rr (x6 w) (.xmovpV u (pr w) (xop w))
  | 0x54 => match (mo w).toNat with
    | 0 => rl (d0 w && a0 w && !l9 w) (.bankRV u (pr w) (op w v))
    | 1 => rl (d0 w && a0 w && !l9 w) (.bankWRV u (pr w) (op w v))
    | _ => none
  | _ => none

/-- The M space. -/
def parseM (w : IWord) (v : Word) : Parsed :=
  match opcode w with
  | 0x01 => rl (d0 w && a0 w && !l9 w && m0 w) (.mcall (pr w) (op w v))
  | 0x02 => rl (a0 w && !l9 w && m0 w) (.mparm (pr w) (fd w) (op w v))
  | 0x03 => rl (!l9 w && m0 w) (.madd (pr w) (fd w) (fa w) (op w v))
  | 0x04 => rl (d0 w && !l9 w && m0 w) (.msql (pr w) (fa w) (op w v))
  | 0x05 => rr (a0 w && b0 w && fe w < 2) (.msqr (pr w) (fd w) (fe w != 0))
  | 0x06 => rl (d0 w && a0 w && !l9 w && m0 w) (.acrel (pr w) (op w v))
  | 0x07 => rr (b0 w && fe w == 0) (.mstat (pr w) (fd w) (fa w))
  | 0x08 => rr (b0 w && fe w < 8) (.mtst (pr w) (fd w) (fa w) (m3 w))
  | 0x09 => rr (z20 w) (.mwait (pr w))
  | 0x0A => rl (d0 w && !l9 w && m0 w) (.mupl (pr w) (fa w) (op w v))
  | 0x0B => rr (x6 w) (.xmovM (pr w) (xop w))
  | 0x0C => rr (x6 w) (.xmovpM (pr w) (xop w))
  | _ => none

/-- The C space. -/
def parseC (u : CU) (w : IWord) (v : Word) : Parsed :=
  match opcode w with
  | 0x01 => rl (a0 w && !l9 w && m0 w) (.kmov u (pr w) (fd w) (op w v))
  | 0x02 => rl (!l9 w && m0 w) (.kadd u (pr w) (fd w) (fa w) (op w v))
  | 0x03 => rl (!l9 w && m0 w) (.ksub u (pr w) (fd w) (fa w) (op w v))
  | 0x04 => rl (!l9 w && m0 w) (.kmul u (pr w) (fd w) (fa w) (op w v))
  | 0x05 => rl (!l9 w && m0 w) (.kand u (pr w) (fd w) (fa w) (op w v))
  | 0x06 => rl (!l9 w && m0 w) (.kor u (pr w) (fd w) (fa w) (op w v))
  | 0x07 => rl (!l9 w && m0 w) (.kxor u (pr w) (fd w) (fa w) (op w v))
  | 0x08 => rl (!l9 w && m0 w) (.kshl u (pr w) (fd w) (fa w) (op w v))
  | 0x09 => rl (!l9 w && m0 w) (.kshr u (pr w) (fd w) (fa w) (op w v))
  | 0x0A => rl (!l9 w && m0 w) (.ksra u (pr w) (fd w) (fa w) (op w v))
  | 0x0B => rl (!l9 w && m0 w) (.kmin u (pr w) (fd w) (fa w) (op w v))
  | 0x0C => rl (!l9 w && m0 w) (.kmax u (pr w) (fd w) (fa w) (op w v))
  | 0x0D => rr (b0 w && fe w == 0) (.kclz u (pr w) (fd w) (fa w))
  | 0x0E => rr (b0 w && fe w == 0) (.kpopc u (pr w) (fd w) (fa w))
  | 0x0F => rl (!l9 w && m0 w) (.kcmp u (pr w) (d2 w) (w.extractLsb' 17 3) (fa w) (op w v))
  | 0x10 => rr (fe w < 4) (.ksel u (pr w) (fd w) (fa w) (fb w) (m2 w))
  | 0x14 => rl (!l9 w && mod8 w) (.kld u (pr w) (fd w) (fa w) (op w v) (msx w) (msz w))
  | 0x15 => rl (!l9 w && mod8 w && !msx w) (.kst u (pr w) (fd w) (fa w) (op w v) (msz w))
  | 0x16 => rr (x6 w) (.xmovC u (pr w) (xop w))
  | 0x17 => rr (x6 w) (.xmovpC u (pr w) (xop w))
  | 0x20 => rr (true) (.eset u (pr w) (dch w) (d3 w) (fa w) (fb w) (fe w))
  | 0x21 =>
    if dir w == 0 then rr (true) (.egoLd u (pr w) (dch w) (dg w) (fa w) (fb w) (fe w))
    else if dir w == 1 && !dg w then rr (true) (.egoSt u (pr w) (dch w) (fa w) (fb w) (fe w))
    else if dir w == 2 then rr (true) (.egoLl u (pr w) (dch w) (dg w) (fa w) (fb w) (fe w))
    else if dir w == 3 && !dg w then rr (true) (.egoSp u (pr w) (dch w) (fa w) (fb w) (fe w))
    else none
  | 0x22 => rr (d16 w && a0 w && b0 w && fe w == 0) (.esusp u (pr w) (d4 w))
  | 0x23 => rr (d16 w && a0 w && b0 w && fe w == 0) (.eres u (pr w) (d4 w))
  | 0x24 => rr (d16 w && a0 w && b0 w && fe w == 0) (.ecan u (pr w) (d4 w))
  | 0x25 => rr (d16 w && a0 w && b0 w && fe w == 0) (.eclr u (pr w) (d4 w))
  | 0x26 => rr (a4 w && b0 w && fe w < 4) (.eqry u (pr w) (fd w) (a2 w) (m2 w))
  | 0x27 =>
    if d4lt w && !l9 w && !w2 w && wk w == 0 && (wb w || a0 w) then rl (true) (.waitwF u (pr w) (d2 w) (if wb w then some (fa w) else none) (op w v))
    else if d4lt w && !l9 w && !w2 w && wk w == 1 && (wb w || a0 w) then rl (true) (.waitwS u (pr w) (d2 w) (if wb w then some (fa w) else none) (op w v))
    else if d4lt w && !l9 w && !w2 w && wk w == 2 && (wb w || a0 w) then rl (true) (.waitwCF u (pr w) (d2 w) (if wb w then some (fa w) else none) (op w v))
    else if d4lt w && !l9 w && !w2 w && wk w == 3 && (wb w || a0 w) then rl (true) (.waitwCS u (pr w) (d2 w) (if wb w then some (fa w) else none) (op w v))
    else none
  | 0x28 => rr (a4 w && b0 w && fe w < 4) (.cwm u (pr w) (fd w) (a2 w) (m2 w))
  | 0x29 => rr (d16 w && a0 w && b0 w && fe w == 0) (.cfence u (pr w) (d4 w))
  | 0x30 => rr (d4lt w) (.bcast u (pr w) (d2 w) (fa w) (fb w) (fe w))
  | 0x31 => rr (d4lt w && fe w == 0) (.blatch u (pr w) (d2 w) (fa w) (fb w))
  | 0x32 => rr (d4lt w && fe w < 4) (.bltry u (pr w) (d2 w) (fa w) (fb w) (m2 w))
  | 0x38 => rr (true) (.gath u (pr w) (w.getLsbD 19) (d4 w) (fa w) (fb w) (fe w))
  | 0x39 => rr (d16 w) (.scat u (pr w) (d4 w) (fa w) (fb w) (fe w))
  | 0x3A =>
    if d0 w && b0 w && fe w == 0 then rr (true) (.gwait u (pr w) (fa w))
    else if d0 w && a0 w && b0 w && fe w == 1 then rr (true) (.gwaitAll u (pr w))
    else if d0 w && a0 w && b0 w && fe w == 2 then rr (true) (.gwaitCan u (pr w))
    else none
  | 0x3B => rr (fe w == 0) (.kvapp u (pr w) (w.getLsbD 19) (d4 w) (fa w) (fb w))
  | 0x3C => rr (d16 w && b0 w && fe w == 0) (.pxlook u (pr w) (d4 w) (fa w))
  | 0x3D => rr (d16 w && b0 w && fe w == 0) (.pxins u (pr w) (d4 w) (fa w))
  | 0x3E => rr (d16 w && b0 w && fe w == 0) (.pxdrop u (pr w) (d4 w) (fa w))
  | 0x40 => rr (true) (.coll u (pr w) (w.getLsbD 19) (w.extractLsb' 17 2) (d2 w) (fa w) (fb w) (fe w))
  | 0x41 => rr (d4lt w && b0 w && fe w < 2) (.csnap u (pr w) (d2 w) (fa w) (fe w != 0))
  | 0x42 =>
    if a0 w && b0 w && fe w == 0 then rr (true) (.mirrMark u (pr w) (fd w))
    else if a0 w && b0 w && fe w == 1 then rr (true) (.mirrDone u (pr w) (fd w))
    else if a0 w && b0 w && fe w == 2 then rr (true) (.mirrSt u (pr w) (fd w))
    else none
  | 0x43 => match (mo w).toNat with
    | 0 => rl (a0 w && !l9 w) (.hqry u (pr w) (fd w) (op w v))
    | 1 => rl (a0 w && !l9 w) (.hqryF u (pr w) (fd w) (op w v))
    | _ => none
  | _ => none

/-- A word in the opcode space of its slot. -/
def parse (sl : Slot) (w : IWord) (v : Word) : Parsed :=
  match sl with
  | .s => parseS w v
  | .v0 => parseV .v0 w v
  | .v1 => parseV .v1 w v
  | .m => parseM w v
  | .c0 => parseC .c0 w v
  | .c1 => parseC .c1 w v

/-- Whether the literal reference of an RL word exists (R36). -/
def litExists (w : IWord) (lits : List IWord) : Bool :=
  regForm w || (lidx w < lits.length && (lx w != 2 || lidx w + 1 < lits.length))

/-- The literal's value (R36); 0 for a word that refers to none. -/
def litValue (w : IWord) (lits : List IWord) : Word :=
  let lo := (lits[lidx w]?).getD 0
  let hi := (lits[lidx w + 1]?).getD 0
  match (lx w).toNat with
  | 0 => lo.setWidth 64
  | 1 => lo.signExtend 64
  | 2 => hi ++ lo
  | _ => lo ++ 0#32

/-- The decoder of one slot word, with the checks of R42 in their order. `ctrl` tells a control core; `pc` is the
bundle's address. -/
def decodeSlot (ctrl : Bool) (pc : Nat) (sl : Slot) (lits : List IWord) (w : IWord) : Except DecErr Instr :=
  match parse sl w (litValue w lits) with
  | none => .error .illegalOp
  | some (isRl, i) =>
    if !legal i then .error .illegalOp
    else if privileged i && !ctrl then .error .priv
    else if isRl && !litExists w lits then .error .illegalLiteral
    else if !litOk pc i then .error .illegalOp
    else .ok i

/-- The slots of a bundle decoded left to right, stopping at the first that fails, with that slot and its word (R42). -/
def decodeSlots (ctrl : Bool) (pc : Nat) (lits : List IWord) :
    List Slot → List IWord → Except (DecErr × Slot × IWord) (List (Slot × IWord × Instr))
  | [], _ => .ok []
  | sl :: ss, ws =>
    let w := ws.headD 0
    match decodeSlot ctrl pc sl lits w with
    | .error e => .error (e, sl, w)
    | .ok i =>
      match decodeSlots ctrl pc lits ss ws.tail with
      | .error e => .error e
      | .ok r => .ok ((sl, w, i) :: r)

/-- The slots of a bundle from its words, the header first. -/
def decodeBundle (ctrl : Bool) (pc : Nat) (h : IWord) (ws : List IWord) :
    Except (DecErr × Slot × IWord) (List (Slot × IWord × Instr)) :=
  decodeSlots ctrl pc (ws.drop (presentSlots h).length) (presentSlots h) ws

/-! ### Micro-operations (R164) -/

/-- A micro-operation word; reserved fields and counts out of range are refused (R166). -/
def decodeUop (w : Word) : Option Instr :=
  let ra : BitVec 3 := fld w 57 3
  let rb : BitVec 3 := fld w 54 3
  let imm : BitVec 32 := fld w 0 32
  let z (lo len : Nat) : Bool := fld w lo len == 0
  let ok (c : Bool) (i : Instr) : Option Instr := if c && legal i then some i else none
  match (fld w 60 4).toNat with
  | 0 => ok (z 16 44) (.uopNop (fld w 0 16))
  | 1 => ok (z 54 3 && z 39 15) (.uopPlane ra (fld w 32 3) (fld w 35 4) imm)
  | 2 => ok (z 54 3 && z 33 21) (.uopBload ra (bit w 32) imm)
  | 3 => ok (z 0 60) .uopMulw
  | 4 => ok (z 0 32 && z 34 26) (.uopXtr (bit w 32) (bit w 33))
  | 5 => ok (z 0 32 && z 35 22) (.uopAcc ra (fld w 32 3))
  | 6 => ok (z 0 60) .uopScale
  | 7 => ok (z 35 19) (.uopSpidx ra rb (fld w 32 2) (bit w 34) imm)
  | 8 => ok (z 36 18) (.uopDrain ra rb (fld w 32 2) (bit w 34) (bit w 35) imm)
  | 9 => ok (z 16 16 && z 33 10 && z 54 3) (.uopLoop ra (bit w 32) (fld w 43 11) (fld w 0 16))
  | 10 => ok (z 0 43 && z 54 6) (.uopJnz (fld w 43 11))
  | 11 => ok (z 0 60) .uopEnd
  | 12 => ok (z 0 32 && z 39 21) (.uopWaitq (fld w 32 7))
  | 13 => ok (z 0 32 && z 43 17) (.uopSetexp (fld w 32 10) (bit w 42))
  | 14 => ok (z 0 32 && z 33 21) (.uopStat ra rb (bit w 32))
  | _ => ok (z 0 60) .uopFence

/-! ### The encoder -/

/-- A Bool as the modifier bit of RR. -/
def bit3 (b : Bool) : BitVec 3 := if b then 1 else 0

/-- A Bool as the modifier bit of the M and C spaces. -/
def bit5 (b : Bool) : BitVec 5 := if b then 1 else 0

/-- The modifier of loads and stores. -/
def szMod (sx : Bool) (sz : BitVec 2) : BitVec 4 := 0#1 ++ BitVec.ofBool sx ++ sz

/-- The modifier of WAITW (R219). -/
def wMod (base : Option Reg) (k : BitVec 2) : BitVec 4 := BitVec.ofBool base.isSome ++ 0#1 ++ k

/-- The upper twelve bits of a slot word (R32). -/
def topBits (o : BitVec 8) (p : Pred) : BitVec 12 := o ++ BitVec.ofBool p.inv ++ p.idx

/-- The RR strip of the S and V spaces (R35). -/
def rrw (o : BitVec 8) (p : Pred) (d a b : Reg) (la lb : Bool) (m : BitVec 3) : IWord :=
  topBits o p ++ (d ++ a ++ b ++ BitVec.ofBool la ++ BitVec.ofBool lb ++ m)

/-- The RR strip of the M and C spaces (R35). -/
def rew (o : BitVec 8) (p : Pred) (d a b e : Reg) : IWord := topBits o p ++ (d ++ a ++ b ++ e)

/-- The form of a literal (R37): lx and the literal words. -/
def litForm (v : Word) : BitVec 2 × List IWord :=
  let lo : IWord := fld v 0 32
  let hi : IWord := fld v 32 32
  if hi == 0 then (0, [lo])
  else if lo.signExtend 64 == v then (1, [lo])
  else if lo == 0 then (3, [hi])
  else (2, [lo, hi])

/-- The RL strip (R36), its literal at index 0. -/
def rlw (o : BitVec 8) (p : Pred) (d a : Reg) (la : Bool) (x : Opnd) (m : BitVec 4) : IWord :=
  match x with
  | .lit v => topBits o p ++ (d ++ a ++ BitVec.ofBool la ++ 0#3 ++ (litForm v).1 ++ m)
  | .reg b l => topBits o p ++ (d ++ a ++ BitVec.ofBool la ++ 7#3 ++ b ++ BitVec.ofBool l)

/-- The literal words of an operand. -/
def litsOf : Opnd → List IWord
  | .lit v => (litForm v).2
  | .reg _ _ => []

/-- The X strip (R38). -/
def xw (o : BitVec 8) (p : Pred) (x : XOp) : IWord :=
  topBits o p ++ (BitVec.ofNat 3 x.dfile.num ++ BitVec.ofBool x.dp ++ x.dreg ++ x.sreg ++ BitVec.ofBool x.lu ++ x.part)

/-- The slot, the slot word and the literal words of an instruction; a step that has no slot word gives an empty word of
the S slot. -/
def encodeSlot : Instr → Slot × IWord × List IWord
  | .add p d a la o => (.s, rlw 0x01 p d a la o 0, litsOf o)
  | .sub p d a la o => (.s, rlw 0x02 p d a la o 0, litsOf o)
  | .and p d a la o => (.s, rlw 0x03 p d a la o 0, litsOf o)
  | .or p d a la o => (.s, rlw 0x04 p d a la o 0, litsOf o)
  | .xor p d a la o => (.s, rlw 0x05 p d a la o 0, litsOf o)
  | .andn p d a la o => (.s, rlw 0x06 p d a la o 0, litsOf o)
  | .shl p d a la o => (.s, rlw 0x07 p d a la o 0, litsOf o)
  | .shr p d a la o => (.s, rlw 0x08 p d a la o 0, litsOf o)
  | .sra p d a la o => (.s, rlw 0x09 p d a la o 0, litsOf o)
  | .min p d a la o => (.s, rlw 0x0A p d a la o 0, litsOf o)
  | .max p d a la o => (.s, rlw 0x0B p d a la o 0, litsOf o)
  | .minu p d a la o => (.s, rlw 0x0C p d a la o 0, litsOf o)
  | .maxu p d a la o => (.s, rlw 0x0D p d a la o 0, litsOf o)
  | .mul p d a la o => (.s, rlw 0x0E p d a la o 0, litsOf o)
  | .mulh p d a la o => (.s, rlw 0x0F p d a la o 0, litsOf o)
  | .mulhu p d a la o => (.s, rlw 0x10 p d a la o 0, litsOf o)
  | .clz p d a la => (.s, rrw 0x11 p d a 0 la false 0, [])
  | .popc p d a la => (.s, rrw 0x12 p d a 0 la false 0, [])
  | .cmpeq p d a la o m => (.s, rlw 0x13 p (d.setWidth 5) a la o (m.setWidth 4), litsOf o)
  | .cmpne p d a la o m => (.s, rlw 0x14 p (d.setWidth 5) a la o (m.setWidth 4), litsOf o)
  | .cmplt p d a la o m => (.s, rlw 0x15 p (d.setWidth 5) a la o (m.setWidth 4), litsOf o)
  | .cmpge p d a la o m => (.s, rlw 0x16 p (d.setWidth 5) a la o (m.setWidth 4), litsOf o)
  | .cmpltu p d a la o m => (.s, rlw 0x17 p (d.setWidth 5) a la o (m.setWidth 4), litsOf o)
  | .cmpgeu p d a la o m => (.s, rlw 0x18 p (d.setWidth 5) a la o (m.setWidth 4), litsOf o)
  | .pand p d a b n => (.s, rrw 0x19 p (d.setWidth 5) (a.setWidth 5) (b.setWidth 5) false false (bit3 n), [])
  | .por p d a b n => (.s, rrw 0x1A p (d.setWidth 5) (a.setWidth 5) (b.setWidth 5) false false (bit3 n), [])
  | .pxor p d a b n => (.s, rrw 0x1B p (d.setWidth 5) (a.setWidth 5) (b.setWidth 5) false false (bit3 n), [])
  | .sel p d k a la b lb => (.s, rrw 0x1C p d a b la lb k, [])
  | .lds p d a la o sx sz => (.s, rlw 0x20 p d a la o (szMod sx sz), litsOf o)
  | .sts p d a la o sz => (.s, rlw 0x21 p d a la o (szMod false sz), litsOf o)
  | .amo p d a la off w' o' => (.s, rlw 0x22 p d a la (.lit off) (BitVec.ofBool w' ++ o'), litsOf (.lit off))
  | .amocas p d a la b lb w' => (.s, rrw 0x23 p d a b la lb (bit3 w'), [])
  | .br p o => (.s, rlw 0x28 p 0 0 false o 0, litsOf o)
  | .bri p a la b lb => (.s, rrw 0x29 p 0 a b la lb 0, [])
  | .call p d o => (.s, rlw 0x2A p d 0 false o 0, litsOf o)
  | .ret p a la => (.s, rrw 0x2B p 0 a 0 la false 0, [])
  | .loop p a la o => (.s, rlw 0x2C p 0 a la o 0, litsOf o)
  | .endk p => (.s, rrw 0x2D p 0 0 0 false false 0, [])
  | .trap p o => (.s, rlw 0x2E p 0 0 false o 0, litsOf o)
  | .rft p d a => (.s, rrw 0x2F p d a 0 false false 0, [])
  | .rftSkip p d a => (.s, rrw 0x2F p d a 0 false false 1, [])
  | .csrr p d o => (.s, rlw 0x30 p d 0 false o 0, litsOf o)
  | .csrw p d a la o => (.s, rlw 0x31 p d a la o 0, litsOf o)
  | .csrs p d a la o => (.s, rlw 0x32 p d a la o 0, litsOf o)
  | .csrc p d a la o => (.s, rlw 0x33 p d a la o 0, litsOf o)
  | .xmovS p x => (.s, xw 0x34 p x, [])
  | .xmovpS p x => (.s, xw 0x35 p x, [])
  | .bankRS p o => (.s, rlw 0x36 p 0 0 false o 0, litsOf o)
  | .bankWRS p o => (.s, rlw 0x36 p 0 0 false o 1, litsOf o)
  | .bankSR p a la o => (.s, rlw 0x36 p 0 a la o 2, litsOf o)
  | .bankSW p a la o => (.s, rlw 0x36 p 0 a la o 3, litsOf o)
  | .rentSP p d a la t => (.s, rlw 0x40 p d a la (.lit t) 1, litsOf (.lit t))
  | .rentIS p d a la t => (.s, rlw 0x40 p d a la (.lit t) 2, litsOf (.lit t))
  | .rentHBM p d a la t => (.s, rlw 0x40 p d a la (.lit t) 3, litsOf (.lit t))
  | .rentCAP p d a la t => (.s, rlw 0x40 p d a la (.lit t) 4, litsOf (.lit t))
  | .renew p d a la o => (.s, rlw 0x41 p d a la o 0, litsOf o)
  | .prepay p d a la o => (.s, rlw 0x42 p d a la o 0, litsOf o)
  | .sublet p d a la b lb => (.s, rrw 0x43 p d a b la lb 0, [])
  | .vacate p d a la => (.s, rrw 0x44 p d a 0 la false 0, [])
  | .rqry p d a la item => (.s, rrw 0x45 p d a 0 la false item, [])
  | .fence p path scope => (.s, rrw 0x48 p (path.setWidth 5) 0 0 false false scope, [])
  | .fencex p wpath rpath scope => (.s, rrw 0x49 p (wpath.setWidth 5) (rpath.setWidth 5) 0 false false scope, [])
  | .acqW p d a la b lb => (.s, rrw 0x4A p d a b la lb 0, [])
  | .acqR p d a la b lb => (.s, rrw 0x4A p d a b la lb 1, [])
  | .acqT p d a la b lb => (.s, rrw 0x4A p d a b la lb 2, [])
  | .acqQ p d a la => (.s, rrw 0x4A p d a 0 la false 3, [])
  | .rel p d a la b lb => (.s, rrw 0x4B p d a b la lb 0, [])
  | .barm p d a la o => (.s, rlw 0x50 p d a la o 0, litsOf o)
  | .barr p d o => (.s, rlw 0x51 p d 0 false o 0, litsOf o)
  | .bwait p o => (.s, rlw 0x52 p 0 0 false o 0, litsOf o)
  | .btry p d o => (.s, rlw 0x53 p (d.setWidth 5) 0 false o 0, litsOf o)
  | .balr p o => (.s, rlw 0x54 p 0 0 false o 0, litsOf o)
  | .qput p d a la b lb => (.s, rrw 0x58 p d a b la lb 0, [])
  | .qtake p d a la b lb w' => (.s, rrw 0x59 p d a b la lb (bit3 w'), [])
  | .gnew p d a la b lb k => (.s, rrw 0x5A p d a b la lb (k.setWidth 3), [])
  | .gdep p d a la b lb => (.s, rrw 0x5B p d a b la lb 0, [])
  | .garm p d a la => (.s, rrw 0x5C p d a 0 la false 0, [])
  | .launch p d a la b lb => (.s, rrw 0x60 p d a b la lb 0, [])
  | .clkdivV p o => (.s, rlw 0x61 p 0 0 false o 0, litsOf o)
  | .clkdivM p o => (.s, rlw 0x61 p 0 0 false o 1, litsOf o)
  | .clkdivC p o => (.s, rlw 0x61 p 0 0 false o 2, litsOf o)
  | .clkdivK p o => (.s, rlw 0x61 p 0 0 false o 3, litsOf o)
  | .rfwait p o => (.s, rlw 0x62 p 0 0 false o 0, litsOf o)
  | .ctxsw p => (.s, rrw 0x63 p 0 0 0 false false 0, [])
  | .ctxctlNew p d a b => (.s, rrw 0x64 p d a b false false 0, [])
  | .ctxctlGrant p d a b => (.s, rrw 0x64 p d a b false false 1, [])
  | .ctxctlSave p d a b => (.s, rrw 0x64 p d a b false false 2, [])
  | .ctxctlResume p d a b => (.s, rrw 0x64 p d a b false false 3, [])
  | .ctxctlSettier p d a b => (.s, rrw 0x64 p d a b false false 4, [])
  | .ctxctlRoot p d a b => (.s, rrw 0x64 p d a b false false 5, [])
  | .ctxctlEnd p d a b => (.s, rrw 0x64 p d a b false false 6, [])
  | .ctxctlQuery p d a b => (.s, rrw 0x64 p d a b false false 7, [])
  | .vadd u p d a la b lb rtz => (u.slot, rrw 0x01 p d a b la lb (bit3 rtz), [])
  | .vsub u p d a la b lb rtz => (u.slot, rrw 0x02 p d a b la lb (bit3 rtz), [])
  | .vmul u p d a la b lb rtz => (u.slot, rrw 0x03 p d a b la lb (bit3 rtz), [])
  | .vfma u p d a la b lb rtz => (u.slot, rrw 0x04 p d a b la lb (bit3 rtz), [])
  | .vmin u p d a la b lb => (u.slot, rrw 0x05 p d a b la lb 0, [])
  | .vmax u p d a la b lb => (u.slot, rrw 0x06 p d a b la lb 0, [])
  | .vabs u p d a la => (u.slot, rrw 0x07 p d a 0 la false 0, [])
  | .vneg u p d a la => (u.slot, rrw 0x08 p d a 0 la false 0, [])
  | .vcmp u p d a la b lb cc => (u.slot, rrw 0x09 p (d.setWidth 5) a b la lb cc, [])
  | .vcswpHi u p d a la b lb => (u.slot, rrw 0x0A p d a b la lb 0, [])
  | .vcswpLo u p d a la b lb => (u.slot, rrw 0x0A p d a b la lb 1, [])
  | .vcswpX u p d a la k => (u.slot, rrw 0x0A p d a 0 la false (k + 2), [])
  | .vrcp u p d a la => (u.slot, rrw 0x0B p d a 0 la false 0, [])
  | .vrsq u p d a la => (u.slot, rrw 0x0C p d a 0 la false 0, [])
  | .vexp2 u p d a la => (u.slot, rrw 0x0D p d a 0 la false 0, [])
  | .vlog2 u p d a la => (u.slot, rrw 0x0E p d a 0 la false 0, [])
  | .viadd u p d a la b lb => (u.slot, rrw 0x10 p d a b la lb 0, [])
  | .visub u p d a la b lb => (u.slot, rrw 0x11 p d a b la lb 0, [])
  | .viadds u p d a la b lb => (u.slot, rrw 0x12 p d a b la lb 0, [])
  | .visubs u p d a la b lb => (u.slot, rrw 0x13 p d a b la lb 0, [])
  | .vimul u p d a la b lb => (u.slot, rrw 0x14 p d a b la lb 0, [])
  | .vimac u p d a la b lb => (u.slot, rrw 0x15 p d a b la lb 0, [])
  | .vimin u p d a la b lb => (u.slot, rrw 0x16 p d a b la lb 0, [])
  | .vimax u p d a la b lb => (u.slot, rrw 0x17 p d a b la lb 0, [])
  | .vicmp u p d a la b lb cc => (u.slot, rrw 0x18 p (d.setWidth 5) a b la lb cc, [])
  | .vshl u p d a la b lb => (u.slot, rrw 0x19 p d a b la lb 0, [])
  | .vshr u p d a la b lb => (u.slot, rrw 0x1A p d a b la lb 0, [])
  | .vsra u p d a la b lb => (u.slot, rrw 0x1B p d a b la lb 0, [])
  | .vpopc u p d a la => (u.slot, rrw 0x1C p d a 0 la false 0, [])
  | .vand u p d a la b lb => (u.slot, rrw 0x20 p d a b la lb 0, [])
  | .vor u p d a la b lb => (u.slot, rrw 0x21 p d a b la lb 0, [])
  | .vxor u p d a la b lb => (u.slot, rrw 0x22 p d a b la lb 0, [])
  | .vandn u p d a la b lb => (u.slot, rrw 0x23 p d a b la lb 0, [])
  | .vsel u p d k a la b lb => (u.slot, rrw 0x24 p d a b la lb k, [])
  | .vmov u p d a la => (u.slot, rrw 0x25 p d a 0 la false 0, [])
  | .vpand u p d a b n => (u.slot, rrw 0x28 p (d.setWidth 5) (a.setWidth 5) (b.setWidth 5) false false (bit3 n), [])
  | .vpor u p d a b n => (u.slot, rrw 0x29 p (d.setWidth 5) (a.setWidth 5) (b.setWidth 5) false false (bit3 n), [])
  | .vpxor u p d a b n => (u.slot, rrw 0x2A p (d.setWidth 5) (a.setWidth 5) (b.setWidth 5) false false (bit3 n), [])
  | .vpnot u p d a => (u.slot, rrw 0x2B p (d.setWidth 5) (a.setWidth 5) 0 false false 0, [])
  | .vpset u p d o => (u.slot, rlw 0x2C p (d.setWidth 5) 0 false o 0, litsOf o)
  | .vpcnt u p d a => (u.slot, rrw 0x2D p d (a.setWidth 5) 0 false false 0, [])
  | .vcvt u p d a la fmt mode sat => (u.slot, rrw 0x30 p d a fmt la false (BitVec.ofBool sat ++ mode), [])
  | .vrnd u p d a la mode => (u.slot, rrw 0x31 p d a 0 la false (mode.setWidth 3), [])
  | .vclmp u p d a la b lb => (u.slot, rrw 0x32 p d a b la lb 0, [])
  | .vperm u p d a la b lb byte => (u.slot, rrw 0x33 p d a b la lb (bit3 byte), [])
  | .vbcst u p d a la o fmt => (u.slot, rlw 0x34 p d a la o fmt, litsOf o)
  | .vrot u p d a la b lb => (u.slot, rrw 0x35 p d a b la lb 0, [])
  | .vred u p d a la op' => (u.slot, rrw 0x36 p d a 0 la false (op'.setWidth 3), [])
  | .vscan u p d a la op' => (u.slot, rrw 0x37 p d a 0 la false (op'.setWidth 3), [])
  | .vidx u p d fmt => (u.slot, rrw 0x38 p d 0 0 false false (fmt.setWidth 3), [])
  | .vld u p d a la off fmt => (u.slot, rlw 0x40 p d a la (.lit off) fmt, litsOf (.lit off))
  | .vst u p d a la off => (u.slot, rlw 0x41 p d a la (.lit off) 0, litsOf (.lit off))
  | .vldx u p d a la fmt => (u.slot, rrw 0x42 p d a 0 la false (fmt.setWidth 3), [])
  | .vstx u p d a la => (u.slot, rrw 0x43 p d a 0 la false 0, [])
  | .vpln u p d a la s j => (u.slot, rrw 0x48 p d a (s.setWidth 5) la false j, [])
  | .vupl u p d a la s j => (u.slot, rrw 0x49 p d a (s.setWidth 5) la false j, [])
  | .vpack u p d a la g r part => (u.slot, rrw 0x4A p d a ((part ++ BitVec.ofBool r).setWidth 5) la false (g.setWidth 3), [])
  | .vmulw u p d a la b lb => (u.slot, rrw 0x4B p d a b la lb 0, [])
  | .vxtr u p d a la b lb => (u.slot, rrw 0x4C p d a b la lb 0, [])
  | .vgrd u p d a la b lb t => (u.slot, rrw 0x4D p (d.setWidth 5) a b la lb (bit3 t), [])
  | .vhist u p a lvl u8 => (u.slot, rrw 0x4E p 0 a (lvl.setWidth 5) false false (bit3 u8), [])
  | .vtag u p d a la o => (u.slot, rlw 0x50 p d a la o 0, litsOf o)
  | .vtget u p d a la => (u.slot, rrw 0x51 p d a 0 la false 0, [])
  | .xmovV u p x => (u.slot, xw 0x52 p x, [])
  | .xmovpV u p x => (u.slot, xw 0x53 p x, [])
  | .bankRV u p o => (u.slot, rlw 0x54 p 0 0 false o 0, litsOf o)
  | .bankWRV u p o => (u.slot, rlw 0x54 p 0 0 false o 1, litsOf o)
  | .mcall p o => (.m, rlw 0x01 p 0 0 false o 0, litsOf o)
  | .mparm p d o => (.m, rlw 0x02 p d 0 false o 0, litsOf o)
  | .madd p d a o => (.m, rlw 0x03 p d a false o 0, litsOf o)
  | .msql p a o => (.m, rlw 0x04 p 0 a false o 0, litsOf o)
  | .msqr p d clr => (.m, rew 0x05 p d 0 0 (bit5 clr), [])
  | .acrel p o => (.m, rlw 0x06 p 0 0 false o 0, litsOf o)
  | .mstat p d a => (.m, rew 0x07 p d a 0 0, [])
  | .mtst p d a e => (.m, rew 0x08 p d a 0 (e.setWidth 5), [])
  | .mwait p => (.m, rew 0x09 p 0 0 0 0, [])
  | .mupl p a o => (.m, rlw 0x0A p 0 a false o 0, litsOf o)
  | .xmovM p x => (.m, xw 0x0B p x, [])
  | .xmovpM p x => (.m, xw 0x0C p x, [])
  | .kmov u p d o => (u.slot, rlw 0x01 p d 0 false o 0, litsOf o)
  | .kadd u p d a o => (u.slot, rlw 0x02 p d a false o 0, litsOf o)
  | .ksub u p d a o => (u.slot, rlw 0x03 p d a false o 0, litsOf o)
  | .kmul u p d a o => (u.slot, rlw 0x04 p d a false o 0, litsOf o)
  | .kand u p d a o => (u.slot, rlw 0x05 p d a false o 0, litsOf o)
  | .kor u p d a o => (u.slot, rlw 0x06 p d a false o 0, litsOf o)
  | .kxor u p d a o => (u.slot, rlw 0x07 p d a false o 0, litsOf o)
  | .kshl u p d a o => (u.slot, rlw 0x08 p d a false o 0, litsOf o)
  | .kshr u p d a o => (u.slot, rlw 0x09 p d a false o 0, litsOf o)
  | .ksra u p d a o => (u.slot, rlw 0x0A p d a false o 0, litsOf o)
  | .kmin u p d a o => (u.slot, rlw 0x0B p d a false o 0, litsOf o)
  | .kmax u p d a o => (u.slot, rlw 0x0C p d a false o 0, litsOf o)
  | .kclz u p d a => (u.slot, rew 0x0D p d a 0 0, [])
  | .kpopc u p d a => (u.slot, rew 0x0E p d a 0 0, [])
  | .kcmp u p d cc a o => (u.slot, rlw 0x0F p (cc ++ d) a false o 0, litsOf o)
  | .ksel u p d a b e => (u.slot, rew 0x10 p d a b (e.setWidth 5), [])
  | .kld u p d a o sx sz => (u.slot, rlw 0x14 p d a false o (szMod sx sz), litsOf o)
  | .kst u p d a o sz => (u.slot, rlw 0x15 p d a false o (szMod false sz), litsOf o)
  | .xmovC u p x => (u.slot, xw 0x16 p x, [])
  | .xmovpC u p x => (u.slot, xw 0x17 p x, [])
  | .eset u p ch lvl a b e => (u.slot, rew 0x20 p (ch ++ lvl) a b e, [])
  | .egoLd u p ch g a b e => (u.slot, rew 0x21 p (ch ++ BitVec.ofBool g ++ 0#2) a b e, [])
  | .egoSt u p ch a b e => (u.slot, rew 0x21 p (ch ++ 1#3) a b e, [])
  | .egoLl u p ch g a b e => (u.slot, rew 0x21 p (ch ++ BitVec.ofBool g ++ 2#2) a b e, [])
  | .egoSp u p ch a b e => (u.slot, rew 0x21 p (ch ++ 3#3) a b e, [])
  | .esusp u p mask => (u.slot, rew 0x22 p (mask.setWidth 5) 0 0 0, [])
  | .eres u p mask => (u.slot, rew 0x23 p (mask.setWidth 5) 0 0 0, [])
  | .ecan u p mask => (u.slot, rew 0x24 p (mask.setWidth 5) 0 0 0, [])
  | .eclr u p mask => (u.slot, rew 0x25 p (mask.setWidth 5) 0 0 0, [])
  | .eqry u p d ch item => (u.slot, rew 0x26 p d (ch.setWidth 5) 0 (item.setWidth 5), [])
  | .waitwF u p ch base o => (u.slot, rlw 0x27 p (ch.setWidth 5) (base.getD 0) false o (wMod base 0), litsOf o)
  | .waitwS u p ch base o => (u.slot, rlw 0x27 p (ch.setWidth 5) (base.getD 0) false o (wMod base 1), litsOf o)
  | .waitwCF u p ch base o => (u.slot, rlw 0x27 p (ch.setWidth 5) (base.getD 0) false o (wMod base 2), litsOf o)
  | .waitwCS u p ch base o => (u.slot, rlw 0x27 p (ch.setWidth 5) (base.getD 0) false o (wMod base 3), litsOf o)
  | .cwm u p d ch item => (u.slot, rew 0x28 p d (ch.setWidth 5) 0 (item.setWidth 5), [])
  | .cfence u p mask => (u.slot, rew 0x29 p (mask.setWidth 5) 0 0 0, [])
  | .bcast u p bus a b e => (u.slot, rew 0x30 p (bus.setWidth 5) a b e, [])
  | .blatch u p bus a b => (u.slot, rew 0x31 p (bus.setWidth 5) a b 0, [])
  | .bltry u p d a b bus => (u.slot, rew 0x32 p (d.setWidth 5) a b (bus.setWidth 5), [])
  | .gath u p addf t pp l d => (u.slot, rew 0x38 p (BitVec.ofBool addf ++ t) pp l d, [])
  | .scat u p t pp l d => (u.slot, rew 0x39 p (t.setWidth 5) pp l d, [])
  | .gwait u p a => (u.slot, rew 0x3A p 0 a 0 0, [])
  | .gwaitAll u p => (u.slot, rew 0x3A p 0 0 0 1, [])
  | .gwaitCan u p => (u.slot, rew 0x3A p 0 0 0 2, [])
  | .kvapp u p nr t pp s => (u.slot, rew 0x3B p (BitVec.ofBool nr ++ t) pp s 0, [])
  | .pxlook u p t r => (u.slot, rew 0x3C p (t.setWidth 5) r 0 0, [])
  | .pxins u p t r => (u.slot, rew 0x3D p (t.setWidth 5) r 0 0, [])
  | .pxdrop u p t r => (u.slot, rew 0x3E p (t.setWidth 5) r 0 0, [])
  | .coll u p i32 op' lvl src dst cnt => (u.slot, rew 0x40 p (BitVec.ofBool i32 ++ op' ++ lvl) src dst cnt, [])
  | .csnap u p lvl a keep => (u.slot, rew 0x41 p (lvl.setWidth 5) a 0 (bit5 keep), [])
  | .mirrMark u p d => (u.slot, rew 0x42 p d 0 0 0, [])
  | .mirrDone u p d => (u.slot, rew 0x42 p d 0 0 1, [])
  | .mirrSt u p d => (u.slot, rew 0x42 p d 0 0 2, [])
  | .hqry u p d o => (u.slot, rlw 0x43 p d 0 false o 0, litsOf o)
  | .hqryF u p d o => (u.slot, rlw 0x43 p d 0 false o 1, litsOf o)
  | _ => (.s, 0, [])

/-- Whether an instruction has a slot word: the encoder's answer for the others is the empty word. -/
def hasWord (i : Instr) : Bool := (encodeSlot i).2.1 != 0

/-- The header of a bundle with the slots and the number of literals given. -/
def headerOf (ss : List Slot) (n : Nat) (ew : BitVec 5) : IWord :=
  ss.foldl (fun h sl => h ||| (1#32 <<< (31 - sl.num))) ((BitVec.ofNat 32 n <<< 23) ||| (ew.setWidth 32 <<< 18))

/-- The words of a bundle that holds one instruction. -/
def encode (i : Instr) : List IWord :=
  match i with
  | .emptyBundle ew => [headerOf [] 0 ew]
  | i => let (sl, w, ls) := encodeSlot i
    headerOf [sl] ls.length 0 :: w :: ls

/-- The word of a micro-operation (R164); 0 for any other step. -/
def encodeUop : Instr → Word
  | .uopNop n => 0#48 ++ n
  | .uopPlane ra pi w step => 1#4 ++ ra ++ 0#18 ++ w ++ pi ++ step
  | .uopBload ra u step => 2#4 ++ ra ++ 0#24 ++ BitVec.ofBool u ++ step
  | .uopMulw => 3#4 ++ 0#60
  | .uopXtr z n => 4#4 ++ 0#26 ++ BitVec.ofBool n ++ BitVec.ofBool z ++ 0#32
  | .uopAcc ra sh => 5#4 ++ ra ++ 0#22 ++ sh ++ 0#32
  | .uopScale => 6#4 ++ 0#60
  | .uopSpidx ra rb nc u step => 7#4 ++ ra ++ rb ++ 0#19 ++ BitVec.ofBool u ++ nc ++ step
  | .uopDrain ra rb fmt sr sat step =>
    8#4 ++ ra ++ rb ++ 0#18 ++ BitVec.ofBool sat ++ BitVec.ofBool sr ++ fmt ++ step
  | .uopLoop ra reg fin cnt => 9#4 ++ ra ++ 0#3 ++ fin ++ 0#10 ++ BitVec.ofBool reg ++ 0#16 ++ cnt
  | .uopJnz target => 10#4 ++ 0#6 ++ target ++ 0#43
  | .uopEnd => 11#4 ++ 0#60
  | .uopWaitq n => 12#4 ++ 0#21 ++ n ++ 0#32
  | .uopSetexp e auto => 13#4 ++ 0#17 ++ BitVec.ofBool auto ++ e ++ 0#32
  | .uopStat ra rb c => 14#4 ++ ra ++ rb ++ 0#21 ++ BitVec.ofBool c ++ 0#32
  | .uopFence => 15#4 ++ 0#60
  | _ => 0

/-! ### The opcode table's words -/

/-- The instruction of a table row's word, with every literal word zero. A table word is a header when it has the form of
an empty bundle, and a slot word otherwise; it does not name its slot, so the spaces are tried in the order S, V, M, C
(log 9). -/
def decodeTableWord (nbits w : Nat) : Option Instr :=
  let x : IWord := BitVec.ofNat 32 w
  let try1 (sl : Slot) : Option Instr := (decodeSlot true 0 sl (List.replicate 7 0) x).toOption
  if nbits ≠ 32 then none
  else if fld x 23 9 == 0 && fld x 0 18 == 0 then some (.emptyBundle (fld x 18 5))
  else (try1 .s).orElse fun _ => (try1 .v0).orElse fun _ => (try1 .m).orElse fun _ => try1 .c0

end Sys2Proof
end

