-- ==== Sys2Proof/Config.lean ====
section
/-! DEFINITION. What an implementation fixes and the spec leaves open: opaque constants, whose values no proof can see.
Each names the log entry of notes/assumptions that declares it. -/

namespace Sys2Proof.Config

/-- Which of the two neighbours of the exact value VRCP, VRSQ, VEXP2 and VLOG2 give (R117): operation, format tag and
element bits decide it (log 7). -/
opaque pickUpper : (op fmt bits : Nat) → Bool

/-- The rotary generator's cosine of a 48-bit turn fraction, before the bound of R318 is applied (log 8). -/
opaque rotC : BitVec 48 → BitVec 32

/-- The rotary generator's sine of a 48-bit turn fraction, before the bound of R318 is applied (log 8). -/
opaque rotS : BitVec 48 → BitVec 32

/-- Whether the n-th retention wake passes parity (R58, R63): a physical outcome, free (log 10). -/
opaque parityGood : Nat → Bool

/-- The encryption key that the n-th CTXCTL.NEW draws from the device's random source (R261), free (log 11). -/
opaque ctxKey : Nat → BitVec 512

/-- How far after bring-up Holly fixes the refresh epoch E (R325), free (log 12). -/
opaque epochOffset : Nat → Nat

/-- Holly's fault entry: the address at which a control core goes on after a fault of its own (R194), free (log 13). -/
opaque hollyFaultEntry : BitVec 18

/-- The address at which Holly starts on a control core (R351), free (log 13). -/
opaque hollyEntry : BitVec 18

/-- Holly's firmware in the instruction store of the control core of a cluster (R42, R354): word address, word, begin bit;
free (log 13). -/
opaque hollyWords : Nat → List (Nat × IWord × Bool)

/-- Whether a compute core passes its own self-test (R375): a physical outcome, free (log 10). -/
opaque coreGood : Nat → Bool

/-- Bramble's entry point after a restart (R194, R354), free (log 13). -/
opaque brambleEntry : BitVec 18

/-- Whether Ed25519 verification passes a signature that meets only the equation multiplied by the cofactor: RFC 8032 allows either
(R355), free (log 14). -/
opaque cofactored : Bool

/-- The SHA-384 values of Cyith's two public keys, fused (R355), free (log 14). -/
opaque fusedKeyHash : Bool → List Byte

/-- The answer to the n-th SPDM message, from the measurement blocks 1 to 5, the attestation key and the message (R356), free
(log 14). -/
opaque spdmAnswer : (n : Nat) → (blocks : List (List Byte)) → (key msg : List Byte) → List Byte

/-- Whether the n-th SPDM message, a KEY_EXCHANGE or a FINISH, passes the checks of its standard (R356), free (log 14). -/
opaque spdmPasses : Nat → List Byte → Bool

/-- The attestation key that the device derives at its first QUICKSET (R356), free (log 14). -/
opaque attestationKey : List Byte

/-- The program bytes of Holly's ROM and of its locked SRAM image, as measured (R356), free (log 14). -/
opaque hollyComponent : Nat → List Byte

/-- The configuration image that the device is delivered with (R355, R356), free (log 14). -/
opaque configImage : List Byte

/-- The ticket-independent outcome of a race that the spec leaves unordered, by a plain counter (log 15). -/
opaque freeBit : Nat → Bool

/-- The first member of a granule pair that takes effect, and other unordered values, by a plain counter (log 15). -/
opaque freeWord : Nat → Word

/-- Whether an engine that has work at a core's scratchpad asks for a bank in a cycle in which slots use it (R62), by a plain
counter, the bank and the cycle: engine timing, free (log 37). -/
opaque engineAsks : (draw bank cycle : Nat) → Bool

/-- The size of the overflow area that Holly pins for a core at launch, in granules (R64), free (log 88). -/
opaque overflowGranules : Nat

/-- A byte of a peer device's memory that no access of this device has written, by peer and offset (R340): the peer's own,
free (log 20). -/
opaque peerByte : (peer off : Nat) → Byte

/-- Whether a lost peer's promoter answers for a granule of its export (R341, R343): it does for mirrored ranges, which
only the promoter knows, free (log 20). -/
opaque peerMirrored : (peer granule : Nat) → Bool

/-- How a peer answers an access of this device to a granule of its export in a reference cycle (R252, R340): the code of the
fault that its checks raise, or anything else where they pass; the peer's own, free (log 20). -/
opaque peerRefusal : (peer granule now : Nat) → (write : Bool) → Nat

/-- The stack that holds a line of HBM, by physical address: the interleave belongs to Holly (R324), free (log 26). -/
opaque lineStack : (pa : Nat) → BitVec 3

/-- The channel of its stack that a line of HBM lies in, free as the interleave is (R324, log 26). -/
opaque lineChannel : (pa : Nat) → BitVec 5

/-- The latency of a read of HBM (R329), by a plain counter: the traffic's, free (log 26). -/
opaque readLatency : Nat → BitVec 32

/-- The cycles that a read of HBM waited on a refresh as the head of its channel (R331), by a plain counter, free (log 26). -/
opaque readStall : Nat → BitVec 32

end Sys2Proof.Config
end

