-- ==== Sys2Proof/Machine/Maps.lean ====
section
/-! DEFINITION. Finite maps as lists of pairs with strictly rising keys, and byte memories in their one canonical form.
A byte that no pair lists reads as zero (log 6); a write of zero removes the pair. -/

namespace Sys2Proof.Machine

/-- A finite map: pairs of a key and a value, keys strictly rising. -/
abbrev Map (α : Type) := List (Nat × α)

/-- The value at a key, if there is one. -/
def Map.find? {α : Type} : Map α → Nat → Option α
  | [], _ => none
  | (k', v) :: m, k => if k' = k then some v else Map.find? m k

/-- The value at a key, or the default. -/
def Map.get {α : Type} (m : Map α) (k : Nat) (d : α) : α := (Map.find? m k).getD d

/-- The map with the value at a key replaced or entered. -/
def Map.put {α : Type} : Map α → Nat → α → Map α
  | [], k, v => [(k, v)]
  | (k', v') :: m, k, v =>
    if k' = k then (k, v) :: m
    else if k < k' then (k, v) :: (k', v') :: m
    else (k', v') :: Map.put m k v

/-- The map without a key. -/
def Map.del {α : Type} : Map α → Nat → Map α
  | [], _ => []
  | (k', v') :: m, k => if k' = k then m else (k', v') :: Map.del m k

/-- The values of a map, in key order. -/
def Map.vals {α : Type} (m : Map α) : List α := m.map (·.2)

/-- The lowest key of 0, 1, …, n − 1 that the map does not hold. -/
def Map.freeKey {α : Type} (m : Map α) (n : Nat) : Option Nat :=
  (List.range n).find? (fun k => (Map.find? m k).isNone)

/-- Keys strictly rising. -/
def Map.rising {α : Type} : Map α → Bool
  | [] => true
  | [_] => true
  | (k, _) :: (k', v') :: m => decide (k < k') && Map.rising ((k', v') :: m)

/-- A byte memory: pairs of an address and a byte, addresses strictly rising, no byte zero. -/
abbrev Memory := List Host.Cell

/-- The byte at an address; an unlisted address reads zero (log 6). -/
def Memory.read (m : Memory) (a : Nat) : Byte := Map.get m a 0

/-- The memory with one byte written, in canonical form. -/
def Memory.write (m : Memory) (a : Nat) (b : Byte) : Memory :=
  if b = 0 then Map.del m a else Map.put m a b

/-- The canonical form: addresses strictly rising and no byte zero. -/
def Memory.wf (m : Memory) : Bool := Map.rising m && m.all (fun c => c.2 ≠ 0)

/-- `n` bytes from an address upward. -/
def Memory.readBytes (m : Memory) (a n : Nat) : List Byte := (List.range n).map (fun i => Memory.read m (a + i))

/-- The bytes written from an address upward. -/
def Memory.writeBytes : Memory → Nat → List Byte → Memory
  | m, _, [] => m
  | m, a, b :: bs => Memory.writeBytes (Memory.write m a b) (a + 1) bs

/-- The memory with `n` bytes from an address set to zero. -/
def Memory.zero (m : Memory) (a n : Nat) : Memory := m.filter (fun c => c.1 < a || a + n ≤ c.1)

/-- Little-endian value of bytes (R3): the byte at the lowest address holds bits [7:0]. -/
def leNat : List Byte → Nat
  | [] => 0
  | b :: bs => b.toNat + 256 * leNat bs

/-- The `n` little-endian bytes of a value (R3). -/
def leBytes : Nat → Nat → List Byte
  | 0, _ => []
  | n + 1, v => BitVec.ofNat 8 v :: leBytes n (v / 256)

/-- A little-endian value of `n` bytes at an address. -/
def Memory.readLE (m : Memory) (a n : Nat) : Nat := leNat (Memory.readBytes m a n)

/-- A little-endian value of `n` bytes written at an address. -/
def Memory.writeLE (m : Memory) (a n v : Nat) : Memory := Memory.writeBytes m a (leBytes n v)

end Sys2Proof.Machine
end

