-- ==== Sys2Proof/Machine/State.lean ====
section
/-! DEFINITION. The state of a whole Foruiso X9: its 256 compute cores and 32 control cores with their engines, the
shared blocks of each die, the objects that drivers and programs handle, memory, link, power and firmware.
Every field is plain data. The reset value of each field is its default value below; those that no rule gives are
named in the log (3, 4, 5). -/

namespace Sys2Proof.Machine

open Sys2Proof

/-- Why a step stops the machine. Raised by `step` alone. -/
inductive Fault where
  /-- The schedule names a core that the device does not have (R10); raised by `step` in states that no run reaches. Safe. -/
  | noSuchCore (c : Nat)
  deriving DecidableEq, Repr

/-- Why an instruction has no meaning here. -/
inductive Refusal where
  /-- The arm of `exec` for the instruction has not been written; raised by `exec` alone. Safe. -/
  | notModelled (mnemonic : String)
  deriving DecidableEq, Repr

/-! ### Regions and ownership (R226 to R260) -/

/-- The kinds of a region (R230). -/
inductive RKind where
  | sp | is | hbm | cap
  deriving DecidableEq, Repr

/-- The code of a region kind in a handle (R230). -/
def RKind.code : RKind → Nat
  | .sp => 1 | .is => 2 | .hbm => 3 | .cap => 4

/-- Grains per byte per tick (R227). -/
def RKind.rate : RKind → Nat
  | .sp => 32 | .is => 32 | .hbm => 8 | .cap => 1

/-- The states of a region (R234). -/
inductive RSt where
  | free | held | liened | overdue | lapsed | scrubbed
  deriving DecidableEq, Repr

/-- The code of a region state in RQRY (R239). -/
def RSt.code : RSt → Nat
  | .free => 0 | .held => 1 | .liened => 2 | .overdue => 3 | .lapsed => 4 | .scrubbed => 5

/-- The phase word (R248); `pend` is the target of a REL that waits for the group's next phase change. -/
structure Phase where
  mode : BitVec 2 := 2
  pmask : BitVec 6 := 0x3F
  hk : BitVec 2 := 0
  holder : BitVec 16 := 0
  epoch : BitVec 16 := 0
  pend : Option (BitVec 26) := none
  deriving DecidableEq, Repr

/-- A granule tag of a group-bound region (R251): its epoch, the writer, and the reader (none, one core, or MANY). -/
structure GTag where
  epoch : BitVec 16
  writer : Option Nat
  reader : Option Nat
  many : Bool
  deriving DecidableEq, Repr

/-- What makes a region a sublet (R235): its parent, its tenant, its rights and its term end. -/
structure Sublet where
  parent : BitVec 32
  tenant : BitVec 12
  rd : Bool
  wr : Bool
  te : Nat
  deriving DecidableEq, Repr

/-- A table entry of Privet (R229 to R235) with its phase word and granule tags. `place` is the base address, the
handle-table index or the offset in the parent; `base` is where its bytes lie; `lien` and `wasOver` tell whether it spent a
part of the current tick LIENED or OVERDUE (R232); `term` is the launch term of a launch region (R284), or 0 for an overflow area (R64); `links` are the
CXL links that hold the 256 GB pieces of a capacity-tier region (R335). -/
structure Region where
  kind : RKind := .sp
  gen : BitVec 11 := 0
  st : RSt := .free
  owner : BitVec 12 := 0
  place : Nat := 0
  base : Nat := 0
  size : Nat := 0
  pu : Nat := 0
  res : Nat := 0
  dt : Nat := 0
  ge : Nat := 0
  lien : Bool := false
  wasOver : Bool := false
  subl : Option Sublet := none
  phase : Phase := {}
  tags : Map GTag := []
  tagRes : Bool := false
  term : Option Nat := none
  links : List Nat := []
  was : List (Nat × Phase × Map GTag) := []
  deriving DecidableEq, Repr

/-! ### Core state (R47 to R67) -/

/-- The states of a core (R47). -/
inductive CoreSt where
  | disabled | idle | loading | running | frozen | trapped | saving
  deriving DecidableEq, Repr

/-- The code of a core state in trap-state item 7 (R193). -/
def CoreSt.code : CoreSt → Nat
  | .disabled => 0 | .idle => 1 | .loading => 2 | .running => 3 | .frozen => 4 | .trapped => 5 | .saving => 6

/-- A vector register with its format tag and digit width (R88). -/
structure VReg where
  bits : VWord := 0
  tag : BitVec 6 := 0
  dw : BitVec 2 := 0
  deriving DecidableEq, Repr

/-- The states of a power bank (R58). -/
inductive BankSt where
  | off | ret | waking | full
  deriving DecidableEq, Repr

/-- The code of a bank state in BANKST (R66). -/
def BankSt.code : BankSt → Nat
  | .off => 0 | .ret => 1 | .waking => 2 | .full => 3

/-- A register bank or scratchpad bank: its state, the reference cycle in which a wake ends, whether the wake is from
retention, whether it goes back to retention then (R67), and the slot whose access started the wake, if one did (R59). -/
structure Bank where
  st : BankSt := .off
  wakeEnd : Nat := 0
  fromRet : Bool := false
  toRet : Bool := false
  byAcc : Option Slot := none
  deriving DecidableEq, Repr

/-- What lands in a register later (R25, R50, R56): its landing issue cycle, its issue cycle, the issuing slot, the
destination, the bits with the mask of those it writes, and the tag that lands with them. -/
structure Landing where
  due : Nat
  born : Nat
  src : Slot
  file : Slot
  isPred : Bool
  reg : Nat
  bits : VWord
  mask : VWord
  tag : BitVec 6
  dw : BitVec 2
  arrival : Bool
  deriving DecidableEq, Repr

/-- An entry of the loop stack (R83). -/
structure LoopEnt where
  start : BitVec 18
  fin : BitVec 18
  rem : BitVec 32
  deriving DecidableEq, Repr

/-- A taken branch whose delay bundles are still to issue: the target, and which delay bundle stands at PC (R82, R189). -/
structure Branch where
  tgt : BitVec 18
  dpos : Nat
  deriving DecidableEq, Repr

/-- A fault: its code, INFO, the slot in which the failing check stood (7 = header), whether an engine raised it and
delivered it later, and word 3 of its record (R185, R189). -/
structure Exc where
  code : Nat
  info : Word := 0
  fslot : Nat := 0
  defer : Bool := false
  w3 : Word := 0
  deriving DecidableEq, Repr

/-- The trap that a TRAPPED core holds (R189), with the facts RFT uses: raised at decode, and the END wait (R196, R288). -/
structure Trap where
  exc : Exc
  cls : Nat
  sres : Nat
  async : Bool
  atDecode : Bool
  pc : BitVec 18
  dpos : Nat
  btgt : BitVec 18
  inEnd : Bool
  deriving DecidableEq, Repr

/-- A trap record: its four words (R189). -/
structure TRec where
  w0 : Word
  w1 : Word
  w2 : Word
  w3 : Word
  deriving DecidableEq, Repr

/-- Scratchpad, its poison and the region tables as they stood when the bundle began to issue: what its other slots still
read and are checked against after a slot has stored or has changed a region (R51, R240, R260). -/
structure OldView where
  mem : Memory
  poison : Map Bool
  regions : Map Region
  deriving DecidableEq, Repr

/-- The arbitration of a bundle (R62): its first reference cycle, the number of its free values, whether an engine has work, and the
scratchpad accesses of the slots that issue. -/
structure Arb where
  start : Nat
  seed : Nat
  busy : Bool
  accs : List (Slot × Nat × Nat × Bool)
  deriving DecidableEq, Repr

/-- The bundle at PC while it issues: its length in words, its energy weight, its slots decoded (which a resumed bundle
does not decode again, R196), the word of the slot being issued, the bytes its slots have stored, the view from before
the first change, the branch its S slot has taken (R82), the place a LOOP of count 0 goes on at (R83), whether it
yields the core (R270), the reference cycle in which its first slot issued and charged its energy (R345), the CSR its S slot has
written whose value governs only later bundles, with that value (R85), and the arbitration that a slot waits for whose access is to
fault (R62, R75). -/
structure Bundle where
  len : Nat := 1
  ew : BitVec 5 := 0
  slots : List (Slot × IWord × Instr) := []
  word : IWord := 0
  stored : List (Nat × Slot) := []
  old : Option OldView := none
  taken : Option (BitVec 18) := none
  jump : Option (BitVec 18) := none
  yields : Bool := false
  paid : Option Nat := none
  late : Option (Nat × Word) := none
  arb : Option Arb := none
  deriving DecidableEq, Repr

/-- A residency entry (R284). -/
structure Resident where
  ctx : BitVec 12
  rtag : BitVec 32
  ibase : BitVec 18
  nw : Nat
  used : Nat
  deriving DecidableEq, Repr

/-! ### The matrix engine (R140 to R180) -/

/-- A directory entry of the microprogram store (R162). -/
structure DirEnt where
  start : Nat
  len : Nat
  narrow : Bool
  valid : Bool
  creg : BitVec 3
  cfix : BitVec 32
  cper : BitVec 24
  epass : BitVec 16
  deriving DecidableEq, Repr

/-- What a call-queue entry holds (R28, R160): a routine call, or an upload with the header words it read at issue. -/
inductive CallKind where
  | call (idx : Nat)
  | mupl (idx addr : Nat) (h0 h1 : Word)
  deriving DecidableEq, Repr

/-- A call-queue entry: the kind, the copies of m0 to m7, its place in call order, and its issue cycle (reference). -/
structure Call where
  kind : CallKind
  regs : List Word
  seq : Nat
  issued : Nat
  deriving DecidableEq, Repr

/-- The routine that runs (R167): its index and directory entry, the micro-operation at hand, its copies of m0 to m7, the
64 rows of A, the digits of B, the digits D and the integers I row by row, the scales, the exponent set, the loop stack, the
passes completed, and whether a SCALE at hand has popped its row scales already (R147). -/
structure Routine where
  idx : Nat
  ent : DirEnt
  uaddr : Nat
  regs : List Word
  a : List Nat
  b : List Int
  d : List Int
  i : List Int
  ea : List Byte
  eb : List Byte
  exp : Option (BitVec 10)
  stk : List Nat
  passes : Nat
  half : Bool
  deriving DecidableEq, Repr

/-- A tile bound to a physical slot (R152, R155), with the tag and digit width that the slot holds (R88, R91): the elements (R107)
by index, zero where unlisted. -/
structure Tile where
  slot : Nat
  tag : BitVec 6 := 0
  dw : BitVec 2 := 0
  elems : Map Word := []
  eacc : BitVec 10 := 0
  eauto : Bool := false
  sat : Bool := false
  gov : Bool := false
  ufl : Bool := false
  passes : BitVec 32 := 0
  deriving DecidableEq, Repr

/-- An outstanding MSQL (R146, R174): the address, the count, the entries read, those of them that are staged, each with
the reference cycle from which it may enter the queue, its issue cycle, and the reference cycles for which the wakes of its banks
have put its reads off. -/
structure Msql where
  addr : Nat
  count : Nat
  read : Nat
  stg : List (BitVec 512 × Nat)
  issued : Nat
  delay : Nat := 0
  deriving DecidableEq, Repr

/-- A tile release that waits for its place in call order (R160, R176): the tile, 32 for all, the last call before it (0
for none), the reference cycle of its effect where there is none, and its issue cycle. -/
structure Acrel where
  tile : Nat
  covers : Nat
  dueAt : Nat
  born : Nat
  deriving DecidableEq, Repr

/-- What a status instruction samples (R175, R177). -/
inductive SampleKind where
  | mstat (tile : Nat)
  | mtst (tile : Nat) (bit : Nat)
  | msqr (clr : Bool)
  deriving DecidableEq, Repr

/-- A status value on its way (R161): the kind, the destination register, the calls it covers, the engine cycle of its
settle point when no call is covered, and once sampled the value with the reference cycle from which it is readable. -/
structure Sample where
  kind : SampleKind
  reg : Nat
  covers : Option Nat
  settle : Nat
  value : Option (Word × Nat)
  born : Nat
  deriving DecidableEq, Repr

/-- The matrix engine of a core: the microprogram store, the call queue with the running call at its head, the running
routine, the end of a running MUPL, the reference cycle from which the next micro-operation may act, the call numbers given
and ended with the reference cycle of the last end (R160), the pending fault and whether calls are held behind it (R157), or
because the core has been restored TRAPPED and does not run yet (R269), the faults of MSQLs, which leave calls alone (R146), the tiles, the scale queue, the MSQLs, releases and samples. -/
structure Pme where
  dir : Map DirEnt := []
  code : Map Word := []
  calls : List Call := []
  run : Option Routine := none
  mupl : Option Nat := none
  busy : Nat := 0
  seq : Nat := 0
  ended : Nat := 0
  lastEnd : Nat := 0
  fault : Option Exc := none
  held : Bool := false
  parked : Bool := false
  side : List Exc := []
  tiles : Map Tile := []
  scales : List (BitVec 512) := []
  msqls : List Msql := []
  acrels : List Acrel := []
  samples : List Sample := []
  deriving DecidableEq, Repr

/-! ### Copy channels and the broadcast bus (R199 to R225) -/

/-- A staging level (R207). -/
structure Level where
  cnt : BitVec 16 := 1
  ss : BitVec 32 := 0
  ds : BitVec 32 := 0
  deriving DecidableEq, Repr

/-- The directions of EGO (R209). -/
inductive Dir where
  | ld | st | ll | sp
  deriving DecidableEq, Repr

/-- The code of a direction (R209, R220). -/
def Dir.code : Dir → Nat
  | .ld => 0 | .st => 1 | .ll => 2 | .sp => 3

/-- One side of a copy: local scratchpad, or a handle-table entry as it stood when the copy was checked (R204). -/
structure Side where
  glob : Bool
  hnd : Nat
  kind : BitVec 2
  mtype : BitVec 2
  unit : BitVec 8
  region : BitVec 32
  physBase : Nat
  base : Int
  deriving DecidableEq, Repr

/-- A started nest (R207, R210, R211) with its progress: the granules whose source bytes have been read, with the bytes,
and the granules filled, each as (copy, granule); and the reference cycle of its issue. -/
structure Entry where
  levels : List Level
  dir : Dir
  src : Side
  dst : Side
  size : Nat
  empty : Bool
  guarded : Bool
  monoS : Bool
  monoD : Bool
  seq : Nat
  liens : List (BitVec 32)
  hold : List (BitVec 8 × Nat × Bool)
  readG : List (Nat × Nat × List Byte)
  fillG : List (Nat × Nat)
  srcDone : Nat
  fillDone : Nat
  born : Nat := 0
  lost : List Nat := []
  deriving DecidableEq, Repr

/-- The states of a channel (R216). -/
inductive ChanSt where
  | idle | active | suspended | faulted
  deriving DecidableEq, Repr

/-- The code of a channel state in EQRY (R220). -/
def ChanSt.code : ChanSt → Nat
  | .idle => 0 | .active => 1 | .suspended => 2 | .faulted => 3

/-- A copy channel (R207, R216). -/
structure Chan where
  st : ChanSt := .idle
  levels : Map Level := []
  q : List Entry := []
  wmf : Word := 0
  wms : Word := 0
  ccf : BitVec 32 := 0
  ccs : BitVec 32 := 0
  fault : Option Exc := none
  delivered : Bool := false
  deriving DecidableEq, Repr

/-- An entry of the landing buffer: reserved, and filled once its block has landed (R224). -/
structure LandEnt where
  bus : BitVec 2
  label : BitVec 16
  data : Option (List Byte)
  deriving DecidableEq, Repr

/-- A broadcast that waits for its bus, or is on its way (R224): the sender and its context, the key, the receivers, the block, and the
reference cycle of its landing once it is driven. -/
structure Bcast where
  core : Nat
  ctx : BitVec 12
  label : BitVec 16
  recv : List Nat
  data : List Byte
  issued : Nat
  lands : Option Nat
  deriving DecidableEq, Repr

/-! ### The gather and collective engines (R289 to R295, R304 to R321) -/

/-- The gather-class operations (R310). -/
inductive GKind where
  | gath (addf : Bool) | scat | kvapp (nr : Bool) | pxlook | pxins | pxdrop
  deriving DecidableEq, Repr

/-- Where a byte lies: the scratchpad of a core, its instruction store, HBM, the capacity tier, or a peer's memory. -/
inductive Space where
  | sp (core : Nat) | is (core : Nat) | hbm | cap | peer (p : Nat)
  deriving DecidableEq, Repr

/-- How a line of device memory is stored (R309): plain, or encrypted under a key. -/
abbrev LineKey := Option (BitVec 512)

/-- Bytes to be written to a space from an address; in a page of device memory, in the mode of the page (R309). -/
structure Piece where
  sp : Space
  addr : Nat
  mode : Option LineKey := none
  bytes : List Byte
  deriving DecidableEq, Repr

/-- A queued gather-class operation (R310, R311, R317, R320) with its progress P (R312), the local ranges, as address and length,
that it reads and writes, and the granules that the element at P has still to write. -/
structure GOp where
  kind : GKind
  slot : Slot
  seq : BitVec 32
  base : Nat := 0
  size : Nat := 0
  stride : Nat := 0
  list : Nat := 0
  n : Nat := 0
  loc : Nat := 0
  loc2 : Nat := 0
  alt : Bool := false
  pos : Nat := 0
  started : Bool := false
  prog : Nat := 0
  rds : List (Nat × Nat) := []
  wrs : List (Nat × Nat) := []
  born : Nat := 0
  rest : List Piece := []
  deriving DecidableEq, Repr

/-- The gather queue of a core (R310, R313); `told` tells that the pending fault has been delivered. -/
structure Gather where
  giss : BitVec 32 := 0
  gdone : BitVec 32 := 0
  q : List GOp := []
  fault : Option Exc := none
  told : Bool := false
  deriving DecidableEq, Repr

/-- A COLL (R294): its group, its place among the core's COLLs of the phase, its place in issue order with that
of the last FENCE.CO before it (R255), its operands, and whether its set is complete: it then stands until the release that
ends the phase, for the accesses to its destination that come too early (R295). -/
structure CollOp where
  g : BitVec 16
  k : Nat
  seq : Nat
  after : Nat
  slot : Slot
  i32 : Bool
  op : BitVec 2
  cnt : Nat
  src : Nat
  dst : Nat
  word : IWord
  done : Bool := false
  born : Nat := 0
  deriving DecidableEq, Repr

/-- A VHIST increment that no snapshot may contain yet (R135): the core and node that made it, the reference cycle in which it
issued, the die and the counter. -/
structure Inc where
  core : Nat
  node : BitVec 32
  born : Nat
  die : Nat
  ctr : Nat
  deriving DecidableEq, Repr

/-- A CSNAP in flight (R293): the group, its place in issue order with that of the last FENCE.CO before it (R255), the
slot, the address, the counters sampled, the reference cycle in which the bytes are written, that of its issue, whether it
left the counters as they were, and the increments that it is the first to contain (R135). -/
structure SnapOp where
  g : BitVec 16
  seq : Nat
  after : Nat
  slot : Slot
  addr : Nat
  words : List (BitVec 32)
  due : Nat
  born : Nat := 0
  keep : Bool := false
  fresh : List Inc := []
  deriving DecidableEq, Repr

/-- A deferred collective fault of a core, with its group and the place of its operation in issue order (R295). -/
structure CollFault where
  g : BitVec 16
  seq : Nat
  exc : Exc
  deriving DecidableEq, Repr

/-! ### The core -/

/-- The register files of a core (R33, R34, R57): data registers of S, M, C0 and C1 by 32·file + number; vector registers
by 32·file + number; predicates and lane masks by 8·file + number; live and poison bits of S, V0 and V1 by file; banks by
8·file + bank. -/
structure Files where
  x : Map Word := []
  v : Map VReg := []
  p : Map Word := []
  live : Map (BitVec 32) := []
  poison : Map (BitVec 32) := []
  banks : Map Bank := []
  deriving DecidableEq, Repr

/-- The scratchpad of a core (R13, R61 to R64): bytes, poisoned 64-byte granules, bank states, conflict counters, and for a bank
that slots use the last reference cycle in which they did with the cycles in a row in which they may have refused an engine
(R62). -/
structure Scratch where
  mem : Memory := []
  poison : Map Bool := []
  banks : Map Bank := []
  conf : Map (BitVec 32) := []
  refusals : Map (Nat × Nat) := []
  deriving DecidableEq, Repr

/-- A word of the instruction store with its begin bit (R29); a word is valid when it is listed. -/
structure IsWord where
  word : IWord
  beg : Bool
  deriving DecidableEq, Repr

/-- The engines whose clocks CLKDIV sets (R348). -/
inductive Engine where
  | v | m | c | k
  deriving DecidableEq, Repr

/-- The core CSRs that hold state of their own (R65, R66, R87, R290, R347, R348). -/
structure Csrs where
  wcol : Bool := false
  sres : BitVec 3 := 0
  fcause : BitVec 4 := 0
  carve : BitVec 21 := 0
  ovpHnd : BitVec 16 := 0
  ovpOff : BitVec 48 := 0
  bcsel : BitVec 9 := 0
  cyc : Nat := 0
  frzc : Nat := 0
  dmr : Word := 0
  grant : BitVec 24 := 0xFFFFFF
  vdiv : BitVec 2 := 0
  mdiv : BitVec 2 := 0
  cdiv : BitVec 2 := 0
  kdiv : BitVec 2 := 0
  deriving DecidableEq, Repr

/-- What began a save: CTXCTL.SAVE, CTXSW, or a pre-emption (R264). -/
inductive SaveBy where
  | handler | yield | preempt
  deriving DecidableEq, Repr

/-- The path classes (R243). -/
inductive Path where
  | sl | cp | mx | ga | co | lk
  deriving DecidableEq, Repr

/-- An access of a core that has taken effect (R250): its path, whether it wrote, its bytes, and for R159 the matrix call that
made it, or after which a slot made it. -/
structure Take where
  path : Path
  wr : Bool
  sp : Space
  addr : Nat
  len : Nat
  seq : Nat := 0
  deriving DecidableEq, Repr

/-- A core, compute or control. `takes` are the accesses of engines that took effect while a conflicting one of another path was in
flight (R250), `rtakes` those of the running routine and of the slots since its call (R159). `landed` are the landings that registers took in the present issue cycle (R55, R161). `waitOn` is the barrier (group and number) that the bundle at PC waits on in BWAIT, or at
which it has arrived by BALR (R299); `alwAgain` that ALLOWANCE_EXHAUSTED is due again at the next boundary (R240). `issues` are the reference cycles of its last five
issue cycles, the latest first (R135), and `stop` tells that its context has been killed: it stops in its next reference cycle (R262). On a control
core `bramble` tells that Bramble runs there, not Holly, and `hollyBad` that Holly's own code has faulted (R194, R354). `twin` tells apart the kernels that this core and save images of the
same core hold: it is 0 but where one of them was placed while another was saved (R290). -/
structure Core where
  st : CoreSt := .disabled
  ctx : BitVec 12 := 0
  node : BitVec 32 := 0
  pc : BitVec 18 := 0
  br : Option Branch := none
  loops : List LoopEnt := []
  istore : Map IsWord := []
  files : Files := {}
  pend : List Landing := []
  landed : List Landing := []
  csr : Csrs := {}
  gens : Map (BitVec 32) := []
  bun : Bundle := {}
  stall : Nat := 0
  drain : Option (Engine × BitVec 2) := none
  window : List (Nat × Nat) := []
  sp : Scratch := {}
  pme : Pme := {}
  chans : Map Chan := []
  eseq : Nat := 0
  holds : List (BitVec 8 × Nat × Bool) := []
  land : List LandEnt := []
  gather : Gather := {}
  colls : List CollOp := []
  snaps : List SnapOp := []
  collFaults : List CollFault := []
  coFence : Nat := 0
  takes : List Take := []
  rtakes : List Take := []
  mseq : BitVec 32 := 0
  mack : BitVec 32 := 0
  mirrorQ : List (BitVec 12 × Nat × List Byte) := []
  unacked : List (BitVec 12) := []
  trap : Option Trap := none
  latched : Option (Nat × TRec) := none
  resume : Option Nat := none
  asyncs : List Exc := []
  accFaults : List (Slot × Exc) := []
  alwAgain : Bool := false
  waitOn : Option (BitVec 16 × BitVec 12) := none
  inEnd : Bool := false
  save : Option SaveBy := none
  restore : Bool := false
  resid : List Resident := []
  bramble : Bool := false
  hollyBad : Bool := false
  twin : Nat := 0
  issues : List Nat := []
  stop : Bool := false
  deriving DecidableEq, Repr

/-- What a cluster's control core keeps for traps (R190, R192). The last `newN` records of the queue entered in reference
cycle `newAt`: those of one cycle stand in an order of their own (R190). -/
structure Cluster where
  q : List TRec := []
  newAt : Nat := 0
  newN : Nat := 0
  latch : Option TRec := none
  lfCode : BitVec 8 := 0
  lfCore : BitVec 8 := 0
  lfCtrl : Bool := false
  lfValid : Bool := false
  lfCtx : BitVec 12 := 0
  lfPc : BitVec 18 := 0
  lfCount : BitVec 16 := 0
  lost : BitVec 16 := 0
  wsel : BitVec 31 := 0
  werr : Bool := false
  deriving DecidableEq, Repr

/-! ### Contexts, images, queues, nodes, groups (R261 to R300) -/

/-- The states of a context (R262). -/
inductive CtxSt where
  | free | live | active | parked | ending
  deriving DecidableEq, Repr

/-- The code of a context state (R262, R271), in the order of R262. -/
def CtxSt.code : CtxSt → Nat
  | .free => 0 | .live => 1 | .active => 2 | .parked => 3 | .ending => 4

/-- A handle-table entry: words 0 to 2 (R204). -/
structure HEnt where
  w0 : Word := 0
  w1 : Word := 0
  w2 : Word := 0
  deriving DecidableEq, Repr

/-- A context (R261); `granted` is the last reference cycle in which grants raised its allowance, with their sum (R272), and `debt`
what regions owe for this tick whose entries have become FREE in it (R232). -/
structure Ctx where
  st : CtxSt := .free
  alw : Int := 0
  granted : Option (Nat × Int) := none
  tier : BitVec 2 := 0
  ceil : BitVec 8 := 0
  htlen : Nat := 0
  handles : Map HEnt := []
  root : BitVec 56 := 0
  key : BitVec 512 := 0
  mirror : Option (BitVec 8) := none
  mirOff : Bool := false
  tables : List Nat := []
  shares : Map Nat := []
  demand : Nat := 0
  debt : Nat := 0
  deriving DecidableEq, Repr

/-- A save image (R264 to R269): where it lies in HBM, the core number, context and node, the core as saved, and the snapshot
entries with their due times counted from the first resumed bundle. -/
structure Image where
  base : Nat := 0
  core : Nat
  ctx : BitVec 12
  node : BitVec 32
  yielded : Bool
  trapped : Bool
  saved : Core
  snap : List Landing
  deriving DecidableEq, Repr

/-- A message queue (R273). -/
structure MQueue where
  owner : BitVec 12
  dir : BitVec 2
  region : BitVec 32
  slots : Nat
  head : BitVec 32 := 0
  tail : BitVec 32 := 0
  waiter : Option (BitVec 32) := none
  deriving DecidableEq, Repr

/-- The kinds of a graph node (R274). -/
inductive NKind where
  | kernel | copy | event
  deriving DecidableEq, Repr

/-- The states of a graph node (R275). -/
inductive NSt where
  | free | built | armed | waiting | ready | running
  deriving DecidableEq, Repr

/-- A graph node (R274, R282, R286): `desc` is its eight descriptor words, `home` the core that created it, `cores` the
cores of its placement with those still to retire in `left`, `fresh` tells that no decision has been made since it went
READY (R277), and `regions` are its launch regions (R283). A copy node that runs has its place among the collective operations of the core
that made it, with that of the last FENCE.CO before it (R255, R274); `order` is the place of its placement among all (R276). -/
structure Node where
  gen : BitVec 12 := 0
  st : NSt := .free
  kind : NKind := .kernel
  owner : BitVec 12 := 0
  prio : BitVec 8 := 0
  skip : Bool := false
  pre : Bool := false
  cnt : Nat := 0
  succ : List (BitVec 32) := []
  ready : Nat := 0
  fresh : Bool := false
  starved : Bool := false
  placedAt : Nat := 0
  home : Nat := 0
  desc : List Word := []
  cores : List Nat := []
  left : List Nat := []
  regions : List (BitVec 32) := []
  seq : Nat := 0
  after : Nat := 0
  order : Nat := 0
  deriving DecidableEq, Repr

/-- The states of a group (R291). -/
inductive GSt where
  | free | compute | communicate | broken
  deriving DecidableEq, Repr

/-- A synchronisation domain (R289 to R294). Routing counters by 256·die + counter; `joined` counts each member's COLLs
of the current phase; `ran` holds the numbers of the sets that run, and `parts` the members of each. -/
structure Group where
  st : GSt := .free
  level : Nat := 0
  owner : BitVec 12 := 0
  ph : BitVec 32 := 0
  members : List Nat := []
  ctrs : Map (BitVec 32) := []
  incs : List Inc := []
  joined : Map Nat := []
  ran : List Nat := []
  parts : Map (List Nat) := []
  brokenBy : BitVec 12 := 0
  deriving DecidableEq, Repr

/-- The states of a bound barrier (R296); an unbound one is not listed. -/
inductive BSt where
  | armed | releasing | broken
  deriving DecidableEq, Repr

/-- A bound barrier (R296, R297): its home die, the members counted in `arr` with the reference cycle L of the last, the
release cycle T once it is known, the releases so far, the release count at which each core last arrived, arrivals of
other dies on their way, the releases that each core of another die has seen, and the reference cycle of a release whose waiters have
still to issue in it. -/
structure Barrier where
  g : BitVec 16
  b : BitVec 12
  die : Nat
  st : BSt
  count : Nat
  backing : BitVec 32
  arr : List Nat
  last : Nat
  rel : Option Nat
  phase : Nat
  arrivedAt : Map Nat
  remote : List Nat
  seen : Map Nat
  relAt : Option Nat := none
  deriving DecidableEq, Repr

/-! ### Memory, link, power, firmware (R304 to R357, R375) -/

/-- A pseudo-channel's owed refreshes, oldest first (R326): the count OW is the length. -/
abbrev Owed := List Nat

/-- A stack (R325 to R334): its dies in service, its mode now and at the next slot boundary, and the die being mapped out. -/
structure Stack where
  dies : BitVec 16 := 0xFFFF
  hot : Bool := false
  hotNext : Bool := false
  owed : Map Owed := []
  mapping : Option (BitVec 4) := none
  deriving DecidableEq, Repr

/-- A latency record (R331). -/
structure LatRec where
  reads : Word := 0
  sum : Word := 0
  max : BitVec 32 := 0
  stall : Word := 0
  deriving DecidableEq, Repr

/-- The device memory (R16, R17, R304 to R335): the plain bytes of HBM and of the capacity tier, and how the lines that pages have
written are stored (R309, log 61). -/
structure Dram where
  hbm : Memory := []
  cap : Memory := []
  hbmPoison : Map Bool := []
  capPoison : Map Bool := []
  hbmKeys : Map LineKey := []
  capKeys : Map LineKey := []
  stks : Map Stack := []
  lat : Map LatRec := []
  epoch : Option Nat := none
  slot : Nat := 0
  begun : Bool := false
  linkDown : BitVec 16 := 0
  deriving DecidableEq, Repr

/-- An entry of the prefix index (R319). -/
structure PxEnt where
  ctx : BitVec 12
  tag : List Byte
  blk : BitVec 32
  deriving DecidableEq, Repr

/-- The states of a peer (R339). -/
inductive PeerSt where
  | down | joining | up | suspect | lost | redirected
  deriving DecidableEq, Repr

/-- The code of a peer state in the mirror status word (R344). -/
def PeerSt.code : PeerSt → Nat
  | .down => 1 | .joining => 2 | .up => 3 | .suspect => 4 | .lost => 5 | .redirected => 6

/-- A peer (R339, R340, R342, R343): its state, its Ethernet addresses, when a packet was last seen and sent, its export of this
device's regions, its promoter, the bytes of its own export that this device has written, the granules that it mirrors here, each
by the address that it names, and whether that copy has been promoted. -/
structure Peer where
  st : PeerSt := .down
  addrs : List (BitVec 48) := []
  seen : Nat := 0
  sent : Nat := 0
  xport : List (BitVec 32) := []
  promoter : Option (BitVec 8) := none
  window : Map Byte := []
  copy : Map (List Byte) := []
  promoted : Bool := false
  deriving DecidableEq, Repr

/-- A message that leaves the device (R337, R339): its type, status, context, queue, SEQ and payload, and the peer for a
message to a peer. -/
structure OutMsg where
  type : Nat
  status : Nat := 0
  ctx : BitVec 12 := 0
  queue : BitVec 16 := 0
  seq : BitVec 32 := 0
  payload : List Byte := []
  peer : Option (BitVec 8) := none
  deriving DecidableEq, Repr

/-- The link (R336 to R344, R357). -/
structure Link where
  ports : BitVec 8 := 0
  peers : Map Peer := []
  out : List OutMsg := []
  seq : BitVec 32 := 0
  session : Bool := false
  kex : Bool := false
  spdm : Nat := 0
  resync : List (BitVec 32 × Nat) := []
  log : List TRec := []
  logged : Nat := 0
  deriving DecidableEq, Repr

/-- The states of the device (R351). -/
inductive DevSt where
  | reset | selftest | quickset | service | safe
  deriving DecidableEq, Repr

/-- The code of a device state in STATUS (R351, R357), in the order of R351. -/
def DevSt.code : DevSt → Nat
  | .reset => 0 | .selftest => 1 | .quickset => 2 | .service => 3 | .safe => 4

/-- Bring-up and firmware (R351 to R357, R375) and the power budget (R350). -/
structure Dev where
  st : DevSt := .reset
  passed : List (PartKind × Nat) := []
  failed : List (PartKind × Nat) := []
  svn : Nat := 0
  meas : List Byte := List.replicate 48 0
  blocks : List (List Byte) := []
  attKey : Option (List Byte) := none
  bramble : List Byte := []
  config : Option (List Byte) := none
  restarts : List Nat := []
  brambleDue : List (Nat × Bool) := []
  pxReady : Bool := false
  budget : Nat := 0
  floors : List Nat := []
  deriving DecidableEq, Repr

/-- The state of the machine. `now` counts reference cycles from reset and `tick` the ticks begun (R228); `cur` is the
acting core, 0 to 255 a compute core and 256 + c the control core of cluster c; `inputs` are the steps that the outside
world and engine work of no stated duration bring about, in order, each with its acting core (log 1); `todo` lists the
cores that have not had their turn in this reference cycle (log 2); `ctr` numbers the free values drawn (log 15); `turns` holds, for
each die, the core whose gather queue its engine has served last (R310), and `slices` the program of its control core 0, Holly's or
Bramble's, that waits for its time slice (R354), its scratchpad and instruction store apart. -/
structure State where
  now : Nat
  tick : Nat
  cur : Nat
  todo : List Nat
  inputs : List (Nat × Instr)
  ctr : Nat
  cores : Map Core
  clusters : Map Cluster
  ctxs : Map Ctx
  regions : Map Region
  images : List Image
  queues : Map MQueue
  nodes : Map Node
  groups : Map Group
  barriers : List Barrier
  buses : Map (List Bcast)
  dram : Dram
  pxi : List PxEnt
  link : Link
  dev : Dev
  turns : Map Nat
  slices : Map Core
  deriving DecidableEq, Repr

/-- A core right after reset: every core is DISABLED (R351); the registers as log 3 to 5 name them. -/
def Core.reset : Core := {}

/-- The machine right after reset (R351 RESET): no context, no region, nothing loaded; refresh and rent clocks at zero;
capacity words at their reset values (R334); every port down until it passes self-test. -/
def State.reset : State where
  now := 0
  tick := 0
  cur := 0
  todo := []
  inputs := []
  ctr := 0
  cores := []
  clusters := []
  ctxs := []
  regions := []
  images := []
  queues := []
  nodes := []
  groups := []
  barriers := []
  buses := []
  dram := {}
  pxi := []
  link := {}
  dev := {}
  turns := []
  slices := []

end Sys2Proof.Machine
end

