-- ==== Sys2Proof/Machine/Micro.lean ====
section
/-! DEFINITION. The micro-operations of a routine as far as its accesses go (R165 to R169): where each reads and writes, how it
steps the parameter copies, and every access that a routine, running or called, has still to make (R63, R250). -/

namespace Sys2Proof.Machine

open Sys2Proof

/-! ### Parameters and sizes -/

/-- The scratchpad address in a parameter register: bits [20:6] (R167). -/
def engAddr (w : Word) : Nat := (fld w 6 15).toNat * 64

/-- A parameter copy of the routine. -/
def reg (r : Routine) (n : BitVec 3) : Word := (r.regs[n.toNat]?).getD 0

/-- The routine with a parameter copy advanced by a signed step (R167). -/
def stepReg (n : BitVec 3) (by' : BitVec 32) (r : Routine) : Routine :=
  { r with regs := r.regs.set n.toNat (reg r n + sext32 by') }

/-- The digits per block, n, and the digit width, g (R141, R167). -/
def digitsN (r : Routine) : Nat := if r.ent.narrow then 128 else 64
def widthG (r : Routine) : Nat := if r.ent.narrow then 8 else 16

/-- The size of a plane image (R165). -/
def planeBytes (r : Routine) : Nat := 8 * digitsN r

/-- N of an SPIDX code, and the span S (R145, R156). -/
def sparseN (nc : BitVec 2) : Nat := if nc = 1 then 64 else if nc = 2 then 32 else 16
def sparseSpan (r : Routine) (nc : BitVec 2) : Nat := digitsN r * 128 / sparseN nc

/-- The bytes of activations of 64 columns of a span (R165). -/
def actBytes (r : Routine) (span : Nat) : Nat := if r.ent.narrow then 32 * span else 64 * span

/-- The bytes per element of a DRAIN format (R168). -/
def drainSize (fmt : BitVec 2) : Nat := if fmt = 0 then 4 else if fmt = 1 then 2 else 1

/-- The sequencing of a micro-operation on the routine's copies, loop stack and place (R167 to R169). -/
def uopCtl (u : Instr) (r : Routine) : Routine :=
  let n : Routine := { r with uaddr := r.uaddr + 1 }
  match u with
  | .uopPlane ra _ _ st => stepReg ra st n
  | .uopBload ra _ st => stepReg ra st n
  | .uopSpidx ra rb _ _ st => stepReg rb st (stepReg ra (BitVec.ofNat 32 (digitsN r)) n)
  | .uopDrain _ rb _ _ _ st => stepReg rb st n
  | .uopLoop ra rg fin cnt =>
    let c := if rg then (fld (reg r ra) 0 32).toNat else cnt.toNat
    if c = 0 then { r with uaddr := fin.toNat + 1 } else { n with stk := c :: r.stk }
  | .uopJnz t =>
    match r.stk with
    | [] => n
    | top :: rest => if top ≤ 1 then { n with stk := rest } else { r with uaddr := t.toNat, stk := (top - 1) :: rest }
  | _ => n

/-! ### Accesses -/

/-- An access of the engine: its address, its bytes, and whether it writes. -/
abbrev MxAcc := Nat × Nat × Bool

/-- The accesses of a micro-operation (R165, R167, R168). -/
def uopAccs (u : Instr) (r : Routine) : List MxAcc :=
  match u with
  | .uopPlane ra pi _ _ => [(engAddr (reg r ra) + planeBytes r * pi.toNat, planeBytes r, false)]
  | .uopBload ra _ _ => [(engAddr (reg r ra), actBytes r (digitsN r), false)]
  | .uopSpidx ra rb nc _ _ => [(engAddr (reg r ra), digitsN r, false), (engAddr (reg r rb), actBytes r (sparseSpan r nc), false)]
  | .uopDrain _ rb fmt _ _ _ => [(engAddr (reg r rb), 4096 * drainSize fmt, true)]
  | .uopStat _ rb _ => [(engAddr (reg r rb), 8, true)]
  | _ => []

/-- The micro-operation at hand; an index that no word of the store stands at ends the routine. -/
def uopAt (p : Pme) (r : Routine) : Instr :=
  match Map.find? p.code (r.ent.start + r.uaddr) with
  | some w => (decodeUop w).getD .uopEnd
  | none => .uopEnd

/-- Every access that a routine has still to make, in order; the first argument bounds the walk (R63, R250). -/
def walkAccs (p : Pme) : Nat → Routine → List MxAcc
  | 0, _ => []
  | fuel + 1, r =>
    match uopAt p r with
    | .uopEnd => []
    | u => uopAccs u r ++ walkAccs p fuel (uopCtl u r)

/-- The state of a routine at its start (R167). -/
def freshRoutine (idx : Nat) (e : DirEnt) (k : Call) : Routine :=
  { idx := idx, ent := e, uaddr := 0, regs := k.regs, a := List.replicate 64 0
    b := List.replicate (if e.narrow then 8192 else 4096) 0, d := List.replicate 4096 0, i := List.replicate 4096 0
    ea := List.replicate 64 127, eb := List.replicate 64 127, exp := none, stk := [], passes := 0, half := false }

/-- The most micro-operations of a routine that are looked at for its accesses. -/
def walkFuel : Nat := 2 ^ 48

/-- The bytes of an upload that are still to be read: its header was read at issue (R67, R173). -/
def muplCode (a : Nat) (h0 : Word) : Nat × Nat := (a + 16, 8 * (fld h0 11 11).toNat)

/-- The accesses of a queued call (R63, R172, R173): those of its routine as the store stands, none of a routine that is not valid,
which faults as it starts; or the unread bytes of an upload. -/
def callAccs (p : Pme) (k : Call) : List MxAcc :=
  match k.kind with
  | .mupl _ a h0 _ => [((muplCode a h0).1, (muplCode a h0).2, false)]
  | .call idx =>
    match Map.find? p.dir idx with
    | none => []
    | some e => if e.valid then walkAccs p walkFuel (freshRoutine idx e k) else []

/-- Whether a call is a routine's. -/
def Call.isRoutine (k : Call) : Bool :=
  match k.kind with
  | .call _ => true
  | .mupl _ _ _ _ => false

/-- The queued calls, the running one at their head, each with the accesses that it has still to make; routines only where
`routines` says so. -/
def queuedAccs (routines : Bool) (p : Pme) : List (Call × List MxAcc) :=
  let of (k : Call) : Call × List MxAcc := (k, if routines || !k.isRoutine then callAccs p k else [])
  match p.calls, p.run with
  | k :: ks, some r => (k, if routines then walkAccs p walkFuel r else []) :: ks.map of
  | ks, _ => ks.map of

end Sys2Proof.Machine
end

