-- ==== Sys2Proof/Machine/Copies.lean ====
section
/-! DEFINITION. The geometry of a started nest (R207, R210, R212, R214, R215): its copies, their bytes on each side, their
granules, its extents, and its fill point. -/

namespace Sys2Proof.Machine

open Sys2Proof

/-! ### Handles and sides (R204, R205, R209) -/

/-- The fields of a handle-table entry (R204). -/
def hV (e : HEnt) : Bool := bit e.w0 0
def hRD (e : HEnt) : Bool := bit e.w0 1
def hWR (e : HEnt) : Bool := bit e.w0 2
def hKIND (e : HEnt) : BitVec 2 := fld e.w0 3 2
def hMTYPE (e : HEnt) : BitVec 2 := fld e.w0 5 2
def hUNIT (e : HEnt) : BitVec 8 := fld e.w0 8 8
def hREGION (e : HEnt) : BitVec 32 := fld e.w0 16 32
def hLEN (e : HEnt) : Nat := (fld e.w1 0 48).toNat
def hBASE (e : HEnt) : Nat := (fld e.w2 0 56).toNat

/-- The valid entry that a handle names; handle 0 is never valid (R204, R205). -/
def handleEnt (x : Ctx) (h : Nat) : Option HEnt :=
  if h = 0 ∨ x.htlen ≤ h ∨ 2 ^ 16 ≤ h then none
  else
    let e := Map.get x.handles h {}
    if hV e then some e else none

/-- A local side (R209). -/
def localSide (base : Word) : Side :=
  { glob := false, hnd := 0, kind := 0, mtype := 0, unit := 0, region := 0, physBase := 0, base := base.toNat }

/-- A global side: a handle, with its entry, and an offset (R205). -/
def globalSide (x : Ctx) (h : Word) (off : Nat) : Side :=
  let e := (handleEnt x (fld h 0 16).toNat).getD {}
  { glob := true, hnd := (fld h 0 16).toNat, kind := hKIND e, mtype := hMTYPE e, unit := hUNIT e, region := hREGION e
    physBase := hBASE e, base := off }

/-! ### Geometry -/

/-- The space of a side of a copy issued by core `g` (R204). -/
def sideSpace (g : Nat) (sd : Side) : Space :=
  if !sd.glob then .sp g
  else match sd.kind.toNat with
    | 0 => .hbm
    | 1 => .cap
    | 2 => .peer sd.unit.toNat
    | _ => .sp sd.unit.toNat

/-- The address in its space of a byte at an offset of a side. -/
def sideAddr (sd : Side) (off : Nat) : Nat := if sd.glob then sd.physBase + off else off

/-- The number of copies that the levels generate (R210). -/
def nestCopies (ls : List Level) : Nat := ls.foldl (fun n l => n * l.cnt.toNat) 1

/-- The number of copies of an entry; an empty nest is one zero-byte copy (R214). -/
def entryCopies (e : Entry) : Nat := if e.empty then 1 else nestCopies e.levels

/-- The indices i0, i1, … of the n-th copy, i0 running fastest (R210). -/
def nestIdx : List Level → Nat → List Nat
  | [], _ => []
  | l :: ls, n => n % l.cnt.toNat :: nestIdx ls (n / l.cnt.toNat)

/-- Σ ik·stride_k for the n-th copy (R210). -/
def nestOff (stride : Level → BitVec 32) : List Level → Nat → Int
  | [], _ => 0
  | l :: ls, n => (n % l.cnt.toNat : Nat) * (stride l).toInt + nestOff stride ls (n / l.cnt.toNat)

/-- The source start of the n-th copy. -/
def copySrc (e : Entry) (n : Nat) : Int := e.src.base + nestOff Level.ss e.levels n

/-- The destination start of the n-th copy. -/
def copyDst (e : Entry) (n : Nat) : Int := e.dst.base + nestOff Level.ds e.levels n

/-- The lowest and the highest start that a side's nest reaches, relative to its base. -/
def nestHull (stride : Level → BitVec 32) (ls : List Level) : Int × Int :=
  ls.foldl (fun (lo, hi) l =>
    let x := ((l.cnt.toNat : Int) - 1) * (stride l).toInt
    (lo + min 0 x, hi + max 0 x)) (0, 0)

/-- Whether every copy of a nest starts at or above the end of the copy before it (R210): at each level whose index
advances, the step less the travel of the levels below is at least the size. -/
def nestMono (stride : Level → BitVec 32) (size : Nat) : List Level → Int → Bool
  | [], _ => true
  | l :: ls, below =>
    (l.cnt.toNat ≤ 1 || (size : Int) ≤ (stride l).toInt - below)
      && nestMono stride size ls (below + ((l.cnt.toNat : Int) - 1) * (stride l).toInt)

/-- The number of destination granules of a copy that starts at `d` (R212). -/
def granCount (d size : Nat) : Nat := if size = 0 then 0 else (d % 64 + size - 1) / 64 + 1

/-- The bytes of granule `g` of a copy that starts at `d`: their place in the copy, and how many (R212). -/
def granBytes (d size g : Nat) : Nat × Nat :=
  let lo := max d (d / 64 * 64 + 64 * g) - d
  let hi := min size (d / 64 * 64 + 64 * (g + 1) - d)
  (lo, hi - lo)

/-- The number of granules of the n-th copy of an entry. -/
def copyGrans (e : Entry) (n : Nat) : Nat := if e.empty then 0 else granCount (copyDst e n).toNat e.size

/-- Whether the source bytes of a granule have been read. -/
def granRead (e : Entry) (n g : Nat) : Bool := n < e.srcDone || e.readG.any (fun x => x.1 == n && x.2.1 == g)

/-- Whether a granule has been written at its destination. -/
def granFilled (e : Entry) (n g : Nat) : Bool := n < e.fillDone || e.fillG.any (fun x => x == (n, g))

/-- Whether every granule of a copy has been read. -/
def copyRead (e : Entry) (n : Nat) : Bool := (List.range (copyGrans e n)).all (granRead e n)

/-- Whether every granule of a copy has been written. -/
def copyFilled (e : Entry) (n : Nat) : Bool := (List.range (copyGrans e n)).all (granFilled e n)

/-- The number of leading copies, from copy `n` on, of which `done` holds, looking at no more than `fuel`. -/
def donePrefix (done : Nat → Bool) : Nat → Nat → Nat
  | 0, n => n
  | fuel + 1, n => if done n then donePrefix done fuel (n + 1) else n

/-- Where two byte ranges meet. -/
def overlaps (a n b m : Nat) : Bool := decide (a < b + m ∧ b < a + n)

/-- Whether an entry still has to read a byte of a range of a space (R67, R250). -/
def entryReads (g : Nat) (e : Entry) (sp : Space) (a n : Nat) : Bool :=
  !e.empty && sideSpace g e.src == sp
    && (List.range (entryCopies e)).any fun i => i ≥ e.srcDone && (List.range (copyGrans e i)).any fun k =>
      let (o, len) := granBytes (copyDst e i).toNat e.size k
      !granRead e i k && overlaps (sideAddr e.src ((copySrc e i).toNat + o)) len a n

/-- Whether an entry still has to write a byte of a range of a space (R67, R250). -/
def entryWrites (g : Nat) (e : Entry) (sp : Space) (a n : Nat) : Bool :=
  !e.empty && sideSpace g e.dst == sp
    && (List.range (entryCopies e)).any fun i => i ≥ e.fillDone && (List.range (copyGrans e i)).any fun k =>
      let (o, len) := granBytes (copyDst e i).toNat e.size k
      !granFilled e i k && overlaps (sideAddr e.dst ((copyDst e i).toNat + o)) len a n

/-- The fill point of an entry (R215): the destination end of its latest copy counted as filled, or its first destination
start. -/
def fillPoint (e : Entry) : Nat :=
  if e.fillDone = 0 then (copyDst e 0).toNat else (copyDst e (e.fillDone - 1)).toNat + e.size

/-- The end of an entry's guarded range (R215). -/
def guardEnd (e : Entry) : Nat := (copyDst e (entryCopies e - 1)).toNat + e.size

/-- Whether a byte range of the destination's scratchpad meets the guarded range at or above the fill point (R27, R215). -/
def guardHits (e : Entry) (a n : Nat) : Bool :=
  e.guarded && overlaps a n (fillPoint e) (guardEnd e - fillPoint e)

/-! ### Copy nodes (R274) -/

/-- A word of a descriptor. -/
def descWord (ws : List Word) (i : Nat) : Word := (ws[i]?).getD 0

/-- The sides of a copy node of a context `x` and its length (R274). -/
def nodeSides (x : Ctx) (n : Node) : Side × Side × Nat :=
  (globalSide x (descWord n.desc 0) (descWord n.desc 1).toNat, globalSide x (descWord n.desc 2) (descWord n.desc 3).toNat,
   (descWord n.desc 4).toNat)

end Sys2Proof.Machine
end

