-- ==== Sys2Proof/Machine/Pages.lean ====
section
/-! DEFINITION. Page tables (R304 to R308): entries, the walk, the leaves of a context, and pages that go ABSENT with their
backing region. -/

namespace Sys2Proof.Machine

open Sys2Proof

/-! ### Page tables (R304 to R306) -/

/-- The four levels: shift of the index in the address, and index bits (R304). -/
def levelShift (l : Nat) : Nat := if l = 1 then 45 else if l = 2 then 34 else if l = 3 then 24 else 16
def levelBits (l : Nat) : Nat := if l = 1 then 11 else if l = 2 then 11 else if l = 3 then 10 else 8

/-- Bits [55:14] of an entry as an address (R305). -/
def pteAddr (e : Word) : Nat := (fld e 14 42).toNat * 2 ^ 14

/-- A pointer entry that is valid and well formed (R305): its other fields are reserved. -/
def pteIsTable (l : Nat) (e : Word) : Bool :=
  l < 4 && bit e 0 && !bit e 1 && fld e 2 12 == 0 && fld e 56 8 == 0

/-- A leaf that is valid and well formed at its level (R305). -/
def pteIsLeaf (l : Nat) (e : Word) : Bool :=
  3 ≤ l && bit e 0 && bit e 1 && fld e 10 4 == 0 && fld e 56 8 == 0 && fld e 6 2 != 3
    && pteAddr e % 2 ^ levelShift l == 0

/-- The rights, type, tier, mirror bit and encryption bit of a leaf (R305). -/
def pteRD (e : Word) : Bool := bit e 2
def pteWR (e : Word) : Bool := bit e 3
def pteMTYPE (e : Word) : BitVec 2 := fld e 4 2
def pteTIER (e : Word) : BitVec 2 := fld e 6 2
def pteMIR (e : Word) : Bool := bit e 8
def pteENC (e : Word) : Bool := bit e 9

/-- The walk from a table at level `l` (R306): the leaf and the physical address, or nothing for TRANSLATION. -/
def walkFrom (m : Memory) (va : Nat) : (fuel l table : Nat) → Option (Word × Nat)
  | 0, _, _ => none
  | fuel + 1, l, table =>
    let e := word (Memory.readLE m (table + 8 * (va / 2 ^ levelShift l % 2 ^ levelBits l)) 8)
    if pteIsLeaf l e then some (e, pteAddr e + va % 2 ^ levelShift l)
    else if pteIsTable l e then walkFrom m va fuel (l + 1) (pteAddr e)
    else none

/-- The bytes of a block of page tables, on whose boundaries tables start (R304). -/
def tableBytes : Nat := 2 ^ 14

/-- The table that a context's walks start from, 0 for none: its root, where Holly has rented that block for the context's tables
(R304). DESIGN CHOICE (log 119): a root that CTXCTL.ROOT has set to a block that could not be rented translates nothing. -/
def rootOf (x : Ctx) : Nat := if x.tables.contains (x.root.toNat / tableBytes) then x.root.toNat else 0

/-- The translation of a virtual address of a context (R304, R306). -/
def translate (s : State) (x : Ctx) (va : Nat) : Option (Word × Nat) :=
  if rootOf x = 0 ∨ 2 ^ 56 ≤ va then none else walkFrom s.dram.hbm va 4 1 (rootOf x)

/-- The addresses of the entries that a walk from a table at level `l` reads (R306). -/
def walkReads (m : Memory) (va : Nat) : (fuel l table : Nat) → List Nat
  | 0, _, _ => []
  | fuel + 1, l, table =>
    let a := table + 8 * (va / 2 ^ levelShift l % 2 ^ levelBits l)
    let e := word (Memory.readLE m a 8)
    a :: (if pteIsTable l e then walkReads m va fuel (l + 1) (pteAddr e) else [])

/-- The nonzero entries of a table of `n` entries. -/
def tableWords (m : Memory) (table n : Nat) : List Word :=
  (m.filter (fun c => table ≤ c.1 && c.1 < table + 8 * n)).map
    (fun c => word (Memory.readLE m (table + (c.1 - table) / 8 * 8) 8))

/-- The leaves below a table at level `l`, each with its level. -/
def leavesFrom (m : Memory) : (fuel l table : Nat) → List (Nat × Word)
  | 0, _, _ => []
  | fuel + 1, l, table =>
    ((tableWords m table (2 ^ levelBits l)).map (fun e =>
      if pteIsLeaf l e then [(l, e)]
      else if pteIsTable l e then leavesFrom m fuel (l + 1) (pteAddr e)
      else [])).flatten

/-- The leaves of a context. -/
def leavesOf (s : State) (x : Ctx) : List (Nat × Word) :=
  if rootOf x = 0 then [] else leavesFrom s.dram.hbm 4 1 (rootOf x)

/-- The space and address of a translated page (R305, R340). -/
def leafSpace (e : Word) (pa : Nat) : Space × Nat :=
  match (pteTIER e).toNat with
  | 0 => (.hbm, pa)
  | 1 => (.cap, pa)
  | _ => (.peer (pa / 2 ^ 48 % 256), pa % 2 ^ 48)

/-- A virtual range cut at the bounds of its 64 KB pages (R311). -/
def vaPieces : (fuel va n : Nat) → List (Nat × Nat)
  | 0, _, _ => []
  | fuel + 1, va, n =>
    if n = 0 then []
    else
      let k := min n (65536 - va % 65536)
      (va, k) :: vaPieces fuel (va + k) (n - k)

/-- The pieces of a virtual range. -/
def pieces (va n : Nat) : List (Nat × Nat) := vaPieces (n / 65536 + 2) va n

/-- The places of those pieces of a virtual range that translate for a context (R306). -/
def placesOf (s : State) (x : Ctx) (va n : Nat) : List (Space × Nat × Nat) :=
  (pieces va n).filterMap (fun p => (translate s x p.1).map (fun y =>
    let (sp, a) := leafSpace y.1 y.2
    (sp, a, p.2)))

/-- Whether a byte of HBM lies in a page with MIR = 1 of a context (R342). -/
def mirroredPage (s : State) (x : Ctx) (pa : Nat) : Bool :=
  (leavesOf s x).any (fun l => pteMIR l.2 && pteTIER l.2 == 0 && pteAddr l.2 ≤ pa
    && pa < pteAddr l.2 + 2 ^ levelShift l.1)

/-! ### Pages that go ABSENT (R308) -/

/-- The words of a table that are not zero, each with its address. -/
def tablePlaces (m : Memory) (table n : Nat) : List (Nat × Word) :=
  ((m.filter (fun c => table ≤ c.1 && c.1 < table + 8 * n)).map (fun c => table + (c.1 - table) / 8 * 8)).eraseDups.map
    (fun a => (a, word (Memory.readLE m a 8)))

/-- The places of the leaves below a table at level `l`: address, level and entry. -/
def leafPlaces (m : Memory) : (fuel l table : Nat) → List (Nat × Nat × Word)
  | 0, _, _ => []
  | fuel + 1, l, table =>
    ((tablePlaces m table (2 ^ levelBits l)).map (fun x =>
      if pteIsLeaf l x.2 then [(x.1, l, x.2)]
      else if pteIsTable l x.2 then leafPlaces m fuel (l + 1) (pteAddr x.2)
      else [])).flatten

/-- Whether a leaf maps a byte of a range of a tier. -/
def leafIn (tier : BitVec 2) (a n : Nat) (x : Nat × Nat × Word) : Bool :=
  pteTIER x.2.2 == tier && overlaps (pteAddr x.2.2) (2 ^ levelShift x.2.1) a n

/-- The places of a context's leaves. -/
def ctxLeaves (m : Memory) (x : Ctx) : List (Nat × Nat × Word) := if rootOf x = 0 then [] else leafPlaces m 4 1 (rootOf x)

/-- The places of the leaves in a context's tables that its root does not reach as it stands: each is taken for a leaf of both levels
that its form allows, since its table has no level then (R304, R308, log 97). -/
def strayLeaves (m : Memory) (x : Ctx) : List (Nat × Nat × Word) :=
  let reached := (ctxLeaves m x).map (·.1)
  let words := ((x.tables.map (fun k => tablePlaces m (tableBytes * k) 2048)).flatten).filter (fun p => !reached.contains p.1)
  (words.map (fun p => ([3, 4].filter (fun l => pteIsLeaf l p.2)).map (fun l => (p.1, l, p.2)))).flatten

/-- The places of every context's leaves. -/
def allLeaves (s : State) : List (Nat × Nat × Word) :=
  (s.ctxs.map (fun x => ctxLeaves s.dram.hbm x.2 ++ strayLeaves s.dram.hbm x.2)).flatten

/-- Leaves that lose V. -/
def clearLeaves (ps : List (Nat × Nat × Word)) (s : State) : State :=
  { s with dram := { s.dram with
    hbm := ps.foldl (fun m x => Memory.write m x.1 (fld (x.2.2 &&& ~~~1#64) 0 8)) s.dram.hbm } }

/-- The leaves of every context that map a byte of a range of a tier lose V (R308), those that its root does not reach as it stands
among them: a page that its backing region has left is mapped again by an install alone. -/
def unmapRange (tier : BitVec 2) (a n : Nat) (s : State) : State := clearLeaves ((allLeaves s).filter (leafIn tier a n)) s

/-- The type of the pages by which a context maps a byte of a range of a tier, if it does: that of the first of them (R247, log
19). -/
def pageType (s : State) (x : Ctx) (tier : BitVec 2) (a n : Nat) : Option (BitVec 2) :=
  ((ctxLeaves s.dram.hbm x).find? (leafIn tier a n)).map (fun l => pteMTYPE l.2.2)

/-- The tier of a region's bytes as a leaf names it (R305). -/
def kindTier (k : RKind) : BitVec 2 := if k = .cap then 1 else 0

end Sys2Proof.Machine
end

