-- ==== Sys2Proof/Machine/Ops.lean ====
section
/-! DEFINITION. The shared operations over cores, registers, scratchpad and region tables: reads with their issue checks,
results that land later, stores, bank power, check_region and check_race, the trap queue, taking a fault and the return
from it. Every meaning is written with these. -/

namespace Sys2Proof.Machine

open Sys2Proof

/-- What a step answers. -/
abbrev Out := Host.Outcome State Fault Refusal

/-! ### Cores (R10, R11) -/

/-- The core with a number; a core that is not listed is as after reset. -/
def coreAt (s : State) (g : Nat) : Core := Map.get s.cores g Core.reset

/-- The acting core. -/
def core (s : State) : Core := coreAt s s.cur

/-- The state with a core replaced. -/
def setCoreAt (s : State) (g : Nat) (c : Core) : State := { s with cores := Map.put s.cores g c }

/-- The state with the acting core replaced. -/
def setCore (s : State) (c : Core) : State := setCoreAt s s.cur c

/-- The state with the acting core changed. -/
def updCore (f : Core → Core) (s : State) : State := setCore s (f (core s))

/-- The state with one core changed. -/
def updCoreAt (g : Nat) (f : Core → Core) (s : State) : State := setCoreAt s g (f (coreAt s g))

/-- The number under which a core is a member of groups (R289, R290): its own, and a number above 512 that stands for the same
core where a kernel saved on it keeps its membership. -/
def memberNo (g : Nat) (c : Core) : Nat := g + 512 * c.twin

/-- The core of a member. -/
def memberAt (m : Nat) : Nat := m % 512

/-- The acting core as a member. -/
def myNo (s : State) : Nat := memberNo s.cur (core s)

/-- Whether a core number names a control core. -/
def isCtrl (g : Nat) : Bool := 256 ≤ g

/-- The global cluster number of a core (R11). -/
def clusterNo (g : Nat) : Nat := if isCtrl g then g - 256 else g / 8

/-- The die of a core (R11). -/
def dieNo (g : Nat) : Nat := clusterNo g / 8

/-- The number that CORE.NUM and a trap record show (R87, R189). -/
def coreNum (g : Nat) : Nat := if isCtrl g then g - 256 else g

/-- The cluster record of a cluster. -/
def clusterAt (s : State) (k : Nat) : Cluster := Map.get s.clusters k {}

/-- The state with a cluster record replaced. -/
def setCluster (s : State) (k : Nat) (c : Cluster) : State := { s with clusters := Map.put s.clusters k c }

/-- The context record with an id. -/
def ctxAt (s : State) (id : BitVec 12) : Ctx := Map.get s.ctxs id.toNat {}

/-- The state with a context record replaced. -/
def setCtx (s : State) (id : BitVec 12) (x : Ctx) : State := { s with ctxs := Map.put s.ctxs id.toNat x }

/-- The context of the acting core. -/
def myCtx (s : State) : Ctx := ctxAt s (core s).ctx

/-- Whether a core holds a context: it is LOADING, RUNNING, FROZEN, TRAPPED or SAVING (R262). -/
def holding (c : Core) : Bool :=
  match c.st with
  | .loading => true | .running => true | .frozen => true | .trapped => true | .saving => true
  | .disabled => false | .idle => false

/-- The cores that hold a context, ascending. -/
def holders (s : State) (id : BitVec 12) : List Nat :=
  (s.cores.filter (fun x => x.1 < 256 && holding x.2 && x.2.ctx == id)).map (·.1)

/-- The divisor of the clock of a slot's engine (R348). -/
def divisor (c : Core) : Slot → Nat
  | .s => 1
  | .v0 => c.csr.vdiv.toNat + 1
  | .v1 => c.csr.vdiv.toNat + 1
  | .m => c.csr.mdiv.toNat + 1
  | .c0 => c.csr.cdiv.toNat + 1
  | .c1 => c.csr.cdiv.toNat + 1

/-! ### Faults (R184, R185, R189) -/

/-- The class of a fault code (R185). -/
def excClass (code : Nat) : Nat :=
  if code = 0x20 ∨ code = 0x24 then 0 else if code = 0x3F then 2 else 1

/-- A fault raised at issue with its INFO. -/
def exc (code : Nat) (info : Word) : Exc := { code := code, info := info }

/-- ILLEGAL_OP with the slot word (R185). -/
def illegalOp (s : State) : Exc := exc 0x02 ((core s).bun.word.setWidth 64)

/-- INFO of a register fault (R185): the register, its file and whether it is a predicate. -/
def regInfo (sl : Slot) (r : Nat) : Word := word (r + sl.num * 32)

/-- The trap record of a fault (R189). -/
def recordOf (g : Nat) (c : Core) (e : Exc) (sres : Nat) (async : Bool) : TRec :=
  let dp := match c.br with | some b => b.dpos | none => 0
  let bt := match c.br with | some b => b.tgt.toNat | none => 0
  { w0 := word (e.code + excClass e.code * 2 ^ 8 + sres * 2 ^ 10 + e.fslot * 2 ^ 13 + boolNat e.defer * 2 ^ 16
      + dp * 2 ^ 17 + boolNat (isCtrl g) * 2 ^ 19 + boolNat async * 2 ^ 20 + coreNum g * 2 ^ 32 + c.ctx.toNat * 2 ^ 40)
    w1 := word (c.pc.toNat + bt * 2 ^ 18)
    w2 := e.info
    w3 := e.w3 }

/-- An event record (R373). -/
def eventRecord (code : Nat) (ctrl : Bool) (num : Nat) (ctx : BitVec 12) (info : Word) : TRec :=
  { w0 := word (code + 3 * 2 ^ 8 + boolNat ctrl * 2 ^ 19 + num * 2 ^ 32 + ctx.toNat * 2 ^ 40), w1 := 0, w2 := info, w3 := 0 }

/-- A count one higher, saturating at 0xFFFF. -/
def satInc (x : BitVec 16) : BitVec 16 := if x = 0xFFFF then x else x + 1

/-- The place of a record among those that enter in one reference cycle (R190): fatal records first, then by CORE, those of
control cores last. -/
def recRank (r : TRec) : Nat :=
  (if fld r.w0 8 2 = 2#2 then 0 else 512) + boolNat (bit r.w0 19) * 256 + (fld r.w0 32 8).toNat

/-- A record in a queue that ends in records of its cycle, behind those that come before it. -/
def placeRec (r : TRec) (new : List TRec) : List TRec :=
  new.takeWhile (fun x => decide (recRank x ≤ recRank r)) ++ r :: new.dropWhile (fun x => decide (recRank x ≤ recRank r))

/-- A record enters a queue (R190). -/
def enqueueRec (now : Nat) (r : TRec) (q : Cluster) : Cluster :=
  let n := if q.newAt = now then min q.newN q.q.length else 0
  let k := q.q.length - n
  { q with q := q.q.take k ++ placeRec r (q.q.drop k), newAt := now, newN := n + 1 }

/-- An event enters a cluster's trap queue, or is dropped and counted in LOST (R190). -/
def postRecord (k : Nat) (r : TRec) (s : State) : State :=
  let q := clusterAt s k
  if q.q.length + 5 ≤ 64 then setCluster s k (enqueueRec s.now r q)
  else setCluster s k { q with lost := satInc q.lost }

/-- An event for a cluster, under the cluster's number (R373). -/
def postEvent (k code : Nat) (ctx : BitVec 12) (info : Word) (s : State) : State :=
  postRecord k (eventRecord code true k ctx info) s

/-- A message sent to the host (R337); the device numbers those it sends. -/
def sendHost (m : OutMsg) (s : State) : State :=
  { s with link := { s.link with out := s.link.out ++ [{ m with seq := s.link.seq }], seq := s.link.seq + 1 } }

/-- Whether the device serves: QUICKSET or SERVICE (R351). -/
def inService (s : State) : Bool := s.dev.st == .quickset || s.dev.st == .service

/-- Whether packets pass at all: a port is up (R18, R336). -/
def portUp (s : State) : Bool := s.link.ports != 0

/-- Whether peers are heard and answered: a port is up and the device is in service (R18, R352). -/
def linkOpen (s : State) : Bool := portUp s && inService s

/-- Whether Holly carries out driver requests (R18, R338, R352, R354): a port is up to bring them, an SPDM session is open and the
device is in service. -/
def adminOpen (s : State) : Bool := s.link.session && linkOpen s

/-- A driver request carried out by Holly, where it can be and a session stands behind it (R338, R354). -/
def admin (f : State → Option State) (s : State) : Out := .next (if adminOpen s then (f s).getD s else s)

/-! ### Contexts that end (R262) -/

/-- A core that stops for its context's end: results in flight and queued engine work are discarded, and it goes IDLE. DESIGN CHOICE (log
111): a trap record that its latch still holds is dropped, and not counted. -/
def stopCore (c : Core) : Core :=
  { c with
    st := .idle, pend := [], br := none, loops := [], bun := {}, stall := 0, drain := none, trap := none, latched := none
    resume := none, asyncs := [], accFaults := [], alwAgain := false, waitOn := none, inEnd := false, save := none, restore := false
    stop := false
    pme := { c.pme with calls := [], run := none, mupl := none, msqls := [], acrels := [], samples := [], fault := none,
                        held := false, side := [], tiles := [] }
    land := []
    gather := {}, colls := [], snaps := [], collFaults := [], takes := [], rtakes := [], landed := [] }

/-- The bytes of a save image (R266). -/
def imageBytes : Nat := 69632

/-- Save images leave HBM: their bytes read as zero (R266). -/
def dropImages (gone : Image → Bool) (s : State) : State :=
  { s with
    images := s.images.filter (fun m => !gone m)
    dram := { s.dram with hbm := (s.images.filter gone).foldl (fun m i => Memory.zero m i.base imageBytes) s.dram.hbm } }

/-- A context is killed (R190, R262): every core that holds it stops at its next reference cycle, and its images are discarded. -/
def killCtx (id : BitVec 12) (s : State) : State :=
  if (ctxAt s id).st = .free then s
  else
    let s1 := setCtx s id { ctxAt s id with st := .ending }
    dropImages (fun m => m.ctx == id)
      { s1 with cores := s1.cores.map (fun x => if x.1 < 256 && holding x.2 && x.2.ctx == id then (x.1, { x.2 with stop := true }) else x) }

/-- The cores whose contexts have been killed stop, as the next reference cycle begins (R262, log 55). -/
def stopKilled (s : State) : State :=
  { s with cores := s.cores.map (fun x => if x.2.stop then (x.1, if holding x.2 then stopCore x.2 else { x.2 with stop := false }) else x) }

/-! ### Taking a fault (R186 to R195) -/

/-- A fatal record enters the queue, or overwrites LASTFATAL (R190). -/
def enterFatal (g : Nat) (c : Core) (r : TRec) (s : State) : State :=
  let k := clusterNo g
  let q := clusterAt s k
  if q.q.length < 64 then setCluster s k (enqueueRec s.now r q)
  else setCluster s k { q with lfCode := fld r.w0 0 8, lfCore := fld r.w0 32 8, lfCtrl := bit r.w0 19, lfValid := true,
                               lfCtx := c.ctx, lfPc := c.pc, lfCount := satInc q.lfCount }

/-- A fatal record of a compute core, which ends its context (R184, R190). -/
def postFatal (g : Nat) (c : Core) (r : TRec) (s : State) : State := killCtx c.ctx (enterFatal g c r s)

/-- A non-fatal record of a compute core enters the queue, or waits in the core's latch (R190). A core that was resumed while its
record still waited there, and faults again before an entry frees, loses the older record to the newer: R190 gives a core one
latched record and does not say which one stays (DESIGN CHOICE, log 81). -/
def postFault (g : Nat) (r : TRec) (s : State) : State :=
  let k := clusterNo g
  let q := clusterAt s k
  if q.q.length + 5 ≤ 64 then setCluster s k (enqueueRec s.now r q)
  else updCoreAt g (fun c => { c with latched := some (s.now, r) }) s

/-- A record of a control core enters the queue, waits in the control core's latch, or is dropped and counted (R190). -/
def postCtrlFault (k : Nat) (r : TRec) (s : State) : State :=
  let q := clusterAt s k
  if q.q.length + 5 ≤ 64 then setCluster s k (enqueueRec s.now r q)
  else if q.latch.isNone then setCluster s k { q with latch := some r }
  else setCluster s k { q with lost := satInc q.lost }

/-- A fault on a control core (R194): its record enters the trap queue, and the core goes on at Holly's fault entry; the program
that ran is abandoned. A fatal record puts one that waits in the control core's latch aside (R190). -/
def ctrlTrap (e : Exc) (sres : Nat) (async : Bool) (s : State) : State :=
  let c := core s
  let g := s.cur
  let r := recordOf g c e sres async
  let s1 := setCore s { c with
    st := .running, ctx := 0, pc := Config.hollyFaultEntry, br := none, loops := [], bun := {}, stall := 0, drain := none
    resume := none, bramble := false, csr := { c.csr with sres := BitVec.ofNat 3 sres } }
  if excClass e.code = 2 then
    enterFatal g c r (setCluster s1 (clusterNo g) { clusterAt s1 (clusterNo g) with latch := none })
  else postCtrlFault (clusterNo g) r s1

/-- A fault of Bramble's code (R194, R354): Holly goes on at its fault entry, and the step BRAMBLE_RESTART follows at once. -/
def brambleTrap (e : Exc) (sres : Nat) (async : Bool) (s : State) : State :=
  let s1 := ctrlTrap e sres async s
  { s1 with dev := { s1.dev with brambleDue := s1.dev.brambleDue ++ [(clusterNo s.cur / 8, true)] } }

/-- A fault of Holly's own code is MACHINE_CHECK (R194, R354), which is asynchronous and belongs to no slot (R372), with a syndrome
that no rule gives (free, log 82); in QUICKSET and SERVICE the step HOLLY_FAULT follows at once (R351). -/
def hollyTrap (e : Exc) (sres : Nat) (async : Bool) (s : State) : State :=
  let check := e.code = 0x3F
  ctrlTrap (if check then e else exc 0x3F (Config.freeWord s.ctr)) (if check then sres else 0) (!check || async) (updCore (fun c => { c with hollyBad := inService s }) { s with ctr := s.ctr + 1 })

/-- Whether Holly acts: a control core on which Bramble does not run. Bramble uses the privileged forms through Holly's request
gate only (R354), so for its code they are PRIV (log 91). -/
def hollyActs (s : State) : Bool := isCtrl s.cur && !(core s).bramble

/-- What the slots of a bundle that a trap splits will still see of memory before it (R188): of the region tables, only the
entries that the bundle has changed, as they stood; an entry it has made reads FREE. -/
def splitView (rs : Map Region) (b : Bundle) : Bundle :=
  { b with arb := none, old := b.old.map (fun o => { o with
      regions := o.regions.filter (fun x => Map.find? rs x.1 != some x.2)
        ++ (rs.filter (fun x => (Map.find? o.regions x.1).isNone)).map (fun x => (x.1, {})) }) }

/-- A split bundle goes on (R188): its other slots see memory as it stands now, but for the bytes and the table entries that its
own slots have changed, which they see as they were. -/
def rejoin (s : State) : State :=
  let c := core s
  match c.bun.old with
  | none => s
  | some o =>
    let mem := c.bun.stored.foldl (fun m x => Memory.write m x.1 (Memory.read o.mem x.1)) c.sp.mem
    let poison := (c.bun.stored.map (·.1 / 64)).foldl (fun p g => match Map.find? o.poison g with
      | some b => Map.put p g b
      | none => Map.del p g) c.sp.poison
    setCore s { c with bun := { c.bun with old := some ⟨mem, poison, o.regions.foldl (fun m x => Map.put m x.1 x.2) s.regions⟩ } }

/-- TAKING A FAULT, for every core and every cause. A compute core becomes TRAPPED where it stands: the trap keeps PC,
the delay position and the pending target, STAT.SRES names the first uncommitted slot, and the record goes to its
cluster (R186, R189, R190). A control core sends its record and goes on at Holly's fault entry; the faulting program is
abandoned (R194). A fatal fault ends the context (R184). -/
def takeTrap (e : Exc) (sres : Nat) (async atDecode : Bool) (s : State) : State :=
  let c := core s
  let g := s.cur
  if isCtrl g then (if c.bramble then brambleTrap else hollyTrap) e sres async s
  else
    let t : Trap :=
      { exc := e, cls := excClass e.code, sres := sres, async := async, atDecode := atDecode, pc := c.pc
        dpos := match c.br with | some b => b.dpos | none => 0
        btgt := match c.br with | some b => b.tgt | none => 0
        inEnd := c.inEnd && c.bun.slots.isEmpty }
    let r := recordOf g c e sres async
    let s1 := setCore s { c with st := .trapped, trap := some t, resume := none, bun := splitView s.regions c.bun
                                 csr := { c.csr with sres := BitVec.ofNat 3 sres } }
    if excClass e.code = 2 then postFatal g c r s1 else postFault g r s1

/-- A fault that a slot raises at issue: the slot has no effect, FSLOT and SRES name it (R186). -/
def slotFault (sl : Slot) (e : Exc) (s : State) : State := takeTrap { e with fslot := sl.num } sl.num false false s

/-! ### Register files (R33, R34, R57, R68) -/

/-- The key of a data register. -/
def regKey (sl : Slot) (r : Reg) : Nat := 32 * sl.num + r.toNat

/-- The key of a predicate register. -/
def predKey (sl : Slot) (i : Nat) : Nat := 8 * sl.num + i

/-- The 64-bit value of a data register of S, M, C0 or C1. -/
def getX (c : Core) (sl : Slot) (r : Reg) : Word := Map.get c.files.x (regKey sl r) 0

/-- A vector register. -/
def getV (c : Core) (sl : Slot) (r : Reg) : VReg := Map.get c.files.v (regKey sl r) {}

/-- A predicate register or lane mask; index 0 is the constant true (R33). -/
def getP (c : Core) (sl : Slot) (i : Nat) : Word :=
  if i = 0 then (if isV sl then BitVec.allOnes 64 else 1) else Map.get c.files.p (predKey sl i) 0

/-- The predicate of a scalar slot (R23, R33). -/
def predOn (c : Core) (sl : Slot) (p : Pred) : Bool := (getP c sl p.idx.toNat != 0) != p.inv

/-- The selected mask of a vector slot (R23, R33). -/
def selMask (c : Core) (sl : Slot) (p : Pred) : Word :=
  let m := getP c sl p.idx.toNat
  if p.inv then ~~~m else m

/-- Whether a register is live; M, C0 and C1 registers always are (R200). -/
def isLive (c : Core) (sl : Slot) (r : Reg) : Bool :=
  match sl with
  | .m => true | .c0 => true | .c1 => true
  | _ => (Map.get c.files.live sl.num 0).getLsbD r.toNat

/-- Whether a register is poisoned (R59). -/
def isPoison (c : Core) (sl : Slot) (r : Reg) : Bool := (Map.get c.files.poison sl.num 0).getLsbD r.toNat

/-- The DEAD_READ and POISON checks on a data register that is read (R68). -/
def regCheck (c : Core) (sl : Slot) (r : Reg) : Except Exc Unit :=
  if !isLive c sl r then .error (exc 0x10 (regInfo sl r.toNat))
  else if isPoison c sl r then .error (exc 0x11 (regInfo sl r.toNat))
  else .ok ()

/-- A data register of S, M, C0 or C1 as a source; s0 reads zero (R68). -/
def rdX (c : Core) (sl : Slot) (r : Reg) : Except Exc Word :=
  if sl = .s ∧ r = 0 then .ok 0
  else do
    regCheck c sl r
    .ok (getX c sl r)

/-- A vector register as a source, with no tag check (R110). -/
def rdV (c : Core) (sl : Slot) (r : Reg) : Except Exc VReg := do
  regCheck c sl r
  .ok (getV c sl r)

/-- FORMAT_TAG for a source register (R185). -/
def tagFault (u : VU) (r : Reg) (v : VReg) : Exc := exc 0x13 (regInfo u.slot r.toNat ||| word (v.tag.toNat * 2 ^ 9))

/-- A source's tag checked against those its entry accepts (R90). -/
def needTag (u : VU) (ok : Nat → Bool) (r : Reg) (v : VReg) : Except Exc Unit :=
  if ok v.tag.toNat then .ok () else .error (tagFault u r v)

/-- Every tag but NONE (R90, R123, R124). -/
def notNone (t : Nat) : Bool := t != 0

/-- The second operand of RL on S, M, C0 and C1 (R36). -/
def rdO (c : Core) (sl : Slot) (o : Opnd) : Except Exc Word :=
  match o with
  | .lit v => .ok v
  | .reg b _ => rdX c sl b

/-- The registers that last-use marks of an S or V instruction end (R24, R39). -/
def marksOf (a : Reg) (la : Bool) : List Reg := if la then [a] else []

/-- The mark of a register operand. -/
def markO : Opnd → List Reg
  | .lit _ => []
  | .reg b l => marksOf b l

/-! ### Register banks (R57, R58) -/

/-- The bank of a register of a banked file (R57). -/
def bankOf (sl : Slot) (r : Nat) : Nat := if isV sl then r / 8 else r / 16

/-- The number of banks of a file (R57). -/
def bankCount : Slot → Nat
  | .s => 2 | .v0 => 4 | .v1 => 4 | .m => 0 | .c0 => 0 | .c1 => 0

/-- The key of a register bank. -/
def bankKey (sl : Slot) (b : Nat) : Nat := 8 * sl.num + b

/-- A register bank. -/
def getBank (c : Core) (sl : Slot) (b : Nat) : Bank := Map.get c.files.banks (bankKey sl b) {}

/-- The core with a register bank replaced. -/
def setBank (c : Core) (sl : Slot) (b : Nat) (k : Bank) : Core :=
  { c with files := { c.files with banks := Map.put c.files.banks (bankKey sl b) k } }

/-- The registers of a bank, ascending. -/
def bankRegs (sl : Slot) (b : Nat) : List Nat :=
  if isV sl then (List.range 8).map (8 * b + ·) else (List.range 16).map (16 * b + ·)

/-- Whether a bank holds a live register (R57). -/
def bankLive (c : Core) (sl : Slot) (b : Nat) : Bool :=
  (bankRegs sl b).any (fun r => (Map.get c.files.live sl.num 0).getLsbD r)

/-- A bank whose last live register has died goes OFF, whatever its state: a wake ends there too (R24, R58). -/
def bankIfDead (c : Core) (sl : Slot) (b : Nat) : Core :=
  if bankLive c sl b || (getBank c sl b).st == .off then c else setBank c sl b {}

/-- A register killed by a last-use mark (R24): it is dead, and its bank goes OFF if it was the last live one. One that is dead
already ends nothing. -/
def killReg (sl : Slot) (c : Core) (r : Reg) : Core :=
  let l := Map.get c.files.live sl.num 0
  if l.getLsbD r.toNat then
    bankIfDead { c with files := { c.files with live := Map.put c.files.live sl.num (l &&& ~~~(1#32 <<< r.toNat)) } }
      sl (bankOf sl r.toNat)
  else c

/-- The last-use marks of an instruction take effect, after all of its reads (R24). -/
def killMarks (sl : Slot) (rs : List Reg) (c : Core) : Core := rs.foldl (killReg sl) c

/-- The reference cycles of a wake: 4 from RET, 12 from OFF (R52, R58). -/
def wakeCycles (k : BankSt) : Nat := if k = .ret then 4 else 12

/-- A register bank that is OFF or RET starts its wake; from OFF every register reads 0 with tag NONE (R58). `by?` names
the slot whose access starts it. -/
def startWake (now : Nat) (acc : Option Slot) (sl : Slot) (b : Nat) (c : Core) : Core :=
  let k := getBank c sl b
  match k.st with
  | .ret => setBank c sl b { st := .waking, wakeEnd := now + 4, fromRet := true, byAcc := acc }
  | .off =>
    let f := c.files
    let gone (x : Nat) : Bool := (bankRegs sl b).any (fun r => 32 * sl.num + r == x)
    let low := (bankRegs sl b).foldl (fun m r => m ||| (1#32 <<< r)) 0
    let f' := { f with x := f.x.filter (fun e => !gone e.1), v := f.v.filter (fun e => !gone e.1)
                       poison := Map.put f.poison sl.num (Map.get f.poison sl.num 0 &&& ~~~low) }
    setBank { c with files := f' } sl b { st := .waking, wakeEnd := now + 12, byAcc := acc }
  | .waking => c
  | .full => c

/-! ### Results that land later (R25, R50, R55) -/

/-- A result of the core's own slot `sl`, due `lat` engine cycles after issue, enters flight. -/
def fly (sl : Slot) (lat : Nat) (l : Landing) (c : Core) : Core :=
  { c with pend := c.pend ++ [{ l with due := c.csr.cyc + lat * divisor c sl, born := c.csr.cyc, src := sl }] }

/-- A landing with nothing but its destination set. -/
def emptyLanding : Landing :=
  { due := 0, born := 0, src := .s, file := .s, isPred := false, reg := 0, bits := 0, mask := 0, tag := 0, dw := 0
    arrival := false }

/-- The mask of a 64-bit value. -/
def mask64 : VWord := (BitVec.allOnes 64).setWidth 2048

/-- A 64-bit result for a data register; s0 takes none (R68). -/
def resX (sl : Slot) (r : Reg) (v : Word) (lat : Nat) (c : Core) : Core :=
  if sl = .s ∧ r = 0 then c
  else fly sl lat { emptyLanding with file := sl, reg := r.toNat, bits := v.setWidth 2048, mask := mask64 } c

/-- A result for a predicate register or for the bits of a lane mask; index 0 takes none (R55). -/
def resP (sl : Slot) (i : Nat) (v mask : Word) (lat : Nat) (c : Core) : Core :=
  if i = 0 then c
  else fly sl lat { emptyLanding with file := sl, isPred := true, reg := i, bits := v.setWidth 2048
                                      mask := mask.setWidth 2048 } c

/-- A vector result: the bits written, their tag and digit width. -/
def resV (sl : Slot) (r : Reg) (bits mask : VWord) (tag : BitVec 6) (dw : BitVec 2) (lat : Nat) (c : Core) : Core :=
  fly sl lat { emptyLanding with file := sl, reg := r.toNat, bits := bits, mask := mask, tag := tag, dw := dw } c

/-- An XMOV or XMOVP value on its way, 3 cycles of the source slot's engine (R56): in the slot's own file it is a result of that
slot like any other, in another file an arrival (R55, R269). -/
def arrive (src : Slot) (l : Landing) (c : Core) : Core := fly src 3 { l with arrival := src != l.file } c

/-- Bits written under a mask over old bits. -/
def mergeBits (old new mask : VWord) : VWord := (old &&& ~~~mask) ||| (new &&& mask)

/-- A value lands in its register: a poisoned register first reads zero, the poison clears, and a data register becomes
live (R57, R59). -/
def applyLanding (c : Core) (l : Landing) : Core :=
  let f := c.files
  let k := 32 * l.file.num + l.reg
  if l.isPred then
    let old := Map.get f.p (predKey l.file l.reg) 0
    { c with files := { f with p := Map.put f.p (predKey l.file l.reg) ((mergeBits (old.setWidth 2048) l.bits l.mask).setWidth 64) } }
  else
    let b : BitVec 32 := 1#32 <<< l.reg
    let po := Map.get f.poison l.file.num 0
    let bad := po.getLsbD l.reg
    let f1 := { f with live := Map.put f.live l.file.num (Map.get f.live l.file.num 0 ||| b)
                       poison := Map.put f.poison l.file.num (po &&& ~~~b) }
    if isV l.file then
      let old := Map.get f.v k {}
      let new : VReg := { bits := mergeBits (if bad then 0 else old.bits) l.bits l.mask, tag := l.tag, dw := l.dw }
      { c with files := { f1 with v := Map.put f.v k new } }
    else
      let old : Word := if bad then 0 else Map.get f.x k 0
      { c with files := { f1 with x := Map.put f.x k ((mergeBits (old.setWidth 2048) l.bits l.mask).setWidth 64) } }

/-- Whether two landings go to one register. -/
def sameDest (l m : Landing) : Bool := l.file == m.file && l.isPred == m.isPred && l.reg == m.reg

/-- The landing kept of those that land in one register in one issue cycle (R55): the latest-issued own result, else the
arrival of the rightmost source slot. -/
def keeper : List Landing → Landing → Landing
  | [], b => b
  | l :: ls, b =>
    let better :=
      if l.arrival != b.arrival then b.arrival
      else if l.arrival then b.src.num < l.src.num || (b.src == l.src && b.born < l.born)
      else b.born < l.born
    keeper ls (if better then l else b)

/-- What a register has taken already in the present issue cycle: a status value may become readable later in it, during a freeze
(R161). -/
def landedHere (c : Core) (l : Landing) : List Landing := c.landed.filter (fun x => x.due == c.csr.cyc && sameDest l x)

/-- The landings of one register in one issue cycle resolved (R55): one is kept, and a collision sets STAT.WCOL. One that the
register has taken already stays if it is the one kept. -/
def landGroup (c : Core) (l : Landing) (ls : List Landing) : Core :=
  let prior := landedHere c l
  let k := keeper (ls ++ prior) l
  let c1 := if prior.contains k then c else applyLanding c k
  let c2 := { c1 with landed := c.landed.filter (fun x => x.due == c.csr.cyc) ++ [k] }
  if ls.isEmpty && prior.isEmpty then c2 else { c2 with csr := { c2.csr with wcol := true } }

/-- Whether the destination of a landing can take it: it is no banked register, or its bank is FULL (R56, R58). -/
def bankReady (c : Core) (l : Landing) : Bool :=
  l.isPred || bankCount l.file == 0 || (getBank c l.file (bankOf l.file l.reg)).st == .full

/-- The landings that are due in the present issue cycle. -/
def dueLandings (c : Core) : List Landing := c.pend.filter (fun l => l.due ≤ c.csr.cyc)

/-- The due landings of the registers that `pick` chooses land, register by register. -/
def landAll (pick : Core → List Landing → Bool) : List Landing → Core → Core
  | [], c => c
  | l :: ls, c =>
    let group := (dueLandings c).filter (sameDest l)
    match group with
    | [] => landAll pick ls c
    | g :: gs =>
      if pick c group then
        landAll pick ls
          (landGroup { c with pend := c.pend.filter (fun x => !(decide (x.due ≤ c.csr.cyc) && sameDest g x)) } g gs)
      else landAll pick ls c

/-- Whether the bank of landings of one register can take them. -/
def groupReady (c : Core) (ls : List Landing) : Bool := ls.all (bankReady c)

/-- The banks that due landings find OFF or RET start their wakes (R56, R58). -/
def wakeLandings (now : Nat) (c : Core) : Core :=
  (dueLandings c).foldl (fun c l => if bankReady c l then c else startWake now none l.file (bankOf l.file l.reg) c) c

/-! ### Scratchpad (R51, R61 to R64) -/

/-- Scratchpad as the bundle's slots read it (R51). -/
def viewMem (c : Core) : Memory :=
  match c.bun.old with
  | some o => o.mem
  | none => c.sp.mem

/-- The poisoned granules as the bundle's slots see them. -/
def viewPoison (c : Core) : Map Bool :=
  match c.bun.old with
  | some o => o.poison
  | none => c.sp.poison

/-- The region tables as the bundle's slots are checked against (R240). -/
def viewRegions (s : State) : Map Region :=
  match (core s).bun.old with
  | some o => o.regions
  | none => s.regions

/-- The bundle keeps what its other slots still see, before the first change (R51, R240, R260). -/
def keepOld (s : State) : State :=
  let c := core s
  match c.bun.old with
  | some _ => s
  | none => setCore s { c with bun := { c.bun with old := some ⟨c.sp.mem, c.sp.poison, s.regions⟩ } }

/-- The granules (by number) that a byte range touches. -/
def granulesOf (a n : Nat) : List Nat := if n = 0 then [] else (List.range ((a + n - 1) / 64 - a / 64 + 1)).map (a / 64 + ·)

/-- Bytes written into a scratchpad: poison of each granule written clears, and the bytes of such a granule that the
write does not cover read as zero (R63). -/
def spWrite (sp : Scratch) (bs : List (Nat × Byte)) : Scratch :=
  let gs := (bs.map (·.1 / 64)).eraseDups
  let bad := gs.filter (fun g => (Map.find? sp.poison g).isSome)
  let m1 := bad.foldl (fun m g => Memory.zero m (64 * g) 64) sp.mem
  { sp with
    mem := bs.foldl (fun m b => Memory.write m b.1 b.2) m1
    poison := bad.foldl (fun p g => Map.del p g) sp.poison }

/-- A slot stores bytes: they are in place for the next issue cycle, the bundle's other slots still see the old ones,
and a byte that another slot of the bundle has stored sets STAT.WCOL (R51). -/
def slotStore (sl : Slot) (bs : List (Nat × Byte)) (s0 : State) : State :=
  let s := keepOld s0
  let c := core s
  let clash := bs.any (fun b => c.bun.stored.any (fun x => x.1 == b.1 && x.2 != sl))
  setCore s { c with
    sp := spWrite c.sp bs
    bun := { c.bun with stored := c.bun.stored ++ bs.map (fun b => (b.1, sl)) }
    csr := { c.csr with wcol := c.csr.wcol || clash } }

/-- The bytes of a little-endian value with their addresses. -/
def bytesAt (a n v : Nat) : List (Nat × Byte) := (List.range n).zipWith (fun i b => (a + i, b)) (leBytes n v)

/-- Bytes with their addresses from an address upward. -/
def placeBytes (a : Nat) (bs : List Byte) : List (Nat × Byte) := (List.range bs.length).zipWith (fun i b => (a + i, b)) bs

/-- The scratchpad size (R61). -/
def spSize : Nat := 0x180000

/-! ### Regions (R229 to R231) -/

/-- The key of a table entry from its LOC and kind: SP and IS entries of core tables below 2^18, HBM and CAP above. -/
def regionKey (h : BitVec 32) : Nat :=
  let k := (fld h 29 3).toNat
  if k = 1 ∨ k = 2 then (fld h 0 18).toNat else 2 ^ 18 + (fld h 0 18).toNat

/-- The handle of a table entry (R230). -/
def handleOf (key : Nat) (r : Region) : BitVec 32 := BitVec.ofNat 3 r.kind.code ++ r.gen ++ BitVec.ofNat 18 (key % 2 ^ 18)

/-- The region that a handle names, with its key: the kind and the generation match and the entry is not FREE (R230). -/
def regionOf (rs : Map Region) (h : BitVec 32) : Option (Nat × Region) :=
  match Map.find? rs (regionKey h) with
  | none => none
  | some r =>
    if r.st != .free && handleOf (regionKey h) r == h then some (regionKey h, r) else none

/-- Whether a table entry's bytes lie in a space (R229). -/
def inSpace (sp : Space) (key : Nat) (r : Region) : Bool :=
  match sp with
  | .sp g => r.kind == .sp && key / 1024 == g
  | .is g => r.kind == .is && key / 1024 == g
  | .hbm => r.kind == .hbm
  | .cap => r.kind == .cap
  | .peer _ => false

/-- The table entries, not FREE, that cover a byte of a space. -/
def covering (rs : Map Region) (sp : Space) (a : Nat) : List (Nat × Region) :=
  rs.filter (fun x => x.2.st != .free && inSpace sp x.1 x.2 && decide (x.2.base ≤ a ∧ a < x.2.base + x.2.size))

/-- The kinds of access (R250). -/
inductive Acc where
  | read | write | atomic
  deriving DecidableEq, Repr

/-- Whether an access writes. -/
def Acc.writes : Acc → Bool
  | .read => false | .write => true | .atomic => true

/-- Whether an access reads. -/
def Acc.reads : Acc → Bool
  | .read => true | .write => false | .atomic => true

/-- The region or sublet that admits an access of a context to a byte (R231): one that it owns, else a sublet to it with
the right. DESIGN CHOICE (log 117): of several sublets with the right, the first of the table, whatever its state. -/
def admits (rs : Map Region) (ctx : BitVec 12) (sp : Space) (k : Acc) (a : Nat) : Option (Nat × Region) :=
  let cs := covering rs sp a
  match cs.find? (fun x => x.2.subl.isNone && x.2.owner == ctx) with
  | some r => some r
  | none => cs.find? (fun x => match x.2.subl with
      | some b => b.tenant == ctx && (!k.writes || b.wr) && (!k.reads || b.rd)
      | none => false)

/-- The first byte of each granule's part of a range. -/
def partStarts (a n : Nat) : List Nat := (granulesOf a n).map (fun g => max a (64 * g))

/-- The lowest address of a list of which `bad` holds. -/
def lowest (bad : Nat → Bool) : List Nat → Option Nat
  | [] => none
  | a :: as =>
    match lowest bad as with
    | none => if bad a then some a else none
    | some b => if bad a && decide (a < b) then some a else some b

/-- Whether the region that admits a byte, if one does, is neither HELD nor OVERDUE (R231). -/
def expiredAt (rs : Map Region) (ctx : BitVec 12) (sp : Space) (k : Acc) (b : Nat) : Bool :=
  match admits rs ctx sp k b with
  | some r => r.2.st != .held && r.2.st != .overdue
  | none => false

/-- check_region (R231) on parts of granules named by their first bytes: NO_RIGHT at the lowest byte that nothing admits,
else EXPIRY at the lowest byte whose region is neither HELD nor OVERDUE. -/
def checkRegionAt (rs : Map Region) (ctx : BitVec 12) (sp : Space) (k : Acc) (gs : List Nat) : Except Exc Unit :=
  match lowest (fun b => (admits rs ctx sp k b).isNone) gs with
  | some b => .error (exc 0x21 (word b))
  | none =>
    match lowest (expiredAt rs ctx sp k) gs with
    | some b => .error (exc 0x20 (word b))
    | none => .ok ()

/-- check_region (R231) on a byte range, from its lowest byte upward. -/
def checkRegion (rs : Map Region) (ctx : BitVec 12) (sp : Space) (k : Acc) (a n : Nat) : Except Exc Unit :=
  checkRegionAt rs ctx sp k (partStarts a n)

/-! ### Race detection (R243, R250, R251, R254) -/

/-- The code of a path class. -/
def Path.code : Path → Nat
  | .sl => 0 | .cp => 1 | .mx => 2 | .ga => 3 | .co => 4 | .lk => 5

/-- The table entry whose phase word governs a byte (R249): a sublet that covers it, else its region. -/
def governing (rs : Map Region) (sp : Space) (a : Nat) : Option (Nat × Region) :=
  let cs := covering rs sp a
  match cs.find? (fun x => x.2.subl.isSome) with
  | some r => some r
  | none => cs.head?

/-- Whether a domain has a member core. -/
def isMember (s : State) (g : BitVec 16) (m : Nat) : Bool :=
  (Map.get s.groups g.toNat {}).members.any (fun x => memberAt x == m)

/-- The tag of a granule of a group-bound region; one of an older epoch reads as untouched (R251). -/
def tagOf (r : Region) (gran : Nat) : GTag :=
  match Map.find? r.tags gran with
  | some t => if t.epoch = r.phase.epoch then t else ⟨r.phase.epoch, none, none, false⟩
  | none => ⟨r.phase.epoch, none, none, false⟩

/-- Whether the tag check raises RACE for member `m` (R251). -/
def tagRaces (t : GTag) (k : Acc) (m : Nat) : Bool :=
  let wOther := t.writer.any (· != m)
  if k.writes then wOther || t.many || t.reader.any (· != m) else wOther

/-- The tag after an access of member `m` that passed (R251). -/
def tagAfter (t : GTag) (k : Acc) (m : Nat) : GTag :=
  if k.writes then { t with writer := some m }
  else if t.many then t
  else match t.reader with
    | none => { t with reader := some m }
    | some r => if r = m then t else { t with many := true }

/-- Whether a node waits on a word of a granule of a core's scratchpad (R254, R275). -/
def watchesGranule (g gran : Nat) (n : Node) : Bool :=
  n.kind == .event && n.st == .waiting && n.home == g && bit ((n.desc[0]?).getD 0) 0
    && ((n.desc[1]?).getD 0).toNat / 64 == gran

/-- Whether a granule holds a watched word (R254). -/
def watched (s : State) (sp : Space) (gran : Nat) : Bool :=
  match sp with
  | .sp g => s.nodes.any (fun x => watchesGranule g gran x.2)
  | _ => false

/-- The local ranges that a gather-class operation has still to read and to write (R67, R312). -/
def gopLocal (o : GOp) : List (Nat × Nat) × List (Nat × Nat) :=
  match o.kind with
  | .gath addf =>
    if addf then ([(o.list + 4 * o.prog, 4 * (o.n - o.prog)), (o.loc, o.size)], [(o.loc, o.size)])
    else ([(o.list + 4 * o.prog, 4 * (o.n - o.prog))], [(o.loc + o.size * o.prog, o.size * (o.n - o.prog))])
  | .scat => ([(o.list + 4 * o.prog, 4 * (o.n - o.prog)), (o.loc + o.size * o.prog, o.size * (o.n - o.prog))], [])
  | _ => (o.rds, o.wrs)

/-- The scratchpad ranges of core `g` that its engines of a class other than the channels have still to read and to
write (R67, R250). -/
def engineLocal (c : Core) (p : Path) : List (Nat × Nat) × List (Nat × Nat) :=
  match p with
  | .mx =>
    (c.pme.msqls.map (fun m => (m.addr + 64 * m.read, 64 * (m.count - m.read)))
      ++ c.pme.calls.filterMap (fun k => match k.kind with
          | .mupl _ a h0 _ => some (muplCode a h0)
          | .call _ => none), [])
  | .ga => ((c.gather.q.map (fun o => (gopLocal o).1)).flatten, (c.gather.q.map (fun o => (gopLocal o).2)).flatten)
  | .co =>
    let ops := c.colls.filter (fun o => !o.done)
    (ops.map (fun o => (o.src, 4 * o.cnt)), ops.map (fun o => (o.dst, 4 * o.cnt)) ++ c.snaps.map (fun o => (o.addr, 1024)))
  | _ => ([], [])

/-- The bytes of an element of a KV block's format (R316). -/
def kvBytes (bf : Bool) : Nat := if bf then 2 else 4

/-- The global ranges of a gather-class operation of a context, with its lists in `m`, and whether it writes them (R311, R317). -/
def gopGlobal (s : State) (x : Ctx) (m : Memory) (o : GOp) : List (Space × Nat × Nat) × Bool :=
  let elems : List (Space × Nat × Nat) :=
    ((List.range o.n).map (fun i => placesOf s x (o.base + Memory.readLE m (o.list + 4 * i) 4 * o.stride) o.size)).flatten
  match o.kind with
  | .gath _ => (elems, false)
  | .scat => (elems, true)
  | .kvapp _ =>
    let ka := o.base + 2048 * (o.pos % 16)
    (placesOf s x ka (o.n * kvBytes o.alt) ++ placesOf s x (ka + 32768) (o.n * kvBytes o.alt), true)
  | .pxlook => ([], false)
  | .pxins => ([], false)
  | .pxdrop => ([], false)

/-- Whether some of some ranges of a space meet a range of it. -/
def anyMeets (rs : List (Nat × Nat)) (a n : Nat) : Bool := rs.any (fun x => overlaps x.1 x.2 a n)

/-- Whether a gather-class operation in flight on core `u`, which stands as `c`, reads, and whether it writes, a byte of a range: all of its accesses
are in flight until it is complete (R315). -/
def gopTouches (s : State) (u : Nat) (c : Core) (o : GOp) (sp : Space) (a n : Nat) : Bool × Bool :=
  let (r, w) := gopLocal { o with prog := 0 }
  let (gs, wr) := gopGlobal s (ctxAt s c.ctx) c.sp.mem o
  let hit := gs.any (fun x => x.1 == sp && overlaps x.2.1 x.2.2 a n)
  (sp == .sp u && anyMeets r a n || !wr && hit, sp == .sp u && anyMeets w a n || wr && hit)

/-- Whether a copy node in flight, made by core `u`, reads, and whether it writes, a byte of a range (R274). -/
def copyTouches (s : State) (u : Nat) (nd : Node) (sp : Space) (a n : Nat) : Bool × Bool :=
  let (x, y, len) := nodeSides (ctxAt s nd.owner) nd
  let hit (sd : Side) : Bool := sideSpace u sd == sp && overlaps (sideAddr sd sd.base.toNat) len a n
  (hit x, hit y)

/-- The copy nodes that run for a core (R274). -/
def copyNodesOf (s : State) (u : Nat) : List Node :=
  (s.nodes.filter (fun x => x.2.kind == .copy && x.2.st == .running && x.2.home == u)).map (·.2)

/-- What tells the accesses in flight that count: whether COLLs that have run do, until their phase ends (R295); whether routines do;
and which operations' reads and writes, by the reference cycle of their issue. -/
structure Count where
  past : Bool := false
  routines : Bool := true
  rd : Nat → Bool := fun _ => true
  wr : Nat → Bool := fun _ => true

/-- Whether a path of core `u`, which stands as `c`, has an access in flight to a range of a space that reads it, or that writes it
(R250). -/
def flightIn (f : Count) (s : State) (u : Nat) (c : Core) (p : Path) (sp : Space) (a n : Nat) : Bool × Bool :=
  match p with
  | .cp =>
    let es := (c.chans.map (fun x => x.2.q)).flatten
    (es.any (fun e => f.rd e.born && entryReads u e sp a n), es.any (fun e => f.wr e.born && entryWrites u e sp a n))
  | .mx =>
    let hit (x : Call × List MxAcc) (w : Bool) : Bool := x.2.any (fun m => m.2.2 == w && overlaps m.1 m.2.1 a n)
    (sp == .sp u
      && (c.pme.msqls.any (fun m => f.rd m.issued && overlaps (m.addr + 64 * m.read) (64 * (m.count - m.read)) a n)
        || (queuedAccs f.routines c.pme).any (fun x => f.rd x.1.issued && hit x false)),
     sp == .sp u && (queuedAccs f.routines c.pme).any (fun x => f.wr x.1.issued && hit x true))
  | .ga =>
    (c.gather.q.any (fun o => f.rd o.born && (gopTouches s u c o sp a n).1),
     c.gather.q.any (fun o => f.wr o.born && (gopTouches s u c o sp a n).2))
  | .co =>
    let ops := c.colls.filter (fun o => f.past || !o.done)
    let ns := copyNodesOf s u
    (sp == .sp u && ops.any (fun o => f.rd o.born && overlaps o.src (4 * o.cnt) a n)
       || ns.any (fun x => f.rd x.placedAt && (copyTouches s u x sp a n).1),
     sp == .sp u && (ops.any (fun o => f.wr o.born && overlaps o.dst (4 * o.cnt) a n)
         || c.snaps.any (fun o => f.wr o.born && overlaps o.addr 1024 a n))
       || ns.any (fun x => f.wr x.placedAt && (copyTouches s u x sp a n).2))
  | _ => (false, false)

/-- Whether a path of core `u` has an access in flight to a range (R258, R259). -/
def inFlight (s : State) (u : Nat) (p : Path) (sp : Space) (a n : Nat) : Bool × Bool := flightIn {} s u (coreAt s u) p sp a n

/-- Whether one of some paths of a core has an access in flight to a range that conflicts with an access `k` to it. -/
def clash (f : Count) (s : State) (u : Nat) (c : Core) (ps : List Path) (k : Acc) (sp : Space) (a n : Nat) : Bool :=
  ps.any fun q =>
    let (r, w) := flightIn f s u c q sp a n
    w || (k.writes && r)

/-- Whether an operation issued in the bundle that core `c` is issuing: its reads see the slot stores of that bundle, which so
come before them (R159, R223, R295, R315). -/
def ofThisBundle (c : Core) (born : Nat) : Bool :=
  match c.bun.paid with
  | some t => decide (t ≤ born)
  | none => false

/-- Whether another path of a core has a conflicting access in flight that no rule orders after this one (R250); a slot's access
meets a routine by `routineClash`. -/
def conflicts (s : State) (u : Nat) (p : Path) (k : Acc) (sp : Space) (a n : Nat) : Bool :=
  clash { past := true, routines := p != .sl, rd := fun t => !(p == .sl && ofThisBundle (coreAt s u) t) } s u (coreAt s u)
    ([Path.cp, .mx, .ga, .co].filter (· != p)) k sp a n

/-- The accesses of core `u` that took effect while a conflicting one of another path was in flight, as far as that other is
in flight still (R250). -/
def liveTakes (s : State) (u : Nat) : List Take :=
  (coreAt s u).takes.filter (fun t => conflicts s u t.path (if t.wr then .write else .read) t.sp t.addr t.len)

/-- A new operation of the acting core's engines meets only the accesses that still count (R250). -/
def refreshTakes (s : State) : State := updCore (fun c => { c with takes := liveTakes s s.cur }) s

/-- Whether an access that took effect conflicts with another. -/
def takeHits (t : Take) (k : Acc) (sp : Space) (a n : Nat) : Bool :=
  t.sp == sp && overlaps t.addr t.len a n && (t.wr || k.writes)

/-- Whether an access of a path that was in flight comes second to a conflicting one of another path of its core (R250). -/
def comesSecond (s : State) (u : Nat) (p : Path) (k : Acc) (sp : Space) (a n : Nat) : Bool :=
  (coreAt s u).takes.any (fun t => t.path != p && takeHits t k sp a n)

/-- An access of an engine takes effect: it is noted while a conflicting one of another path is in flight (R250). -/
def noteTake (u : Nat) (p : Path) (k : Acc) (sp : Space) (a n : Nat) (s : State) : State :=
  if conflicts s u p k sp a n then
    updCoreAt u (fun c => { c with takes := liveTakes s u ++ [⟨p, k.writes, sp, a, n, 0⟩] }) s
  else s

/-! ### A routine against the slots after its call (R159) -/

/-- The number of the last routine call of an earlier bundle that has not ended: slot accesses after it are unordered against its
routine. -/
def callBefore (c : Core) : Option Nat :=
  ((c.pme.calls.filter (fun k => k.isRoutine && !ofThisBundle c k.issued)).getLast?).map (·.seq)

/-- The call whose routine runs. -/
def runningCall (c : Core) : Option Call := if c.pme.run.isSome then c.pme.calls.head? else none

/-- Whether an access that took effect is one that a call's end has not settled yet. -/
def takeOpen (c : Core) (t : Take) : Bool :=
  match t.path with
  | .sl => c.pme.calls.any (fun k => k.isRoutine && decide (k.seq ≤ t.seq))
  | _ => (runningCall c).any (fun k => k.seq == t.seq)

/-- Whether a slot access and an access of the running routine, made for a call of an earlier bundle, conflict (R159): the one
that takes effect second raises RACE. -/
def routineClash (c : Core) (p : Path) (k : Acc) (sp : Space) (a n : Nat) : Bool :=
  match p with
  | .sl => (runningCall c).any (fun x => !ofThisBundle c x.issued
      && c.rtakes.any (fun t => t.path == .mx && t.seq == x.seq && takeHits t k sp a n))
  | .mx => (runningCall c).any (fun x =>
      c.rtakes.any (fun t => t.path == .sl && decide (x.seq ≤ t.seq) && takeHits t k sp a n))
  | _ => false

/-- The number under which an access of a path is noted for R159: none where no routine is concerned. -/
def routineMark (c : Core) (p : Path) : Option Nat :=
  match p with
  | .sl => callBefore c
  | .mx => (runningCall c).map (·.seq)
  | _ => none

/-- Whether a range of core `u`'s scratchpad meets the destination of a COLL of the phase: until the release that ends it, nothing
orders another access to it, a later collective's included (R295, log 104). -/
def collDst (s : State) (u : Nat) (sp : Space) (a n : Nat) : Bool :=
  sp == .sp u && (coreAt s u).colls.any (fun o => overlaps o.dst (4 * o.cnt) a n)

/-- Whether an access that is checked conflicts with one of another path of its core: with one in flight where it is checked
at issue, with one that took effect before it where it was in flight itself (R250). -/
def pathClash (moving : Bool) (s : State) (u : Nat) (p : Path) (k : Acc) (sp : Space) (a n : Nat) : Bool :=
  (if moving then comesSecond s u p k sp a n else conflicts s u p k sp a n || (p == .co && collDst s u sp a n))
    || routineClash (coreAt s u) p k sp a n

/-- Every core with its number, and the saved cores of images, whose channels keep their entries (R264). -/
def coresAndImages (s : State) : List (Nat × Core) := s.cores ++ s.images.map (fun m => (m.core, m.saved))

/-- Whether an engine of a core may have an access queued at its banks (R62). -/
def engineBusy (c : Core) : Bool :=
  c.chans.any (fun x => !x.2.q.isEmpty) || c.pme.run.isSome || c.pme.mupl.isSome || !c.pme.msqls.isEmpty
    || !c.gather.q.isEmpty || c.colls.any (fun o => !o.done) || !c.snaps.isEmpty || c.land.any (fun e => e.data.isNone)

/-- Whether a copy node runs with a side in the scratchpad of a core. -/
def nodeIn (s : State) (g : Nat) (x : Nat × Node) : Bool :=
  x.2.kind == .copy && x.2.st == .running
    && (let sd := nodeSides (ctxAt s x.2.owner) x.2
        sideSpace x.2.home sd.1 == .sp g || sideSpace x.2.home sd.2.1 == .sp g)

/-- Whether a channel of core `h` holds an entry with a side in the scratchpad of core `g`. -/
def chanIn (g h : Nat) (c : Core) : Bool :=
  c.chans.any (fun x => x.2.q.any (fun e => sideSpace h e.src == .sp g || sideSpace h e.dst == .sp g))

/-- Whether some engine may have an access queued at the scratchpad banks of a core (R62): one of its own, a channel of another core
or of a saved one, or a copy node. -/
def banksWanted (s : State) (g : Nat) : Bool :=
  engineBusy (coreAt s g) || (coresAndImages s).any (fun x => chanIn g x.1 x.2) || s.nodes.any (nodeIn s g)

/-- Whether another member of the group that held a region before a phase change of it has a conflicting engine access of that
phase still in flight (R260). -/
def memberClash (s : State) (r : Region) (u : Nat) (k : Acc) (sp : Space) (a n : Nat) : Bool :=
  r.was.any fun w => w.2.1.mode != 0 && w.2.1.hk == 1
    && (coresAndImages s).any fun x =>
      memberNo x.1 x.2 != memberNo u (coreAt s u)
        && (Map.get s.groups w.2.1.holder.toNat {}).members.contains (memberNo x.1 x.2)
        && clash { rd := fun t => decide (t < w.1), wr := fun t => decide (t < w.1) } s x.1 x.2 [Path.cp, .mx, .ga, .co] k sp a n

/-- Whether a guarded entry of some core holds a byte as EXCLUSIVE-WRITE for its own copies (R249), and that core. -/
def guardHolder (s : State) (sp : Space) (a n : Nat) : Option Nat :=
  (List.find? (fun x : Nat × Core => x.2.chans.any (fun ch => ch.2.q.any (fun e =>
    e.guarded && sideSpace x.1 e.dst == sp
      && guardHits e (if e.dst.glob then a - e.dst.physBase else a) n))) (coresAndImages s)).map (·.1)

/-- Whether the phase word `w` of a region refuses an access of class `p` for core `u` to a granule (R250, R251). -/
def phaseRaces (s : State) (r : Region) (gran : Nat) (k : Acc) (p : Path) (u : Nat) (peer : Option (BitVec 8)) : Bool :=
  let w := r.phase
  let classOut := !w.pmask.getLsbD p.code
  match w.mode.toNat with
  | 0 => false
  | 1 => k.writes || classOut || (w.hk == 1 && !isMember s w.holder u)
  | _ =>
    classOut
      || (w.hk == 0 && (peer.isSome || u != (fld w.holder 0 8).toNat))
      || (w.hk == 2 && peer != some (fld w.holder 0 8))
      || (w.hk == 1 && (!isMember s w.holder u || tagRaces (tagOf r gran) k u))

/-- Whether check_race refuses an access to the part of one granule that lies in a range (R250). A slot access is not
checked against a guarding channel, on which it freezes instead. -/
def granRaces (moving : Bool) (s : State) (rs : Map Region) (sp : Space) (k : Acc) (p : Path) (u : Nat)
    (peer : Option (BitVec 8)) (lo hi gran : Nat) : Bool :=
  if k == .write && watched s sp gran then true
  else match (if p == .sl then none else guardHolder s sp lo (hi - lo)) with
    | some g => !(p == .cp && g == u) || pathClash moving s u p k sp lo (hi - lo)
    | none =>
      match governing rs sp lo with
      | none => false
      | some (_, r) =>
        phaseRaces s r gran k p u peer
          || (r.phase.mode != 0 && peer.isNone
              && (pathClash moving s u p k sp lo (hi - lo) || memberClash s r u k sp lo (hi - lo)))

/-- A granule's tag recorded for an access under the phase word `w` of a region (R251, R260): in the region's tags, or among those of
the phase that it has left since. -/
def tagRegion (w : Phase) (k : Acc) (u gran : Nat) (r : Region) : Region :=
  let put (x : Region) : Map GTag := Map.put x.tags gran (tagAfter (tagOf x gran) k u)
  if r.phase.epoch = w.epoch then { r with tags := put r }
  else { r with was := r.was.map (fun o => if o.2.1.epoch = w.epoch then (o.1, o.2.1, put { r with phase := o.2.1, tags := o.2.2 }) else o) }

/-- The region tables after the tags of an access that passed are recorded (R251): under the epoch that it was checked under, even
where the region has since gone on to the next (R260). -/
def recordTags (s : State) (rs : Map Region) (sp : Space) (k : Acc) (u a n : Nat) : State :=
  (granulesOf a n).foldl (fun s gran =>
    match governing rs sp (max a (64 * gran)) with
    | none => s
    | some (key, r) =>
      if r.phase.mode == 2 && r.phase.hk == 1 then
        match Map.find? s.regions key with
        | none => s
        | some r' => { s with regions := Map.put s.regions key (tagRegion r.phase k u gran r') }
      else s) s

/-- The lowest byte of the part of a granule within a range at which check_race fails. -/
def granRaceAt (moving : Bool) (s : State) (rs : Map Region) (sp : Space) (k : Acc) (p : Path) (u : Nat)
    (peer : Option (BitVec 8)) (a n gran : Nat) : Option Nat :=
  let lo := max a (64 * gran)
  let hi := min (a + n) (64 * gran + 64)
  if granRaces moving s rs sp k p u peer lo hi gran then
    (((List.range (hi - lo)).map (· + lo)).find? (fun b => granRaces moving s rs sp k p u peer b (b + 1) gran)).or (some lo)
  else none

/-- The lowest failing address of check_race on a range (R250, R252). -/
def raceAt (moving : Bool) (rs : Map Region) (sp : Space) (k : Acc) (p : Path) (u a n : Nat) (s : State) : Option Nat :=
  (granulesOf a n).findSome? (granRaceAt moving s rs sp k p u none a n)

/-- Whether some granule of a range is not OPEN. -/
def notOpen (rs : Map Region) (sp : Space) (a n : Nat) : Bool :=
  (partStarts a n).any (fun b => match governing rs sp b with | some (_, r) => r.phase.mode != 0 | none => false)

/-- An access is noted for R159, where its range is not OPEN and a routine is concerned. -/
def noteRoutine (rs : Map Region) (sp : Space) (k : Acc) (p : Path) (u a n : Nat) (s : State) : State :=
  match routineMark (coreAt s u) p with
  | none => s
  | some q =>
    if notOpen rs sp a n then
      updCoreAt u (fun c => { c with rtakes := c.rtakes.filter (takeOpen c) ++ [⟨p, k.writes, sp, a, n, q⟩] }) s
    else s

/-- check_race (R250) of core `u` on a range at issue: RACE at the lowest failing address, else the state with granule tags
recorded, and the access noted against a running routine. -/
def checkRace (rs : Map Region) (sp : Space) (k : Acc) (p : Path) (u a n : Nat) (s : State) : Except Exc State :=
  match raceAt false rs sp k p u a n s with
  | some b => .error (exc 0x25 (word b))
  | none => .ok (noteRoutine rs sp k p u a n (recordTags s rs sp k u a n))

/-- A region as it stood for an operation issued at a reference cycle: before every phase change of its group since (R260). -/
def regionSince (born : Nat) (r : Region) : Region :=
  match (r.was.filter (fun w => decide (born < w.1))).getLast? with
  | none => r
  | some w => { r with phase := w.2.1, tags := w.2.2, was := r.was.filter (fun o => decide (o.1 ≤ born)) }

/-- The region tables as an operation issued at a reference cycle is checked against (R260): under the old epoch where a barrier
has been released since. -/
def regionsSince (born : Nat) (s : State) : Map Region := s.regions.map (fun x => (x.1, regionSince born x.2))

/-- check_race (R250) of an access of an engine, which was in flight since the reference cycle `born`, as it takes effect. -/
def checkMoving (born : Nat) (sp : Space) (k : Acc) (p : Path) (u a n : Nat) (s : State) : Except Exc State :=
  let rs := regionsSince born s
  match raceAt true rs sp k p u a n s with
  | some b => .error (exc 0x25 (word b))
  | none => .ok (noteRoutine rs sp k p u a n (noteTake u p k sp a n (recordTags s rs sp k u a n)))

/-- The lowest poisoned granule of the acting core's scratchpad that a range touches: POISON (R63). -/
def checkPoison (c : Core) (a n : Nat) : Except Exc Unit :=
  match (granulesOf a n).find? (fun g => (Map.find? (viewPoison c) g).isSome) with
  | some g => .error (exc 0x11 (word (2 ^ 63 + 64 * g)))
  | none => .ok ()

/-- The checks of a local access in their order (R75, R127): NO_RIGHT beyond the scratchpad, ALIGN, check_region,
check_race. A control core's bytes are Holly's, and no region governs them (R19, R42, log 92). -/
def checkLocal (p : Path) (k : Acc) (a n align : Nat) (s : State) : Except Exc State :=
  if a + n > spSize then .error (exc 0x21 (word a))
  else if a % align ≠ 0 then .error (exc 0x06 (word a))
  else if isCtrl s.cur then .ok s
  else do
    checkRegion (viewRegions s) (core s).ctx (.sp s.cur) k a n
    checkRace (viewRegions s) (.sp s.cur) k p s.cur a n s

/-! ### Issue of one slot (R46, R69, R186) -/

/-- An S, M, C0 or C1 instruction issues: with a false predicate only its last-use marks take effect; a fault leaves
the slot without effect and traps the core; otherwise the body's effect and then the marks stand (R24, R46, R69). -/
def issue (sl : Slot) (p : Pred) (marks : List Reg) (body : State → Except Exc State) (s : State) : State :=
  if predOn (core s) sl p then
    match body s with
    | .ok t => updCore (killMarks sl marks) t
    | .error e => slotFault sl e s
  else updCore (killMarks sl marks) s

/-- A vector instruction issues: its sources are read and checked whatever the mask (R46). -/
def issueV (u : VU) (marks : List Reg) (body : State → Except Exc State) (s : State) : State :=
  match body s with
  | .ok t => updCore (killMarks u.slot marks) t
  | .error e => slotFault u.slot e s

/-- The core freezes under a cause (R52, R53): STAT.FCAUSE shows it. -/
def freeze (cause : Nat) (s : State) : State :=
  updCore (fun c => { c with st := .frozen, csr := { c.csr with fcause := BitVec.ofNat 4 cause } }) s

/-! ### The end of a bundle and the program counter (R30, R82, R84) -/

/-- The address of the bundle after one. -/
def following (pc : BitVec 18) (len : Nat) : BitVec 18 := pc + BitVec.ofNat 18 (4 * len)

/-- The end test of R84 rule 2: entries whose end is the issued bundle's address count down; a spent one is popped and
the test repeats. The answer is the new stack and the start to go to, if any. -/
def loopTest (pc : BitVec 18) : List LoopEnt → List LoopEnt × Option (BitVec 18)
  | [] => ([], none)
  | e :: es =>
    if e.fin ≠ pc then (e :: es, none)
    else if 1 < e.rem.toNat then ({ e with rem := e.rem - 1 } :: es, some e.start)
    else loopTest pc es

/-- The sequencer moves past the bundle at PC (R82, R84): the second delay bundle goes to its target; a bundle at a
loop's end goes round or on; a taken branch makes the next two bundles its delay bundles. -/
def advance (c : Core) : Core :=
  let next := following c.pc c.bun.len
  match c.br with
  | some b =>
    if b.dpos = 2 then { c with pc := b.tgt, br := none }
    else { c with pc := next, br := some { b with dpos := b.dpos + 1 } }
  | none =>
    match c.bun.taken with
    | some t => { c with pc := next, br := some ⟨t, 1⟩ }
    | none =>
      match c.bun.jump with
      | some t => { c with pc := t }
      | none =>
        match loopTest c.pc c.loops with
        | (ls, some t) => { c with loops := ls, pc := t }
        | (ls, none) => { c with loops := ls, pc := next }

/-- A declared energy is charged to this reference cycle (R345). -/
def charge (ew : BitVec 5) (s : State) : State :=
  updCore (fun c => { c with
    window := c.window.filter (fun x => s.now ≤ x.1 + 255) ++ (if ew = 0 then [] else [(s.now, ew.toNat)]) }) s

/-- The energy of a bundle `b` is charged as its first slot issues, and once (R186, R345). -/
def chargeOnce (b : Bundle) (s : State) : State :=
  if b.paid.isSome then s
  else updCore (fun c => { c with bun := { c.bun with paid := if c.bun.slots.isEmpty then none else some s.now } }) (charge b.ew s)

/-- LDEPTH after a write (R87): entries are popped down to a lower depth. -/
def setDepth (c : Core) (v : Word) : Core :=
  let d := (fld v 0 3).toNat
  if d < c.loops.length then { c with loops := c.loops.drop (c.loops.length - d) } else c

/-- LCNT after a write (R87): the top entry's remaining count. -/
def setCount (c : Core) (v : Word) : Core :=
  match c.loops with
  | [] => c
  | e :: es => { c with loops := { e with rem := fld v 0 32 } :: es }

/-- The CSR write of a bundle that has issued takes its place: it governs the bundles from the next issue cycle on (R85). An
LCNT write names the entry on top as it issued; one that the bundle's own end test has popped is gone (log 83). -/
def lateCsr (depth : Nat) (w : Option (Nat × Word)) (c : Core) : Core :=
  match w with
  | none => c
  | some (n, v) =>
    if n = 0x003 then { c with csr := { c.csr with ovpOff := fld v 16 48 &&& 0xFFFFFFFFFFC0 } }
    else if n = 0x018 then setDepth c v
    else if c.loops.length = depth then setCount c v else c

/-- A bundle has issued (R22, R49): the issue count advances by one, and the sequencer moves on. A bundle that holds a taken
CTXSW begins the save (R270); one that holds END stays (R288). -/
def endBundle (s : State) : State :=
  let c := core s
  let c1 := { c with csr := { c.csr with cyc := c.csr.cyc + 1 }, issues := (s.now :: c.issues).take 5 }
  let c2 := lateCsr c.loops.length c.bun.late (if c1.inEnd then c1 else advance c1)
  setCore s { c2 with bun := {}, resume := none, save := if c.bun.yields then some .yield else c2.save }

/-! ### Return from a fault (R196) -/

/-- The status of an RFT (R196): 0 resumed, 1 no such trapped core, 2 the length is unknown, 3 fatal. -/
def rftStatus (s : State) (k : Word) (skip : Bool) : Nat :=
  if 8 ≤ k.toNat then 1
  else
    let c := coreAt s (8 * clusterNo s.cur + k.toNat)
    match c.st, c.trap with
    | .trapped, some t => if t.cls = 2 then 3 else if skip && t.exc.fslot = 7 then 2 else 0
    | _, _ => 1

/-- The sequencer past a bundle that is skipped whole (R196): it takes its place in the sequence, as a delay bundle where it is
one, and its address is tested against the loop stack's end as if it had issued. A first delay bundle at a loop's end so goes to the
loop's start by rule 2 of R84, with its branch still pending; a second one goes to the target by rule 1 (log 84). -/
def skipBundle (c : Core) : Core :=
  match c.br with
  | none => advance c
  | some _ =>
    let (ls, nx) := loopTest c.pc c.loops
    let c1 := advance { c with loops := ls }
    match c1.br, nx with
    | some _, some t => { c1 with pc := t }
    | _, _ => c1

/-- Whether a trap struck before any slot of its bundle had issued (R186). -/
def nothingIssued (t : Trap) (c : Core) : Bool := c.bun.slots.all (fun x => decide (t.sres ≤ x.1.num))

/-- The core after RFT resumes it (R196): the present slots from `resume` onward issue without a new decode, and the bundle is a
whole one again where none of its slots has issued; a fault at decode retried decodes the bundle again (R43); one skipped whole
takes its place in the sequence and uses no issue cycle; a core in its END wait resumes the wait (R288). A matrix call held
behind the engine's fault that was delivered starts, unless another pends (R157, R158), an allowance that is still negative is met again (R240), a BALR that
was skipped has not arrived (R299), and a gather operation whose fault was delivered resumes at its element (R313). -/
def rftResume (skip : Bool) (t : Trap) (c : Core) : Core :=
  let q := c.gather
  let c1 := { c with st := .running, trap := none, alwAgain := true, waitOn := if skip && !t.async then none else c.waitOn
                     pme := { c.pme with held := c.pme.held && !(t.exc.defer && t.exc.fslot == 3 && c.pme.fault.isNone), parked := false }
                     gather := if q.told then { q with fault := none, told := false } else q }
  if t.inEnd then { c1 with resume := none }
  else if !skip || t.async then
    if t.async || t.atDecode then { c1 with bun := {}, resume := none }
    else { c1 with resume := if nothingIssued t c then none else some t.sres }
  else if t.sres = 0 && t.atDecode then { skipBundle c1 with bun := {}, resume := none }
  else { c1 with resume := some (t.sres + 1) }

/-- RFT on core `g` (R196). The trapped core issues again in the next reference cycle. -/
def rftAct (g : Nat) (skip : Bool) (s : State) : State :=
  match (coreAt s g).trap with
  | none => s
  | some t => updCoreAt g (rftResume skip t) s

end Sys2Proof.Machine
end

