-- ==== Sys2Proof/Machine/Rent.lean ====
section
/-! DEFINITION. The life of regions and sublets (R226 to R236, R263): liens, sync-bearing state, the changes of state with
their actions, scratchpad banks under regions (R63), barriers that break with their backing region (R296, R300). -/

namespace Sys2Proof.Machine

open Sys2Proof

/-! ### Allowances (R226) -/

/-- A signed 64-bit count of grains; one that would pass its range stays at the range's end, as GRANT's does (R226, R271, log 89). -/
def satAlw (x : Int) : Int := clampInt x (-2 ^ 63) (2 ^ 63 - 1)

/-- The allowance of a context changed by a number of grains. -/
def addAlw (id : BitVec 12) (g : Int) (s : State) : State :=
  if (ctxAt s id).st = .free then s else setCtx s id { ctxAt s id with alw := satAlw ((ctxAt s id).alw + g) }

/-- The allowance of a context as checks see it: a grant governs those of later reference cycles (R271, R272). -/
def alwSeen (s : State) (id : BitVec 12) : Int :=
  let x := ctxAt s id
  match x.granted with
  | some (t, g) => if t = s.now then x.alw - g else x.alw
  | none => x.alw

/-- One tick's rent of a region (R227). -/
def tickRent (r : Region) : Nat := r.size * r.kind.rate

/-! ### Liens and waiters (R218, R234, R235) -/

/-- The handles on which the entries of every channel hold liens, with repetitions. -/
def allLiens (s : State) : List (BitVec 32) :=
  ((coresAndImages s).map (fun x => (x.2.chans.map (fun ch => (ch.2.q.map (fun e => e.liens)).flatten)).flatten)).flatten

/-- The sublets of a region, with their keys. -/
def subletsOf (s : State) (h : BitVec 32) : List (Nat × Region) :=
  s.regions.filter (fun x => x.2.st != .free && (match x.2.subl with | some b => b.parent == h | none => false))

/-- The liens held on a region: its own, and for a parent those of its sublets (R235). -/
def lienCount (s : State) (key : Nat) (r : Region) : Nat :=
  let h := handleOf key r
  let hs := h :: (if r.subl.isSome then [] else (subletsOf s h).map (fun x => handleOf x.1 x.2))
  ((allLiens s).filter (fun x => hs.contains x)).length

/-- The releases of a barrier that a core has seen: all of them on the home die (R297). -/
def releasesSeen (b : Barrier) (m : Nat) : Nat := if dieNo (memberAt m) = b.die then b.phase else Map.get b.seen m 0

/-- Whether the phase of a core's last arrival has been released, as the core sees it (R297, R299). -/
def released (b : Barrier) (m : Nat) : Bool :=
  match Map.find? b.arrivedAt m with
  | none => false
  | some a => decide (a < releasesSeen b m)

/-- Whether a core waits on a barrier (R234, R299): one that has been released leaves as its bundle issues, in the cycle of the
release, and so waits to the end of that cycle. -/
def barrierWaited (s : State) (b : Barrier) : Bool :=
  b.st != .broken && (coresAndImages s).any (fun x => x.2.waitOn == some (b.g, b.b)
    && (!released b (memberNo x.1 x.2) || b.relAt == some s.now))

/-- Whether a region is sync-bearing (R234): it backs a barrier with a waiting member, stores a queue with a registered
waiter, or holds a watched word. One that has left HELD and is not OVERDUE gains no waiter. -/
def syncBearing (s : State) (key : Nat) (r : Region) : Bool :=
  let h := handleOf key r
  (r.st == .held || r.st == .overdue) && (s.barriers.any (fun b => b.backing == h && barrierWaited s b)
    || s.queues.any (fun q => q.2.region == h && q.2.waiter.isSome)
    || (r.kind == .sp && s.nodes.any (fun n =>
          n.2.kind == .event && n.2.st == .waiting && n.2.home == key / 1024 && bit ((n.2.desc[0]?).getD 0) 0
            && (let a := ((n.2.desc[1]?).getD 0).toNat; decide (r.base ≤ a ∧ a < r.base + r.size)))))

/-! ### Barriers that break (R291, R296, R300) -/

/-- The collective fault that a member takes when its group breaks (R291, R295). -/
def brokenFault (b : BitVec 12) (sl : Slot) : Exc :=
  { code := 0x28, info := b.setWidth 64, fslot := sl.num, defer := true }

/-- The pending COLL sets of a broken group end on a core: its operations fault BARRIER_BROKEN (R291, R295). -/
def breakColls (g : BitVec 16) (b : BitVec 12) (c : Core) : Core :=
  let mine := c.colls.filter (fun o => o.g == g && !o.done)
  { c with
    colls := c.colls.filter (fun o => o.g != g)
    collFaults := c.collFaults ++ mine.map (fun o => ⟨g, o.seq, brokenFault b o.slot⟩) }

/-- A barrier goes BROKEN, and with it its group (R291, R296). -/
def breakBarrier (g : BitVec 16) (b : BitVec 12) (s : State) : State :=
  let gr := Map.get s.groups g.toNat {}
  { s with
    barriers := s.barriers.map (fun x => if x.g == g && x.b == b then { x with st := .broken } else x)
    groups := if gr.st == .free then s.groups
      else Map.put s.groups g.toNat { gr with st := .broken, brokenBy := b, joined := [] }
    cores := s.cores.map (fun x => if gr.members.contains (memberNo x.1 x.2) then (x.1, breakColls g b x.2) else x)
    images := s.images.map (fun m => if gr.members.contains (memberNo m.core m.saved) then { m with saved := breakColls g b m.saved } else m) }

/-- Every barrier with a backing region breaks (R296). -/
def breakBacked (h : BitVec 32) (s : State) : State :=
  (s.barriers.filter (fun b => b.backing == h && b.st != .broken)).foldl (fun s b => breakBarrier b.g b.b s) s

/-! ### Scratchpad banks under regions (R61, R63) -/

/-- The bank of a scratchpad address (R61). -/
def spBankOf (a : Nat) : Nat := a / 32 % 384

/-- The row of a scratchpad address (R61). -/
def spRowOf (a : Nat) : Nat := a / 32 / 384

/-- Whether a byte range has a row in a bank (R63). -/
def rangeInBank (a n b : Nat) : Bool :=
  decide (0 < n) && decide ((b + 384 - a / 32 % 384) % 384 ≤ (a + n - 1) / 32 - a / 32)

/-- The banks that a byte range spans, ascending. -/
def banksSpanned (a n : Nat) : List Nat := (List.range 384).filter (rangeInBank a n)

/-- A scratchpad bank. -/
def getSpBank (c : Core) (b : Nat) : Bank := Map.get c.sp.banks b {}

/-- The core with a scratchpad bank replaced. -/
def setSpBank (b : Nat) (k : Bank) (c : Core) : Core := { c with sp := { c.sp with banks := Map.put c.sp.banks b k } }

/-- Whether a region that is held overlaps a scratchpad bank of a core (R63). -/
def bankHeld (s : State) (g b : Nat) : Bool :=
  s.regions.any (fun x => x.2.kind == .sp && x.2.subl.isNone && x.1 / 1024 == g && x.2.st != .free && x.2.st != .scrubbed
    && rangeInBank x.2.base x.2.size b)

/-- A scratchpad bank that is RET or OFF starts its wake of 16 reference cycles (R63). -/
def startSpWake (now : Nat) (acc : Option Slot) (b : Nat) (c : Core) : Core :=
  match (getSpBank c b).st with
  | .ret => setSpBank b { st := .waking, wakeEnd := now + 16, fromRet := true, byAcc := acc } c
  | .off => setSpBank b { st := .waking, wakeEnd := now + 16, byAcc := acc } c
  | .waking => c
  | .full => c

/-- The banks of a new SP region that were OFF become FULL in the same step (R63). -/
def banksOn (g a n : Nat) (s : State) : State :=
  updCoreAt g (fun c => (banksSpanned a n).foldl (fun c b =>
    if (getSpBank c b).st = .off then setSpBank b { st := .full } c else c) c) s

/-- The banks of a range that no held region overlaps any longer go OFF (R63, R234). -/
def banksOff (g a n : Nat) (s : State) : State :=
  let gone := (banksSpanned a n).filter (fun b => !bankHeld s g b)
  updCoreAt g (fun c => { c with sp := { c.sp with banks := gone.foldl (fun m b => Map.del m b) c.sp.banks } }) s

/-- The words of an instruction store lose their valid and begin bits, and residency entries over them are dropped (R29,
R284). -/
def clearWords (a n : Nat) (c : Core) : Core :=
  { c with
    istore := c.istore.filter (fun x => 4 * x.1 < a || a + n ≤ 4 * x.1)
    resid := c.resid.filter (fun r => !overlaps a n r.ibase.toNat (4 * r.nw)) }

/-- Bytes of a region read as zero (R234, R237). -/
def zeroRegion (key : Nat) (r : Region) (s : State) : State :=
  match r.kind with
  | .sp => updCoreAt (key / 1024) (fun c => { c with sp := { c.sp with
      mem := Memory.zero c.sp.mem r.base r.size
      poison := c.sp.poison.filter (fun x => 64 * x.1 < r.base || r.base + r.size ≤ 64 * x.1) } }) s
  | .is => updCoreAt (key / 1024) (clearWords r.base r.size) s
  | .hbm => { s with dram := { s.dram with
      hbm := Memory.zero s.dram.hbm r.base r.size
      hbmPoison := s.dram.hbmPoison.filter (fun x => 64 * x.1 < r.base || r.base + r.size ≤ 64 * x.1)
      hbmKeys := s.dram.hbmKeys.filter (fun x => 64 * x.1 < r.base || r.base + r.size ≤ 64 * x.1) } }
  | .cap => { s with dram := { s.dram with
      cap := Memory.zero s.dram.cap r.base r.size
      capPoison := s.dram.capPoison.filter (fun x => 64 * x.1 < r.base || r.base + r.size ≤ 64 * x.1)
      capKeys := s.dram.capKeys.filter (fun x => 64 * x.1 < r.base || r.base + r.size ≤ 64 * x.1) } }

/-! ### Changes of state (R234, R235) -/

/-- A table entry replaced. -/
def setRegion (key : Nat) (r : Region) (s : State) : State := { s with regions := Map.put s.regions key r }

/-- A table entry becomes FREE: its generation advances (R230). -/
def freeEntry (r : Region) : Region := { gen := r.gen + 1 }

/-- The debt of a region for the current tick, where it has spent part of it LIENED or OVERDUE (R232). DESIGN CHOICE (log 116): a tick that
it has spent partly in each is charged once, at the rate of OVERDUE. -/
def tickDebt (r : Region) : Nat := if r.lien || r.wasOver then tickRent r * (if r.wasOver then 2 else 1) else 0

/-- An owner's entry becomes FREE; the debt of the tick stays with its owner (R232, R234). -/
def freeRegion (key : Nat) (r : Region) (s : State) : State :=
  let s1 := setRegion key (freeEntry r) s
  if r.subl.isSome || tickDebt r == 0 then s1
  else setCtx s1 r.owner { ctxAt s1 r.owner with debt := (ctxAt s1 r.owner).debt + tickDebt r }

/-- A region's phase changes owner of bytes: its EPOCH advances (R249). -/
def bumpEpoch (r : Region) : Region := { r with phase := { r.phase with epoch := r.phase.epoch + 1 } }

/-- A sublet becomes FREE, and its bytes return to the parent's word, whose EPOCH advances (R235, R249). -/
def freeSublet (key : Nat) (s : State) : State :=
  match Map.find? s.regions key with
  | none => s
  | some r =>
    match r.subl with
    | none => s
    | some b =>
      let s1 := setRegion key (freeEntry r) s
      match regionOf s1.regions b.parent with
      | none => s1
      | some (k, p) => setRegion k (bumpEpoch p) s1

/-- Every sublet of a region becomes FREE (R234). -/
def freeSublets (h : BitVec 32) (s : State) : State := (subletsOf s h).foldl (fun s x => freeSublet x.1 s) s

/-- A region leaves HELD: a target that waits for its phase change gives its tags back, unless the region has them in use (R259);
its word stays (R248). -/
def dropPend (r : Region) : Region := { r with tagRes := r.tagRes && r.phase.hk == 1 && r.phase.mode != 0 }

/-- A region becomes LAPSED with its grace end; its sublets are freed and its barriers break (R234, R296). -/
def lapse (key ge : Nat) (s : State) : State :=
  match Map.find? s.regions key with
  | none => s
  | some r =>
    let h := handleOf key r
    breakBacked h (freeSublets h (setRegion key (dropPend { r with st := .lapsed, ge := ge }) s))

/-- A region becomes SCRUBBED with a refund (R233, R234, R238): sublets are freed, barriers break, pages go
ABSENT (R308), and zero-fill starts. For SP and IS it completes at once: the entry is FREE and banks that nothing holds go OFF. -/
def scrub (key : Nat) (refund : Nat) (s : State) : State :=
  match Map.find? s.regions key with
  | none => s
  | some r =>
    let h := handleOf key r
    let s1 := breakBacked h (freeSublets h (addAlw r.owner refund s))
    let r1 : Region := { dropPend r with st := .scrubbed, res := 0, phase := {}, tags := [], tagRes := false, ge := 0 }
    match r.kind with
    | .sp => banksOff (key / 1024) r.base r.size (freeRegion key r (zeroRegion key r s1))
    | .is => freeRegion key r (zeroRegion key r s1)
    | .hbm => unmapRange 0 r.base r.size (setRegion key r1 s1)
    | .cap => unmapRange 1 r.base r.size (setRegion key r1 s1)

/-- The refund of VACATE: the reserve, and the whole paid ticks after the current one (R238); nothing for an overflow area, for
which nothing was paid (R64). -/
def vacateRefund (s : State) (r : Region) : Nat := if r.term = some 0 then 0 else r.res + tickRent r * (r.pu - s.tick - 1)

/-- One region after liens or waiters may have left it (R234, R235). -/
def settleOne (s : State) (key : Nat) : State :=
  match Map.find? s.regions key with
  | none => s
  | some r =>
    if r.st = .overdue ∧ !syncBearing s key r then
      if 0 < lienCount s key r then setRegion key { r with st := .liened, lien := true } s else lapse key (s.tick + 16) s
    else if r.st = .liened ∧ lienCount s key r = 0 then
      if r.subl.isSome then freeSublet key s else lapse key (s.tick + 16) s
    else s

/-- Every region after liens or waiters may have left: sublets first, then owners' regions (R234, R235). -/
def settle (s : State) : State :=
  let subs := (s.regions.filter (fun x => x.2.subl.isSome)).map (·.1)
  let own := (s.regions.filter (fun x => x.2.subl.isNone)).map (·.1)
  own.foldl settleOne (subs.foldl settleOne s)

/-- The cluster whose trap queue takes a region's events (R239). -/
def regionCluster (key : Nat) (r : Region) : Nat :=
  match r.kind with
  | .sp => clusterNo (key / 1024)
  | .is => clusterNo (key / 1024)
  | .hbm => 8 * ((key - 2 ^ 18) / 65536)
  | .cap => 8 * ((key - 2 ^ 18) / 65536)

end Sys2Proof.Machine
end

