-- ==== Sys2Proof/Machine/Nodes.lean ====
section
/-! DEFINITION. Graph nodes (R274, R275): ids, completion with its effect on successors, watched words (R254) and queues
that nodes wait on (R273). -/

namespace Sys2Proof.Machine

open Sys2Proof

/-- The id of a node (R274). -/
def nodeId (key : Nat) (n : Node) : BitVec 32 := 0#4 ++ n.gen ++ BitVec.ofNat 16 key

/-- The node that an id names (R274); a stale id names none. -/
def nodeOf (s : State) (id : BitVec 32) : Option (Nat × Node) :=
  let key := (fld id 0 16).toNat
  match Map.find? s.nodes key with
  | none => none
  | some n => if n.st != .free && nodeId key n == id then some (key, n) else none

/-- A node entry replaced. -/
def setNode (key : Nat) (n : Node) (s : State) : State := { s with nodes := Map.put s.nodes key n }

/-- A node's entry becomes FREE: its generation advances (R274). -/
def freeNode (n : Node) : Node := { gen := n.gen + 1 }

/-- Whether an event node's word has reached its target already (R275). -/
def wordReached (s : State) (n : Node) : Bool :=
  bit ((n.desc[0]?).getD 0) 0
    && decide (((n.desc[2]?).getD 0).toNat ≤ Memory.readLE (coreAt s n.home).sp.mem ((n.desc[1]?).getD 0).toNat 8)

/-- Every queue that a node waited on as the registered waiter loses it (R275). -/
def clearWaiter (id : BitVec 32) (s : State) : State :=
  { s with queues := s.queues.map (fun q => if q.2.waiter == some id then (q.1, { q.2 with waiter := none }) else q) }

/-- A node goes DONE: its entry is freed, its registration as a waiter ends, and each successor's count falls by one; an
ARMED successor whose count reaches 0 goes READY, or WAITING, or at once DONE in turn (R275). The first argument bounds
the chain of nodes that complete. -/
def doneNode : Nat → Nat → State → State
  | 0, _, s => s
  | fuel + 1, key, s =>
    match Map.find? s.nodes key with
    | none => s
    | some n =>
      if n.st = .free then s
      else
        let s1 := clearWaiter (nodeId key n) (setNode key (freeNode n) s)
        n.succ.foldl (fun s id =>
          match nodeOf s id with
          | none => s
          | some (k, m) =>
            let m1 := { m with cnt := m.cnt - 1 }
            if m.st = .armed ∧ m1.cnt = 0 then
              if m.kind = .event then
                let s2 := setNode k { m1 with st := .waiting } s
                if wordReached s m then doneNode fuel k s2 else s2
              else setNode k { m1 with st := .ready, ready := s.now, fresh := true, starved := false } s
            else setNode k m1 s) s1

/-- A node completes, and regions that it made sync-bearing are looked at again (R234, R275). -/
def complete (key : Nat) (s : State) : State := settle (doneNode (s.nodes.length + 1) key s)

/-- An atomic has written a core's scratchpad: every node that waits on a word that has reached its target goes DONE
(R254, R275). -/
def wakeWatchers (g : Nat) (s : State) : State :=
  ((s.nodes.filter (fun x => x.2.kind == .event && x.2.st == .waiting && x.2.home == g && wordReached s x.2)).map (·.1)).foldl
    (fun s k => complete k s) s

/-- A message has entered a queue: its registered waiter goes DONE, and so does every node that waits on it (R275, R279). -/
def wakeQueue (qid : Nat) (s : State) : State :=
  let w := match (Map.find? s.queues qid) with
    | some q => (match q.waiter with | some id => (match nodeOf s id with | some (k, _) => [k] | none => []) | none => [])
    | none => []
  let ws := (s.nodes.filter (fun x => x.2.kind == .event && x.2.st == .waiting && !bit ((x.2.desc[0]?).getD 0) 0
      && (fld ((x.2.desc[0]?).getD 0) 1 16).toNat == qid)).map (·.1)
  (w ++ ws).foldl (fun s k => complete k s) s

/-- A BUILT node is armed (R275): it waits for predecessors, goes READY, or as an event node WAITING or at once DONE. -/
def armNode (key : Nat) (n : Node) (s : State) : State :=
  if 0 < n.cnt then setNode key { n with st := .armed } s
  else match n.kind with
    | .event =>
      let s1 := setNode key { n with st := .waiting } s
      if wordReached s n then complete key s1 else s1
    | _ => setNode key { n with st := .ready, ready := s.now, fresh := true, starved := false } s

end Sys2Proof.Machine
end

