-- ==== Sys2Proof/Machine/Xts.lean ====
section
/-! DEFINITION. AES-256-XTS over a line of 64 bytes (R309; FIPS 197, IEEE 1619). The standards stand outside spec/ (PRESUMED, log 61). -/

namespace Sys2Proof.Machine

open Sys2Proof

/-! ### AES-256 (FIPS 197) -/

/-- A byte by x in the field of AES. -/
def aesX (a : Byte) : Byte := if bit a 7 then (a <<< 1) ^^^ 0x1B else a <<< 1

/-- The product of two bytes in the field, over the `n` low bits of the second. -/
def aesMul (a b : Byte) : Nat → Byte
  | 0 => 0
  | n + 1 => (if bit b 0 then a else 0) ^^^ aesMul (aesX a) (b >>> 1) n

/-- A byte to a power, over the `n` low bits of the exponent. -/
def aesPow (a : Byte) (e : Nat) : Nat → Byte
  | 0 => 1
  | n + 1 =>
    let r := aesPow a (e / 2) n
    if e % 2 = 1 then aesMul (aesMul r r 8) a 8 else aesMul r r 8

/-- The S-box: the inverse in the field, and an affine map. -/
def aesSubs : List Byte :=
  (List.range 256).map (fun i =>
    let b := aesPow (BitVec.ofNat 8 i) 254 8
    b ^^^ b.rotateLeft 1 ^^^ b.rotateLeft 2 ^^^ b.rotateLeft 3 ^^^ b.rotateLeft 4 ^^^ 0x63)

/-- The inverse of the S-box. -/
def aesUnsubs : List Byte := (List.range 256).map (fun i => BitVec.ofNat 8 ((aesSubs.findIdx? (· == BitVec.ofNat 8 i)).getD 0))

/-- A byte through a box. -/
def aesBox (box : List Byte) (b : Byte) : Byte := (box[b.toNat]?).getD 0

/-- Lists of bytes, exclusive or. -/
def xorBytes (a b : List Byte) : List Byte := List.zipWith (· ^^^ ·) a b

/-- The words of a key schedule from the last eight on, `i` the number of the next. -/
def aesSchedule : (n i : Nat) → List (List Byte) → List (List Byte)
  | 0, _, _ => []
  | n + 1, i, ws =>
    let last := (ws[7]?).getD []
    let t := if i % 8 = 0 then
        let r := (last.drop 1 ++ last.take 1).map (aesBox aesSubs)
        xorBytes r [aesPow 2 (i / 8 - 1) 8, 0, 0, 0]
      else if i % 8 = 4 then last.map (aesBox aesSubs)
      else last
    (ws[0]?).getD [] :: aesSchedule n (i + 1) (ws.drop 1 ++ [xorBytes ((ws[0]?).getD []) t])

/-- The fifteen round keys of a key of 32 bytes. -/
def aesKeys (key : List Byte) : List (List Byte) :=
  let ws := aesSchedule 60 8 ((List.range 8).map (fun i => (key.drop (4 * i)).take 4))
  (List.range 15).map (fun i => ((ws.drop (4 * i)).take 4).flatten)

/-- The columns of a block mixed with the four coefficients of a row. -/
def aesMix (row : List Byte) (b : List Byte) : List Byte :=
  (List.range 16).map (fun i =>
    (List.range 4).foldl (fun a k => a ^^^ aesMul ((b[i / 4 * 4 + k]?).getD 0) ((row[(k + 4 - i % 4) % 4]?).getD 0) 8) 0)

/-- The rows of a block shifted: row r by r places, or by 4 − r. -/
def aesShift (back : Bool) (b : List Byte) : List Byte :=
  (List.range 16).map (fun i =>
    let r := i % 4
    (b[(i / 4 + (if back then 4 - r else r)) % 4 * 4 + r]?).getD 0)

/-- A block encrypted under round keys. -/
def aesEncrypt (ks : List (List Byte)) (b : List Byte) : List Byte :=
  let sub (b : List Byte) := aesShift false (b.map (aesBox aesSubs))
  let b1 := ((ks.drop 1).take 13).foldl (fun b k => xorBytes (aesMix [2, 3, 1, 1] (sub b)) k) (xorBytes b ((ks[0]?).getD []))
  xorBytes (sub b1) ((ks[14]?).getD [])

/-- A block decrypted under round keys. -/
def aesDecrypt (ks : List (List Byte)) (b : List Byte) : List Byte :=
  let unsub (b : List Byte) := (aesShift true b).map (aesBox aesUnsubs)
  let b1 := ((ks.drop 1).take 13).reverse.foldl (fun b k => aesMix [14, 11, 13, 9] (xorBytes (unsub b) k))
    (xorBytes b ((ks[14]?).getD []))
  xorBytes (unsub b1) ((ks[0]?).getD [])

/-! ### XTS (IEEE 1619) -/

/-- A tweak by x in the field of 2^128 elements. -/
def xtsNext (t : BitVec 128) : BitVec 128 := (t <<< 1) ^^^ (if bit t 127 then 0x87 else 0)

/-- The blocks of a data unit, each with its tweak. -/
def xtsBlocks (f : List Byte → List Byte) : (n : Nat) → BitVec 128 → List Byte → List Byte
  | 0, _, _ => []
  | n + 1, t, bs =>
    let tb := leBytes 16 t.toNat
    xorBytes (f (xorBytes (bs.take 16) tb)) tb ++ xtsBlocks f n (xtsNext t) (bs.drop 16)

/-- Whether a line is to be encrypted or decrypted. -/
inductive CryptDir where
  | seal | open_
  deriving DecidableEq, Repr

/-- A line through AES-256-XTS under a context's key, whose first 32 bytes are the data key and whose last 32 the tweak key; the tweak
is the line's number, bits [55:6] of its address (R309). -/
def xtsLine (dir : CryptDir) (key : BitVec 512) (line : Nat) (bs : List Byte) : List Byte :=
  let kb := leBytes 64 key.toNat
  let k1 := aesKeys (kb.take 32)
  let t := BitVec.ofNat 128 (leNat (aesEncrypt (aesKeys (kb.drop 32)) (leBytes 16 (line % 2 ^ 50))))
  xtsBlocks (match dir with | .seal => aesEncrypt k1 | .open_ => aesDecrypt k1) 4 t bs

end Sys2Proof.Machine
end

