-- ==== Sys2Proof/Machine/Global.lean ====
section
/-! DEFINITION. What engines reach: the bytes of every space with their poison (R63, R332), the banks that an engine access
wakes (R63), page tables (R304 to R306), peer memory (R340, R341), and the mirroring of granule writes (R342). -/

namespace Sys2Proof.Machine

open Sys2Proof

/-! ### Peers (R339 to R341) -/

/-- A peer by index. -/
def peerAt (s : State) (p : Nat) : Peer := Map.get s.link.peers p {}

/-- The state with a peer replaced. -/
def setPeer (p : Nat) (x : Peer) (s : State) : State := { s with link := { s.link with peers := Map.put s.link.peers p x } }

/-- A message sent to a peer (R339, R342, R343). -/
def toPeer (p : Nat) (m : OutMsg) (s : State) : State :=
  let s1 := setPeer p { peerAt s p with sent := s.now } s
  { s1 with link := { s1.link with out := s1.link.out ++ [{ m with peer := some (BitVec.ofNat 8 p) }] } }

/-- Whether a peer in a state answers nothing and is not waited for either (R341). -/
def PeerSt.gone : PeerSt → Bool
  | .down => true | .joining => true | .lost => true
  | .up => false | .suspect => false | .redirected => false

/-- The peer that answers for a peer: itself, or its promoter once it is REDIRECTED (R341, R343). -/
def answerer (s : State) (p : Nat) : Nat :=
  match (peerAt s p).st, (peerAt s p).promoter with
  | .redirected, some q => q.toNat
  | _, _ => p

/-- Whether an access to a peer's bytes finds it lost (R341): DOWN, JOINING, LOST, or REDIRECTED beyond the mirrored
ranges, which only the promoter knows (log 20), or to a promoter that is lost itself. -/
def peerLost (s : State) (p a n : Nat) : Bool :=
  (peerAt s p).st.gone || ((peerAt s p).st == .redirected
    && ((peerAt s (answerer s p)).st.gone || (granulesOf a n).any (fun g => !Config.peerMirrored p g)))

/-- Whether an access to a peer waits (R18, R341): the peer that would answer is SUSPECT, or no port is up to carry its packets. -/
def peerWaits (s : State) (p : Nat) : Bool := (peerAt s (answerer s p)).st == .suspect || !portUp s

/-- The fault codes with which a peer's checks refuse an access (R231, R250, R340): EXPIRY, which a copy in flight never takes (R218),
NO_RIGHT and RACE, and POISON of what a read meets. -/
def refusalCodes (flying write : Bool) : List Nat :=
  (if flying then [] else [0x20]) ++ [0x21, 0x25] ++ (if write then [] else [0x11])

/-- The fault that an access to a peer's bytes takes (R340, R341): LINK_PEER_LOST here, or what the peer's own checks raise; in
SUSPECT it waits. `flying` tells that it is of a copy in flight. -/
def peerFault (flying : Bool) (s : State) (p a n : Nat) (write : Bool) : Option Nat :=
  if peerLost s p a n then some 0x3E
  else if peerWaits s p then none
  else ((granulesOf a n).map (fun g => Config.peerRefusal p g s.now write)).find? (fun r => (refusalCodes flying write).contains r)

/-- A packet from a peer (R339): it is UP, and no longer silent. -/
def heard (p : Nat) (s : State) : State :=
  let x := peerAt s p
  if x.st = .up ∨ x.st = .suspect then setPeer p { x with st := .up, seen := s.now } s else s

/-- An access goes to a peer, or to the promoter that answers for it, which answers (R339, R341): traffic from here, and a packet from
there. -/
def peerTraffic (p : Nat) (s : State) : State :=
  let q := answerer s p
  heard q (setPeer q { peerAt s q with sent := s.now } s)

/-- A byte of a peer's export for this device: what was last written to it from here, else the peer's own byte; after a
redirection the promoter's copy answers (R340, R343, log 20). -/
def peerRead (s : State) (p a : Nat) : Byte :=
  let x := peerAt s p
  Map.get x.window a (Config.peerByte (if x.st = .redirected then p + 256 else p) a)

/-! ### Bytes of a space -/

/-- `n` bytes of a space from an address, as an engine reads them. -/
def spaceRead (s : State) (sp : Space) (a n : Nat) : List Byte :=
  match sp with
  | .sp g => Memory.readBytes (coreAt s g).sp.mem a n
  | .is g => (List.range n).map (fun i => match Map.find? (coreAt s g).istore ((a + i) / 4) with
      | some w => fld w.word (8 * ((a + i) % 4)) 8
      | none => 0)
  | .hbm => Memory.readBytes s.dram.hbm a n
  | .cap => Memory.readBytes s.dram.cap a n
  | .peer p => (List.range n).map (fun i => peerRead s p (a + i))

/-- The lowest poisoned granule of a space that a range touches (R63, R332). -/
def spacePoison (s : State) (sp : Space) (a n : Nat) : Option Nat :=
  let po : Map Bool := match sp with
    | .sp g => (coreAt s g).sp.poison
    | .hbm => s.dram.hbmPoison
    | .cap => s.dram.capPoison
    | _ => []
  (granulesOf a n).find? (fun g => (Map.find? po g).isSome)

/-- A read of a granule counted in the latency record of its channel (R331); its latency and stall are the traffic's (log
26). -/
def noteRead (s : State) (gran : Nat) : State :=
  let k := 32 * (Config.lineStack (64 * gran)).toNat + (Config.lineChannel (64 * gran)).toNat
  let r := Map.get s.dram.lat k {}
  let l := Config.readLatency s.ctr
  let r1 : LatRec := { reads := r.reads + 1, sum := r.sum + l.setWidth 64, max := if r.max < l then l else r.max
                       stall := r.stall + (Config.readStall s.ctr).setWidth 64 }
  { s with dram := { s.dram with lat := Map.put s.dram.lat k r1 }, ctr := s.ctr + 1 }

/-- The reads of a range of a space counted: HBM's in its latency records (R331); a peer's are traffic with it (R339). -/
def noteReads (sp : Space) (a n : Nat) (s : State) : State :=
  match sp with
  | .hbm => (granulesOf a n).foldl noteRead s
  | .peer p => peerTraffic p s
  | _ => s

/-- A range of a memory with its poison written: the poison of each granule written clears, and the bytes of such a
granule that the write does not cover read as zero (R63, and alike for device memory). -/
def poisonWrite (m : Memory) (po : Map Bool) (a : Nat) (bs : List Byte) : Memory × Map Bool :=
  let bad := (granulesOf a bs.length).filter (fun g => (Map.find? po g).isSome)
  (Memory.writeBytes (bad.foldl (fun m g => Memory.zero m (64 * g) 64) m) a bs, bad.foldl (fun p g => Map.del p g) po)

/-- Whether a context still has a mirror peer that takes granules: mirroring has not stopped (R342, R343). -/
def mirrorLive (s : State) (x : Ctx) : Bool :=
  match x.mirror with
  | none => false
  | some p => !x.mirOff && (match (peerAt s p.toNat).st with
    | .lost => false | .redirected => false
    | .down => true | .joining => true | .up => true | .suspect => true)

/-- Whether a context's mirror peer can be sent a granule now: its connections stand, and a port is up (R18, R339, R342). -/
def mirrorUp (s : State) (x : Ctx) : Bool :=
  mirrorLive s x && portUp s && (match x.mirror with
    | none => false
    | some p => (peerAt s p.toNat).st == .up || (peerAt s p.toNat).st == .suspect)

/-- The message that carries a mirrored granule of HBM (R342). -/
def mirrorMsg (ctx : BitVec 12) (a : Nat) (bs : List Byte) : OutMsg := { type := 0x100, ctx := ctx, payload := leBytes 8 a ++ bs }

/-- The context whose page mirrors a granule of HBM (R342): of those whose leaves may map it, the tenant of the sublet that covers it
or the owner of its region, the first whose leaf has MIR = 1, whoever writes. -/
def mirrorCtx (s : State) (gran : Nat) : Option (BitVec 12) :=
  match governing s.regions .hbm (64 * gran) with
  | none => none
  | some (_, r) => ((r.subl.map (·.tenant)).toList ++ [r.owner]).find? (fun id => mirroredPage s (ctxAt s id) (64 * gran))

/-- The bytes of a granule of HBM. -/
def granuleBytes (s : State) (gran : Nat) : List Byte := Memory.readBytes s.dram.hbm (64 * gran) 64

/-- A granule of HBM that no core has written leaves for its mirror peer at once, if its page is mirrored; no core counts it (R342,
log 93). -/
def mirrorOut (s : State) (gran : Nat) : State :=
  match mirrorCtx s gran with
  | none => s
  | some id => match (ctxAt s id).mirror with
    | some p => if mirrorUp s (ctxAt s id) then toPeer p.toNat (mirrorMsg id (64 * gran) (granuleBytes s gran)) s else s
    | none => s

/-- A granule of HBM that core `u` has written is counted, and queued for its mirror peer, if its page is mirrored (R342, R343). -/
def mirrorGranule (u : Nat) (s : State) (gran : Nat) : State :=
  match mirrorCtx s gran with
  | none => s
  | some id =>
    let c := coreAt s u
    setCoreAt s u { c with
      mseq := c.mseq + 1
      mirrorQ := if mirrorLive s (ctxAt s id) then c.mirrorQ ++ [(id, 64 * gran, granuleBytes s gran)] else c.mirrorQ }

/-- 64 bytes or more written into HBM by the device itself. -/
def writeHbm (a : Nat) (bs : List Byte) (s : State) : State :=
  let (m, po) := poisonWrite s.dram.hbm s.dram.hbmPoison a bs
  { s with dram := { s.dram with hbm := m, hbmPoison := po } }

/-- Bytes of HBM written by the device itself, for no core: in mirrored pages they are mirrored as any other write is (R342). -/
def storeHbm (a : Nat) (bs : List Byte) (s : State) : State := (granulesOf a bs.length).foldl mirrorOut (writeHbm a bs s)

/-- Bytes that an engine writes for core `u`; the write is complete at every scope at once (log 21). -/
def spaceWrite (u : Nat) (sp : Space) (a : Nat) (bs : List Byte) (s : State) : State :=
  match sp with
  | .sp g => updCoreAt g (fun c => { c with sp := spWrite c.sp (placeBytes a bs) }) s
  | .is _ => s
  | .hbm => (granulesOf a bs.length).foldl (mirrorGranule u) (writeHbm a bs s)
  | .cap =>
    let (m, po) := poisonWrite s.dram.cap s.dram.capPoison a bs
    { s with dram := { s.dram with cap := m, capPoison := po } }
  | .peer p =>
    let x := peerAt s p
    peerTraffic p (setPeer p { x with window := (placeBytes a bs).foldl (fun w b => Map.put w b.1 b.2) x.window } s)

/-! ### Lines as pages store them (R309) -/

/-- Whether a page with ENC = 1 of some context holds a line (R305, R309). -/
def encPage (s : State) (sp : Space) (line : Nat) : Bool :=
  let tier : BitVec 2 := if sp = .cap then 1 else 0
  s.ctxs.any (fun x => (ctxLeaves s.dram.hbm x.2).any (fun l => pteENC l.2.2 && leafIn tier (64 * line) 64 l))

/-- The key that lines of a page with ENC = 1 are stored under: that of the context that owns the backing region (R309). -/
def ownerKey (s : State) (sp : Space) (a : Nat) : BitVec 512 :=
  match governing s.regions sp a with
  | some (_, r) => (ctxAt s r.owner).key
  | none => 0

/-- How a line of device memory is stored: as the last access through a page stored it, else encrypted where a page with ENC = 1 holds
it; nothing where no page says (R309, log 61). The memory itself holds each line's plain bytes. -/
def lineKey (s : State) (sp : Space) (line : Nat) : Option LineKey :=
  let keys : Map LineKey := match sp with | .hbm => s.dram.hbmKeys | .cap => s.dram.capKeys | _ => []
  match Map.find? keys line with
  | some k => some k
  | none => if (sp = .hbm ∨ sp = .cap) ∧ encPage s sp line then some (some (ownerKey s sp (64 * line))) else none

/-- The bytes that an access of one mode finds in a line that is stored in another: the stored bytes, taken through its key (R309). -/
def recode (line : Nat) (stored mode : LineKey) (bs : List Byte) : List Byte :=
  let raw := match stored with | none => bs | some k => xtsLine .seal k line bs
  match mode with | none => raw | some k => xtsLine .open_ k line raw

/-- Whether an access of a mode finds a line's own bytes in it; an access of no mode, as copies make, always does (R309). -/
def lineAgrees (s : State) (mode : Option LineKey) (sp : Space) (line : Nat) : Bool :=
  match mode, lineKey s sp line with
  | some m, some f => f == m
  | _, _ => true

/-- A line's bytes as an access of a mode finds them. -/
def viewLine (s : State) (mode : Option LineKey) (sp : Space) (line : Nat) : List Byte :=
  let bs := spaceRead s sp (64 * line) 64
  match mode, lineKey s sp line with
  | some m, some f => if f = m then bs else recode line f m bs
  | _, _ => bs

/-- The bytes of a range as an access of a mode reads them. -/
def viewRead (s : State) (mode : Option LineKey) (sp : Space) (a n : Nat) : List Byte :=
  if (granulesOf a n).all (lineAgrees s mode sp) then spaceRead s sp a n
  else (((granulesOf a n).map (viewLine s mode sp)).flatten.drop (a % 64)).take n

/-- A line stored from now on in the mode of an access that writes it; the bytes that it does not write keep what is stored. -/
def stampLine (m : LineKey) (sp : Space) (s : State) (line : Nat) : State :=
  let put (mem : Memory) : Memory :=
    if lineAgrees s (some m) sp line then mem else Memory.writeBytes mem (64 * line) (viewLine s (some m) sp line)
  match sp with
  | .hbm => { s with dram := { s.dram with hbm := put s.dram.hbm, hbmKeys := Map.put s.dram.hbmKeys line m } }
  | .cap => { s with dram := { s.dram with cap := put s.dram.cap, capKeys := Map.put s.dram.capKeys line m } }
  | _ => s

/-- The lines of a range stored in the mode of an access that writes them. -/
def stampLines (mode : Option LineKey) (sp : Space) (a n : Nat) (s : State) : State :=
  match mode with
  | none => s
  | some m => (granulesOf a n).foldl (stampLine m sp) s

/-- The mode of an access through the leaf that maps a virtual address of a context: that of its ENC, in device memory (R309). -/
def leafMode (s : State) (x : Ctx) (va : Nat) : Option LineKey :=
  match translate s x va with
  | none => none
  | some (e, pa) => match leafSpace e pa with
    | (.hbm, a) => some (if pteENC e then some (ownerKey s .hbm a) else none)
    | (.cap, a) => some (if pteENC e then some (ownerKey s .cap a) else none)
    | _ => none

/-! ### Banks under engine accesses (R63) -/

/-- Whether every scratchpad bank of a range is FULL. -/
def banksFull (c : Core) (a n : Nat) : Bool := (banksSpanned a n).all (fun b => (getSpBank c b).st == .full)

/-- The banks of a range that sleep start their wakes. -/
def wakeBanks (now a n : Nat) (c : Core) : Core := (banksSpanned a n).foldl (fun c b => startSpWake now none b c) c

/-- Whether an engine access to a range of a space may start; in a scratchpad every bank must be FULL. -/
def spaceReady (s : State) (sp : Space) (a n : Nat) : Bool :=
  match sp with
  | .sp g => banksFull (coreAt s g) a n
  | .peer p => !peerWaits s p
  | _ => true

/-- The banks that an engine access finds asleep start their wakes (R63). -/
def spaceWake (sp : Space) (a n : Nat) (s : State) : State :=
  match sp with
  | .sp g => updCoreAt g (wakeBanks s.now a n) s
  | _ => s

end Sys2Proof.Machine
end

