-- ==== Sys2Proof/Machine/Flags.lean ====
section
/-! DEFINITION. The comparisons that set predicates and the status words that instructions show: scalar compares (R72,
R202), STAT (R65), BANKST (R66), CLKD (R348), the phase word (R248). -/

namespace Sys2Proof.Machine

open Sys2Proof

/-- The scalar conditions (R72). -/
inductive Cond where
  | eq | ne | lt | ge | ltu | geu
  deriving DecidableEq, Repr

/-- A scalar condition on two words (R72). -/
def condHolds (cc : Cond) (x y : Word) : Bool :=
  match cc with
  | .eq => x == y
  | .ne => x != y
  | .lt => x.slt y
  | .ge => !x.slt y
  | .ltu => x.ult y
  | .geu => !x.ult y

/-- How a compare's result reaches its predicate (R72): plain, AND, OR. -/
def cmpMerge (m : BitVec 2) (old c : Bool) : Bool :=
  if m = 1 then old && c else if m = 2 then old || c else c

/-- The condition that KCMP's field names (R202). -/
def kCond (cc : BitVec 3) : Cond :=
  match cc.toNat with
  | 0 => .eq | 1 => .ne | 2 => .lt | 3 => .ge | 4 => .ltu | _ => .geu

/-- STAT (R65). -/
def statWord (c : Core) : Word :=
  word (boolNat c.csr.wcol + c.csr.sres.toNat * 2 ^ 5 + c.csr.fcause.toNat * 2 ^ 8)

/-- The bank states of a file, two bits each (R66). -/
def bankBits (c : Core) (sl : Slot) : Nat :=
  (List.range (bankCount sl)).foldl (fun n b => n + (getBank c sl b).st.code * 4 ^ b) 0

/-- BANKST (R66). -/
def bankstWord (c : Core) : Word := word (bankBits c .s + bankBits c .v0 * 2 ^ 4 + bankBits c .v1 * 2 ^ 12)

/-- CLKD (R348). -/
def clkdWord (c : Core) : Word :=
  word (c.csr.vdiv.toNat + c.csr.mdiv.toNat * 4 + c.csr.cdiv.toNat * 16 + c.csr.kdiv.toNat * 64)

/-- The energy window sum W(t): the charges of the 256 reference cycles before `now` (R345). -/
def windowSum (now : Nat) (c : Core) : Nat :=
  (c.window.filter (fun x => x.1 < now && now ≤ x.1 + 255)).foldl (fun n x => n + x.2) 0

/-- PGRANT (R347). -/
def pgrantWord (now : Nat) (c : Core) : Word :=
  word (c.csr.grant.toNat + min (windowSum now c) 0xFFFFFF * 2 ^ 24)

/-- The phase word as ACQ.Q reads it (R248). -/
def phaseWord (w : Phase) : Word :=
  word (w.mode.toNat + w.pmask.toNat * 2 ^ 2 + w.hk.toNat * 2 ^ 8 + w.holder.toNat * 2 ^ 10 + w.epoch.toNat * 2 ^ 26
    + boolNat w.pend.isSome * 2 ^ 42)

end Sys2Proof.Machine
end

