-- ==== Sys2Proof/Machine/Operands.lean ====
section
/-! DEFINITION. The operand forms of instructions, as the tests before a bundle issues need them: the slot, the predicate,
the data registers that an instruction of the S, V0 and V1 files reads and writes (R58), and the scratchpad bytes that
its slot access touches (R27, R62, R63). -/

namespace Sys2Proof.Machine

open Sys2Proof

/-- The predicate field of a slot word. -/
def predField (w : IWord) : Pred := pr w

/-- The register of an RL operand. -/
def regO : Opnd → List Reg
  | .lit _ => []
  | .reg b _ => [b]

/-- The register after a register (the second of a pair). -/
def nextReg (r : Reg) : Reg := r + 1

/-- The data registers of the own S, V0 or V1 file that an instruction reads. -/
def regReads : Instr → List Reg
  | .add _ _ a _ o | .sub _ _ a _ o | .and _ _ a _ o | .or _ _ a _ o | .xor _ _ a _ o | .andn _ _ a _ o
  | .shl _ _ a _ o | .shr _ _ a _ o | .sra _ _ a _ o | .min _ _ a _ o | .max _ _ a _ o | .minu _ _ a _ o
  | .maxu _ _ a _ o | .mul _ _ a _ o | .mulh _ _ a _ o | .mulhu _ _ a _ o => a :: regO o
  | .clz _ _ a _ | .popc _ _ a _ => [a]
  | .cmpeq _ _ a _ o _ | .cmpne _ _ a _ o _ | .cmplt _ _ a _ o _ | .cmpge _ _ a _ o _ | .cmpltu _ _ a _ o _
  | .cmpgeu _ _ a _ o _ => a :: regO o
  | .sel _ _ _ a _ b _ => [a, b]
  | .lds _ _ a _ o _ _ => a :: regO o
  | .sts _ d a _ o _ => a :: d :: regO o
  | .amo _ d a _ _ _ _ => [a, d]
  | .amocas _ d a _ b _ _ => [a, b, d]
  | .br _ o | .call _ _ o | .trap _ o | .csrr _ _ o | .barr _ _ o | .bwait _ o | .btry _ _ o | .balr _ o
  | .rfwait _ o | .bankRS _ o | .bankWRS _ o | .clkdivV _ o | .clkdivM _ o | .clkdivC _ o | .clkdivK _ o => regO o
  | .bri _ a _ b _ => [a, b]
  | .ret _ a _ => [a]
  | .loop _ a _ o => a :: regO o
  | .csrw _ _ a _ o | .csrs _ _ a _ o | .csrc _ _ a _ o | .renew _ _ a _ o | .prepay _ _ a _ o
  | .barm _ _ a _ o => a :: regO o
  | .rft _ _ a | .rftSkip _ _ a => [a]
  | .xmovS _ x => [x.sreg]
  | .bankSR _ a _ o | .bankSW _ a _ o => a :: regO o
  | .rentSP _ _ a _ _ | .rentIS _ _ a _ _ | .rentHBM _ _ a _ _ | .rentCAP _ _ a _ _ => [a, nextReg a]
  | .sublet _ _ a _ b _ => [a, nextReg a, b, nextReg b]
  | .vacate _ _ a _ | .garm _ _ a _ | .acqQ _ _ a _ | .rqry _ _ a _ _ => [a]
  | .acqW _ _ a _ b _ | .acqR _ _ a _ b _ | .acqT _ _ a _ b _ | .rel _ _ a _ b _ | .qput _ _ a _ b _
  | .qtake _ _ a _ b _ _ | .gdep _ _ a _ b _ | .launch _ _ a _ b _ | .gnew _ _ a _ b _ _ => [a, b]
  | .ctxctlNew _ _ a b | .ctxctlGrant _ _ a b | .ctxctlSave _ _ a b | .ctxctlResume _ _ a b
  | .ctxctlSettier _ _ a b | .ctxctlRoot _ _ a b | .ctxctlEnd _ _ a b | .ctxctlQuery _ _ a b => [a, b]
  | .vadd _ _ _ a _ b _ _ | .vsub _ _ _ a _ b _ _ | .vmul _ _ _ a _ b _ _ => [a, b]
  | .vfma _ _ d a _ b _ _ => [a, b, d]
  | .vmin _ _ _ a _ b _ | .vmax _ _ _ a _ b _ | .vcmp _ _ _ a _ b _ _ => [a, b]
  | .vabs _ _ _ a _ | .vneg _ _ _ a _ | .vrcp _ _ _ a _ | .vrsq _ _ _ a _ | .vexp2 _ _ _ a _ | .vlog2 _ _ _ a _ => [a]
  | .vcswpHi _ _ _ a _ b _ | .vcswpLo _ _ _ a _ b _ => [a, nextReg a, b, nextReg b]
  | .vcswpX _ _ _ a _ _ => [a, nextReg a]
  | .viadd _ _ _ a _ b _ | .visub _ _ _ a _ b _ | .viadds _ _ _ a _ b _ | .visubs _ _ _ a _ b _
  | .vimul _ _ _ a _ b _ | .vimin _ _ _ a _ b _ | .vimax _ _ _ a _ b _ | .vicmp _ _ _ a _ b _ _
  | .vshl _ _ _ a _ b _ | .vshr _ _ _ a _ b _ | .vsra _ _ _ a _ b _ => [a, b]
  | .vimac _ _ d a _ b _ => [a, b, d]
  | .vpopc _ _ _ a _ | .vmov _ _ _ a _ => [a]
  | .vand _ _ _ a _ b _ | .vor _ _ _ a _ b _ | .vxor _ _ _ a _ b _ | .vandn _ _ _ a _ b _
  | .vsel _ _ _ _ a _ b _ => [a, b]
  | .vpset _ _ _ o => regO o
  | .vcvt _ _ _ a _ _ _ _ | .vrnd _ _ _ a _ _ => [a]
  | .vclmp _ _ _ a _ b _ => [a, b]
  | .vperm _ _ _ a _ b _ _ | .vrot _ _ _ a _ b _ => [a, b]
  | .vbcst _ _ _ a _ o _ => if isLit o then [] else a :: regO o
  | .vred _ _ _ a _ _ | .vscan _ _ _ a _ _ => [a]
  | .vld _ _ _ a _ _ _ => if a = 0 then [] else [a]
  | .vst _ _ d a _ _ => if a = 0 then [d] else [a, d]
  | .vldx _ _ _ a _ _ => [a]
  | .vstx _ _ d a _ => [a, d]
  | .vpln _ _ _ a _ _ _ | .vupl _ _ _ a _ _ _ | .vpack _ _ _ a _ _ _ _ => [a]
  | .vmulw _ _ _ a _ b _ => [a, b]
  | .vxtr _ _ _ a _ b _ => [a, nextReg a, b]
  | .vgrd _ _ _ a _ b _ _ => [a, b]
  | .vhist _ _ a _ _ => [a]
  | .vtag _ _ _ a _ o => a :: regO o
  | .vtget _ _ _ a _ => [a]
  | .xmovV _ _ x => [x.sreg]
  | .bankRV _ _ o | .bankWRV _ _ o => regO o
  | _ => []

/-- The data registers of the own S, V0 or V1 file that an instruction writes. -/
def regWrites : Instr → List Reg
  | .add _ d _ _ _ | .sub _ d _ _ _ | .and _ d _ _ _ | .or _ d _ _ _ | .xor _ d _ _ _ | .andn _ d _ _ _
  | .shl _ d _ _ _ | .shr _ d _ _ _ | .sra _ d _ _ _ | .min _ d _ _ _ | .max _ d _ _ _ | .minu _ d _ _ _
  | .maxu _ d _ _ _ | .mul _ d _ _ _ | .mulh _ d _ _ _ | .mulhu _ d _ _ _ => [d]
  | .clz _ d _ _ | .popc _ d _ _ | .sel _ d _ _ _ _ _ | .lds _ d _ _ _ _ _ | .amo _ d _ _ _ _ _
  | .amocas _ d _ _ _ _ _ | .call _ d _ | .csrr _ d _ | .csrw _ d _ _ _ | .csrs _ d _ _ _ | .csrc _ d _ _ _ => [d]
  | .rft _ d _ | .rftSkip _ d _ => [d]
  | .rentSP _ d _ _ _ | .rentIS _ d _ _ _ | .rentHBM _ d _ _ _ | .rentCAP _ d _ _ _ | .renew _ d _ _ _
  | .prepay _ d _ _ _ | .sublet _ d _ _ _ _ | .vacate _ d _ _ | .rqry _ d _ _ _ => [d]
  | .acqW _ d _ _ _ _ | .acqR _ d _ _ _ _ | .acqT _ d _ _ _ _ | .acqQ _ d _ _ | .rel _ d _ _ _ _ => [d]
  | .barm _ d _ _ _ | .barr _ d _ | .qput _ d _ _ _ _ | .qtake _ d _ _ _ _ _ | .gnew _ d _ _ _ _ _
  | .gdep _ d _ _ _ _ | .garm _ d _ _ | .launch _ d _ _ _ _ => [d]
  | .ctxctlNew _ d _ _ | .ctxctlGrant _ d _ _ | .ctxctlSave _ d _ _ | .ctxctlResume _ d _ _
  | .ctxctlSettier _ d _ _ | .ctxctlRoot _ d _ _ | .ctxctlEnd _ d _ _ | .ctxctlQuery _ d _ _ => [d]
  | .vadd _ _ d _ _ _ _ _ | .vsub _ _ d _ _ _ _ _ | .vmul _ _ d _ _ _ _ _ | .vfma _ _ d _ _ _ _ _ => [d]
  | .vmin _ _ d _ _ _ _ | .vmax _ _ d _ _ _ _ | .vabs _ _ d _ _ | .vneg _ _ d _ _ | .vrcp _ _ d _ _
  | .vrsq _ _ d _ _ | .vexp2 _ _ d _ _ | .vlog2 _ _ d _ _ => [d]
  | .vcswpHi _ _ d _ _ _ _ | .vcswpLo _ _ d _ _ _ _ | .vcswpX _ _ d _ _ _ => [d, nextReg d]
  | .viadd _ _ d _ _ _ _ | .visub _ _ d _ _ _ _ | .viadds _ _ d _ _ _ _ | .visubs _ _ d _ _ _ _
  | .vimul _ _ d _ _ _ _ | .vimac _ _ d _ _ _ _ | .vimin _ _ d _ _ _ _ | .vimax _ _ d _ _ _ _
  | .vshl _ _ d _ _ _ _ | .vshr _ _ d _ _ _ _ | .vsra _ _ d _ _ _ _ => [d]
  | .vpopc _ _ d _ _ | .vmov _ _ d _ _ | .vand _ _ d _ _ _ _ | .vor _ _ d _ _ _ _ | .vxor _ _ d _ _ _ _
  | .vandn _ _ d _ _ _ _ | .vsel _ _ d _ _ _ _ _ | .vpcnt _ _ d _ => [d]
  | .vcvt _ _ d _ _ _ _ _ | .vrnd _ _ d _ _ _ | .vclmp _ _ d _ _ _ _ | .vperm _ _ d _ _ _ _ _
  | .vbcst _ _ d _ _ _ _ | .vrot _ _ d _ _ _ _ | .vred _ _ d _ _ _ | .vscan _ _ d _ _ _ | .vidx _ _ d _ => [d]
  | .vld _ _ d _ _ _ _ | .vldx _ _ d _ _ _ | .vpln _ _ d _ _ _ _ | .vupl _ _ d _ _ _ _ | .vpack _ _ d _ _ _ _ _ => [d]
  | .vmulw _ _ d _ _ _ _ => [d, nextReg d]
  | .vxtr _ _ d _ _ _ _ | .vtag _ _ d _ _ _ | .vtget _ _ d _ _ => [d]
  | _ => []

/-- The value of an S, M, C0 or C1 register without checks; s0 is zero. -/
def rawX (c : Core) (sl : Slot) (r : Reg) : Word := if sl = .s ∧ r = 0 then 0 else getX c sl r

/-- The value of an RL operand without checks. -/
def rawO (c : Core) (sl : Slot) : Opnd → Word
  | .lit v => v
  | .reg b _ => rawX c sl b

/-- The effective address of a scalar load or store: base plus operand, modulo 2^64 (R75). -/
def ea (c : Core) (sl : Slot) (a : Reg) (o : Opnd) : Nat := (rawX c sl a + rawO c sl o).toNat

/-- The size of a scalar access (R75). -/
def szBytes (sz : BitVec 2) : Nat := 2 ^ sz.toNat

/-- Lane `i` of a vector register, 32 bits. -/
def lane32 (v : VWord) (i : Nat) : BitVec 32 := fld v (32 * i) 32

/-- The effective address of VLD and VST (R127): lane 0 of the base register, if there is one, plus the literal. -/
def vea (c : Core) (sl : Slot) (a : Reg) (off : Word) : Nat :=
  ((if a = 0 then 0 else (lane32 (getV c sl a).bits 0).setWidth 64) + off).toNat

/-- The lanes of a mask, ascending. -/
def lanes (m : Word) : List Nat := bitsOf m

/-- The landing-buffer entry with a key (R224). -/
def landEnt (c : Core) (bus : BitVec 2) (label : BitVec 16) : Option LandEnt :=
  c.land.find? (fun e => e.bus == bus && e.label == label)

/-- The block that has landed under a key, if it has (R224). -/
def landed (c : Core) (bus : BitVec 2) (label : Word) : Option (List Byte) :=
  if fld label 16 48 != 0 then none
  else match landEnt c bus (fld label 0 16) with
    | some e => e.data
    | none => none

/-- The scratchpad ranges that an instruction's slot access touches, with whether it writes; none with a false
predicate. -/
def slotAccs (c : Core) : Instr → List (Nat × Nat × Bool)
  | .lds p _ a _ o _ sz => if predOn c .s p then [(ea c .s a o, szBytes sz, false)] else []
  | .sts p _ a _ o sz => if predOn c .s p then [(ea c .s a o, szBytes sz, true)] else []
  | .amo p _ a _ off w _ => if predOn c .s p then [(ea c .s a (.lit off), if w then 4 else 8, true)] else []
  | .amocas p _ a _ _ _ w => if predOn c .s p then [((rawX c .s a).toNat, if w then 4 else 8, true)] else []
  | .qput p _ _ _ b _ => if predOn c .s p then [((rawX c .s b).toNat, 64, false)] else []
  | .qtake p _ _ _ b _ _ => if predOn c .s p then [((rawX c .s b).toNat, 64, true)] else []
  | .gnew p _ a _ _ _ _ | .launch p _ a _ _ _ => if predOn c .s p then [((rawX c .s a).toNat, 64, false)] else []
  | .vld u p _ a _ off _ => if selMask c u.slot p = 0 then [] else [(vea c u.slot a off, 256, false)]
  | .vst u p _ a _ off => (lanes (selMask c u.slot p)).map (fun i => (vea c u.slot a off + 4 * i, 4, true))
  | .vldx u p _ a _ _ => (lanes (selMask c u.slot p)).map (fun i => ((lane32 (getV c u.slot a).bits i).toNat, 4, false))
  | .vstx u p _ a _ => (lanes (selMask c u.slot p)).map (fun i => ((lane32 (getV c u.slot a).bits i).toNat, 4, true))
  | .kld u p _ a o _ sz => if predOn c u.slot p then [(ea c u.slot a o, szBytes sz, false)] else []
  | .kst u p _ a o sz => if predOn c u.slot p then [(ea c u.slot a o, szBytes sz, true)] else []
  | .mupl p a _ => if predOn c .m p then [((getX c .m a).toNat, 16, false)] else []
  | .bcast u p _ _ b _ => if predOn c u.slot p then [((getX c u.slot b).toNat, 256, false)] else []
  | .bltry u p _ a b bus =>
    if predOn c u.slot p && (landed c bus (getX c u.slot a)).isSome then [((getX c u.slot b).toNat, 256, true)] else []
  | .blatch u p _ _ b => if predOn c u.slot p then [((getX c u.slot b).toNat, 256, true)] else []
  | _ => []

end Sys2Proof.Machine
end

