-- ==== Sys2Proof/Machine/Csr.lean ====
section
/-! DEFINITION. The CSRs: their values (R65, R66, R87, R192, R226, R290, R325, R347, R348) and the effect of a write under
each access code (R8, R85), with the windows of a control core onto a trapped core (R193). -/

namespace Sys2Proof.Machine

open Sys2Proof

/-! ### Refresh phase (R325) -/

/-- RFPH: the slots begun since E, and the stacks in hot mode (R325, R328). -/
def rfphWord (s : State) : Word :=
  word (s.dram.slot % 2 ^ 48
    + (List.range 8).foldl (fun n k => n + boolNat (Map.get s.dram.stks k {}).hot * 2 ^ (48 + k)) 0)

/-! ### Core CSRs (R86) -/

/-- The value of a core CSR of core `g` (R86). -/
def coreCsr (s : State) (g : Nat) (c : Core) (n : Nat) : Word :=
  match n with
  | 0x000 => statWord c
  | 0x001 => bankstWord c
  | 0x002 => c.csr.carve.setWidth 64
  | 0x003 => c.csr.ovpOff ++ c.csr.ovpHnd
  | 0x004 => c.csr.bcsel.setWidth 64
  | 0x005 => (Map.get c.sp.conf c.csr.bcsel.toNat 0).setWidth 64
  | 0x010 => word (coreNum g + boolNat (isCtrl g) * 2 ^ 8 + c.ctx.toNat * 2 ^ 16)
  | 0x011 => word c.csr.cyc
  | 0x012 => word c.csr.frzc
  | 0x013 => word s.tick
  | 0x018 => word c.loops.length
  | 0x019 => match c.loops with | e :: _ => e.rem.setWidth 64 | [] => 0
  | 0x020 => BitVec.ofInt 64 (ctxAt s c.ctx).alw
  | 0x030 => c.csr.dmr
  | 0x040 => pgrantWord s.now c
  | 0x041 => clkdWord c
  | 0x050 => rfphWord s
  | _ => 0

/-- How a write combines with an RW field (R85): CSRW sets it, CSRS ORs into it, CSRC clears bits of it. -/
inductive CsrOp where
  | wr | set | clr
  deriving DecidableEq, Repr

/-- The new value of an RW field. -/
def CsrOp.mix {w : Nat} (k : CsrOp) (old v : BitVec w) : BitVec w :=
  match k with
  | .wr => v
  | .set => old ||| v
  | .clr => old &&& ~~~v

/-- A core CSR written (R8, R85): RW fields by the operation; W1C fields by CSRW only; RO fields, and RP fields unless
`rp`, ignore it. -/
def writeCoreCsr (k : CsrOp) (rp : Bool) (n : Nat) (v : Word) (c : Core) : Core :=
  let q := c.csr
  match n with
  | 0x000 => if k = .wr then { c with csr := { q with wcol := q.wcol && !bit v 0 } } else c
  | 0x003 => { c with csr := { q with
      ovpHnd := if rp then fld v 0 16 else q.ovpHnd
      ovpOff := (k.mix q.ovpOff (fld v 16 48)) &&& 0xFFFFFFFFFFC0 } }
  | 0x004 => let x := k.mix q.bcsel (fld v 0 9); if x.toNat < 384 then { c with csr := { q with bcsel := x } } else c
  | 0x005 =>
    let x : BitVec 32 := k.mix (Map.get c.sp.conf q.bcsel.toNat 0) (fld v 0 32)
    { c with sp := { c.sp with conf := Map.put c.sp.conf q.bcsel.toNat x } }
  | 0x018 => setDepth c (k.mix (word c.loops.length) v)
  | 0x019 => setCount c (k.mix (match c.loops with | e :: _ => e.rem.setWidth 64 | [] => 0) v)
  | 0x030 => if rp then { c with csr := { q with dmr := v } } else c
  | 0x040 => if rp then { c with csr := { q with grant := fld v 0 24 } } else c
  | _ => c

/-! ### Control-core CSRs (R192) -/

/-- The cores of a cluster that hold a latched record, the control core included (R192). -/
def waitCount (s : State) (k : Nat) : Nat :=
  ((List.range 8).filter (fun i => (coreAt s (8 * k + i)).latched.isSome)).length + boolNat (clusterAt s k).latch.isSome

/-- WSEL as it reads (R192). -/
def wselWord (q : Cluster) : Word := word (q.wsel.toNat - q.wsel.toNat / 8 % 2 * 8 + boolNat q.werr * 2 ^ 31)

/-- A control-core CSR other than WDATA (R192). -/
def ctrlCsr (s : State) (k n : Nat) : Word :=
  let q := clusterAt s k
  let h : TRec := q.q.headD ⟨0, 0, 0, 0⟩
  match n with
  | 0x0F0 => word (q.lfCode.toNat + q.lfCore.toNat * 2 ^ 8 + boolNat q.lfCtrl * 2 ^ 16 + boolNat q.lfValid * 2 ^ 17
      + q.lfCtx.toNat * 2 ^ 18 + q.lfPc.toNat * 2 ^ 30 + q.lfCount.toNat * 2 ^ 48)
  | 0x0F1 => word (q.q.length + waitCount s k * 2 ^ 8 + q.lost.toNat * 2 ^ 32)
  | 0x0F2 => h.w0
  | 0x0F3 => h.w1
  | 0x0F4 => h.w2
  | 0x0F5 => h.w3
  | 0x0F8 => wselWord q
  | _ => 0

/-- The 32 bytes of a record. -/
def recordBytes (r : TRec) : List Byte := leBytes 8 r.w0.toNat ++ leBytes 8 r.w1.toNat ++ leBytes 8 r.w2.toNat ++ leBytes 8 r.w3.toNat

/-- The head record is popped (R192); Holly forwards an event to the host as it pops it (R337). -/
def popRecord (k : Nat) (s : State) : State :=
  let q := clusterAt s k
  let s1 := setCluster s k { q with q := q.q.tail }
  match q.q with
  | [] => s1
  | r :: _ =>
    if fld r.w0 8 2 = 3 then sendHost { type := 0x04, ctx := fld r.w0 40 12, payload := recordBytes r } s1 else s1

/-- LASTFATAL.VALID and its COUNT are cleared (R192). -/
def clearFatal (k : Nat) (s : State) : State :=
  setCluster s k { clusterAt s k with lfValid := false, lfCount := 0 }

/-- The latched records of a cluster that may enter its queue do: the control core's first, then by fault cycle and core
(R190). One record at a time, at most nine. -/
def unlatchOne (k : Nat) (s : State) : State :=
  let q := clusterAt s k
  if 64 < q.q.length + 5 then s
  else match q.latch with
    | some r => setCluster s k { q with q := q.q ++ [r], latch := none, newN := 0 }
    | none =>
      let held := (List.range 8).filterMap (fun i => (coreAt s (8 * k + i)).latched.map (fun l => (l.1, 8 * k + i, l.2)))
      match held with
      | [] => s
      | h :: hs =>
        let b := hs.foldl (fun b x => if x.1 < b.1 then x else b) h
        setCluster (updCoreAt b.2.1 (fun c => { c with latched := none }) s) k { q with q := q.q ++ [b.2.2], newN := 0 }

/-- Every latched record that may enter does, in order (R190). -/
def unlatch (k : Nat) (s : State) : State := (List.range 9).foldl (fun s _ => unlatchOne k s) s

/-! ### The windows (R193) -/

/-- A window access refused: WERR is set (R193). -/
def werr (k : Nat) (s : State) : State := setCluster s k { clusterAt s k with werr := true }

/-- The fields of WSEL (R192). -/
def wCore (q : Cluster) : Nat := (fld q.wsel 0 3).toNat
def wFile (q : Cluster) : Nat := (fld q.wsel 4 3).toNat
def wPred (q : Cluster) : Bool := bit q.wsel 7
def wReg (q : Cluster) : Nat := (fld q.wsel 8 5).toNat
def wPart (q : Cluster) : Nat := (fld q.wsel 13 5).toNat
def wTag (q : Cluster) : Bool := bit q.wsel 18
def wCsr (q : Cluster) : Nat := (fld q.wsel 19 12).toNat

/-- The selected core of a cluster. -/
def wTarget (k : Nat) (q : Cluster) : Nat := 8 * k + wCore q

/-- Whether the selection names an item (R193): register, part, tag and CSR numbers in range. DESIGN CHOICE (log 103): TAG = 1 or PART
other than 0 is out of range where the selection is no vector register. -/
def wInRange (q : Cluster) : Bool :=
  let f := wFile q
  if f < 6 then
    let sl := slotOf (BitVec.ofNat 3 f)
    if wPred q then decide (wReg q < predRegs sl) && wPart q == 0 && !wTag q
    else decide (wReg q < dataRegs sl) && (isV sl || (wPart q == 0 && !wTag q))
  else if f = 6 then decide (wReg q < 8)
  else csrKnown (wCsr q) && !csrControl (wCsr q)

/-- Whether a window access is served: the core is TRAPPED or SAVING, or trap-state item 7 is read; and it is in range. -/
def wServed (c : Core) (q : Cluster) (rd : Bool) : Bool :=
  (c.st == .trapped || c.st == .saving || (rd && wFile q == 6 && wReg q == 7)) && wInRange q

/-- A trap-state item (R193). -/
def trapItem (c : Core) (i : Nat) : Word :=
  match i with
  | 0 => c.pc.setWidth 64
  | 1 => c.csr.sres.setWidth 64
  | 2 => match c.br with | some b => b.tgt.setWidth 64 | none => 0
  | 3 => match c.br with | some b => word b.dpos | none => 0
  | 4 => (Map.get c.gens 0 1).setWidth 64
  | 5 => (Map.get c.gens 1 1).setWidth 64
  | 6 => (Map.get c.gens 2 1).setWidth 64
  | _ => word c.st.code

/-- WDATA as it reads, with WERR set where the access is refused or the register is dead (R193). -/
def wdataRead (k : Nat) (s : State) : Word × State :=
  let q := clusterAt s k
  let g := wTarget k q
  let c := coreAt s g
  if !wServed c q true then (0, werr k s)
  else
    let f := wFile q
    if f < 6 then
      let sl := slotOf (BitVec.ofNat 3 f)
      let r : Reg := BitVec.ofNat 5 (wReg q)
      if wPred q then (getP c sl (wReg q), s)
      else if sl = .s ∧ r = 0 then (0, s)
      else if !isLive c sl r then (0, werr k s)
      else if isV sl then
        let v := getV c sl r
        (if wTag q then word (v.tag.toNat + v.dw.toNat * 64) else fld v.bits (64 * wPart q) 64, s)
      else (getX c sl r, s)
    else if f = 6 then (trapItem c (wReg q), s)
    else (coreCsr s g c (wCsr q), s)

/-- A value written to a data register of a trapped core through the window (R193): the register becomes live and its
poison clears; other groups of a vector keep their bits; the tag changes only through TAG. -/
def wsetReg (now : Nat) (q : Cluster) (v : Word) (c0 : Core) : Core :=
  let sl := slotOf (BitVec.ofNat 3 (wFile q))
  let r : Reg := BitVec.ofNat 5 (wReg q)
  let c := if bankCount sl = 0 then c0
    else match (getBank c0 sl (bankOf sl r.toNat)).st with
      | .full => c0
      | .waking => c0
      | _ => startWake now none sl (bankOf sl r.toNat) c0
  let f := c.files
  let b : BitVec 32 := 1#32 <<< r.toNat
  let f1 := if bankCount sl = 0 then f
    else { f with live := Map.put f.live sl.num (Map.get f.live sl.num 0 ||| b)
                  poison := Map.put f.poison sl.num (Map.get f.poison sl.num 0 &&& ~~~b) }
  if isV sl then
    let old := getV c sl r
    let new : VReg :=
      if wTag q then { old with tag := fld v 0 6, dw := fld v 6 2 }
      else { old with bits := mergeBits old.bits (v.setWidth 2048 <<< (64 * wPart q)) (mask64 <<< (64 * wPart q)) }
    { c with files := { f1 with v := Map.put f1.v (regKey sl r) new } }
  else { c with files := { f1 with x := Map.put f1.x (regKey sl r) v } }

/-- Whether a value written to the selected item is a reserved TAG, which is refused (R193); the bits above DW are reserved and ignored. -/
def wTagRefused (q : Cluster) (v : Word) : Bool := decide (wFile q < 6) && !wPred q && wTag q && !tagKnown (fld v 0 6).toNat

/-- WDATA written (R193). -/
def wdataWrite (k : Nat) (v : Word) (s : State) : State :=
  let q := clusterAt s k
  let g := wTarget k q
  let c := coreAt s g
  if !wServed c q false then werr k s
  else
    let f := wFile q
    if f < 6 then
      let sl := slotOf (BitVec.ofNat 3 f)
      if wPred q then
        if wReg q = 0 then s
        else
          let w : Word := if isV sl then v else v &&& 1
          setCoreAt s g { c with files := { c.files with p := Map.put c.files.p (predKey sl (wReg q)) w } }
      else if sl = .s ∧ wReg q = 0 then s
      else if wTagRefused q v then werr k s
      else setCoreAt s g (wsetReg s.now q v c)
    else if f = 6 then
      if 4 ≤ wReg q ∧ wReg q ≤ 6 then
        let x : BitVec 32 := fld v 0 32
        setCoreAt s g { c with gens := Map.put c.gens (wReg q - 4) (if x = 0 then 1 else x) }
      else s
    else setCoreAt s g (writeCoreCsr .wr true (wCsr q) v c)

/-! ### Any CSR -/

/-- A CSR written on the acting core, which the caller has checked it may name (R85, R192). A CSRW of a control core is no
privileged form in the sense of R8 here: it leaves the RP fields of that core's own OVP, DMR and PGRANT as they are, and a
window sets those of a trapped core (DESIGN CHOICE, log 85). -/
def writeCsr (k : CsrOp) (n : Nat) (v : Word) (s : State) : State :=
  let q := clusterNo s.cur
  let cl := clusterAt s q
  match n with
  | 0x0F0 => if k = .wr ∧ bit v 17 then clearFatal q s else s
  | 0x0F1 => setCluster s q { cl with lost := k.mix cl.lost (fld v 32 16) }
  | 0x0F6 => if k = .wr ∧ bit v 0 then unlatch q (popRecord q s) else s
  | 0x0F8 => setCluster s q { cl with
      wsel := (k.mix cl.wsel (fld v 0 31)) &&& 0x7FFFFFF7
      werr := if k = .wr then cl.werr && !bit v 31 else cl.werr }
  | 0x0F9 => match k with
      | .wr => wdataWrite q v s
      | _ => let (old, s1) := wdataRead q s; wdataWrite q (k.mix old v) s1
  | _ => updCore (writeCoreCsr k false n v) s

/-- Whether a CSR governs how a bundle runs, so that a write to it waits for the end of its own bundle (R85): OVP, LDEPTH and
LCNT. -/
def lateKind (n : Nat) : Bool := n == 0x003 || n == 0x018 || n == 0x019

/-- The value that a write under an operation gives such a CSR. -/
def lateValue (k : CsrOp) (n : Nat) (v : Word) (c : Core) : Word :=
  match n with
  | 0x003 => k.mix (c.csr.ovpOff ++ c.csr.ovpHnd) v
  | 0x018 => k.mix (word c.loops.length) v
  | _ => k.mix (match c.loops with | e :: _ => e.rem.setWidth 64 | [] => 0) v

/-- A CSR instruction's write (R85): the new value of a CSR that governs bundles waits until its own bundle has issued, and
governs those of later issue cycles. DESIGN CHOICE (log 108): any other CSR is written as its slot issues, so that a collision or a lost
bank of the same bundle, counted later, stands over a write that clears STAT.WCOL or sets BCCNT. -/
def issueCsr (k : CsrOp) (n : Nat) (v : Word) (s : State) : State :=
  if lateKind n then updCore (fun c => { c with bun := { c.bun with late := some (n, lateValue k n v c) } }) s
  else writeCsr k n v s

/-- A CSR read on the acting core; a read of WDATA may set WERR (R193). -/
def readCsr (n : Nat) (s : State) : Word × State :=
  if n = 0x0F9 then wdataRead (clusterNo s.cur) s
  else if csrControl n then (ctrlCsr s (clusterNo s.cur) n, s)
  else (coreCsr s s.cur (core s) n, s)

end Sys2Proof.Machine
end

