-- ==== Sys2Proof/Machine/Scalar.lean ====
section
/-! DEFINITION. The scalar slot (R68 to R87): arithmetic, compares, predicates, SEL, scratchpad loads, stores and
atomics, branches, LOOP, END's issue, CSR access, TRAP and RFT. -/

namespace Sys2Proof.Machine

open Sys2Proof

/-! ### Integer arithmetic, logic and shifts (R70, R71) -/

/-- The function of ADD (R70): (x + y) mod 2^64. -/
def fAdd (x y : Word) : Word := x + y

/-- The function of SUB (R70): (x − y) mod 2^64. -/
def fSub (x y : Word) : Word := x - y

/-- The function of AND (R70): x AND y. -/
def fAnd (x y : Word) : Word := x &&& y

/-- The function of OR (R70): x OR y. -/
def fOr (x y : Word) : Word := x ||| y

/-- The function of XOR (R70): x XOR y. -/
def fXor (x y : Word) : Word := x ^^^ y

/-- The function of ANDN (R70): x AND NOT y. -/
def fAndn (x y : Word) : Word := x &&& ~~~y

/-- The function of SHL (R70): x << y[5:0]. -/
def fShl (x y : Word) : Word := x <<< (y.toNat % 64)

/-- The function of SHR (R70): x >> y[5:0], zero fill. -/
def fShr (x y : Word) : Word := x >>> (y.toNat % 64)

/-- The function of SRA (R70): x >> y[5:0], filled with x[63]. -/
def fSra (x y : Word) : Word := x.sshiftRight (y.toNat % 64)

/-- The function of MIN (R70): the lesser, signed. -/
def fMin (x y : Word) : Word := if x.sle y then x else y

/-- The function of MAX (R70): the greater, signed. -/
def fMax (x y : Word) : Word := if x.sle y then y else x

/-- The function of MINU (R70): the lesser, unsigned. -/
def fMinu (x y : Word) : Word := if x.ule y then x else y

/-- The function of MAXU (R70): the greater, unsigned. -/
def fMaxu (x y : Word) : Word := if x.ule y then y else x

/-- The function of MUL (R70): (x × y) mod 2^64. -/
def fMul (x y : Word) : Word := x * y

/-- The function of MULH (R70): bits [127:64] of the signed product. -/
def fMulh (x y : Word) : Word := BitVec.ofInt 64 (x.toInt * y.toInt / 2 ^ 64)

/-- The function of MULHU (R70): bits [127:64] of the unsigned product. -/
def fMulhu (x y : Word) : Word := BitVec.ofNat 64 (x.toNat * y.toNat / 2 ^ 64)

/-- An RL instruction of the S slot that computes s[d] := f(s[a], opnd) with a latency (R70). -/
def alu (f : Word → Word → Word) (lat : Nat) (p : Pred) (d a : Reg) (la : Bool) (o : Opnd) (s : State) : State :=
  issue .s p (marksOf a la ++ markO o) (fun s => do
    let x ← rdX (core s) .s a
    let y ← rdO (core s) .s o
    .ok (updCore (resX .s d (f x y) lat) s)) s

/-- ADD (R70). -/
def execAdd (p : Pred) (d a : Reg) (la : Bool) (o : Opnd) (s : State) : Out := .next (alu fAdd 1 p d a la o s)

/-- SUB (R70). -/
def execSub (p : Pred) (d a : Reg) (la : Bool) (o : Opnd) (s : State) : Out := .next (alu fSub 1 p d a la o s)

/-- AND (R70). -/
def execAnd (p : Pred) (d a : Reg) (la : Bool) (o : Opnd) (s : State) : Out := .next (alu fAnd 1 p d a la o s)

/-- OR (R70). -/
def execOr (p : Pred) (d a : Reg) (la : Bool) (o : Opnd) (s : State) : Out := .next (alu fOr 1 p d a la o s)

/-- XOR (R70). -/
def execXor (p : Pred) (d a : Reg) (la : Bool) (o : Opnd) (s : State) : Out := .next (alu fXor 1 p d a la o s)

/-- ANDN (R70). -/
def execAndn (p : Pred) (d a : Reg) (la : Bool) (o : Opnd) (s : State) : Out := .next (alu fAndn 1 p d a la o s)

/-- SHL (R70). -/
def execShl (p : Pred) (d a : Reg) (la : Bool) (o : Opnd) (s : State) : Out := .next (alu fShl 1 p d a la o s)

/-- SHR (R70). -/
def execShr (p : Pred) (d a : Reg) (la : Bool) (o : Opnd) (s : State) : Out := .next (alu fShr 1 p d a la o s)

/-- SRA (R70). -/
def execSra (p : Pred) (d a : Reg) (la : Bool) (o : Opnd) (s : State) : Out := .next (alu fSra 1 p d a la o s)

/-- MIN (R70). -/
def execMin (p : Pred) (d a : Reg) (la : Bool) (o : Opnd) (s : State) : Out := .next (alu fMin 1 p d a la o s)

/-- MAX (R70). -/
def execMax (p : Pred) (d a : Reg) (la : Bool) (o : Opnd) (s : State) : Out := .next (alu fMax 1 p d a la o s)

/-- MINU (R70). -/
def execMinu (p : Pred) (d a : Reg) (la : Bool) (o : Opnd) (s : State) : Out := .next (alu fMinu 1 p d a la o s)

/-- MAXU (R70). -/
def execMaxu (p : Pred) (d a : Reg) (la : Bool) (o : Opnd) (s : State) : Out := .next (alu fMaxu 1 p d a la o s)

/-- MUL (R70). -/
def execMul (p : Pred) (d a : Reg) (la : Bool) (o : Opnd) (s : State) : Out := .next (alu fMul 3 p d a la o s)

/-- MULH (R70). -/
def execMulh (p : Pred) (d a : Reg) (la : Bool) (o : Opnd) (s : State) : Out := .next (alu fMulh 3 p d a la o s)

/-- MULHU (R70). -/
def execMulhu (p : Pred) (d a : Reg) (la : Bool) (o : Opnd) (s : State) : Out := .next (alu fMulhu 3 p d a la o s)

/-- An RR instruction of the S slot that computes s[d] := f(s[a]) with latency 1 (R71). -/
def unary (f : Word → Word) (p : Pred) (d a : Reg) (la : Bool) (s : State) : State :=
  issue .s p (marksOf a la) (fun s => do
    let x ← rdX (core s) .s a
    .ok (updCore (resX .s d (f x) 1) s)) s

/-- CLZ (R71). -/
def execClz (p : Pred) (d a : Reg) (la : Bool) (s : State) : Out := .next (unary (fun x => word (clz x)) p d a la s)

/-- POPC (R71). -/
def execPopc (p : Pred) (d a : Reg) (la : Bool) (s : State) : Out := .next (unary (fun x => word (popcount x)) p d a la s)

/-! ### Compare, predicate logic and select (R72 to R74) -/

/-- CMPcc (R72): the test reaches f[d] plain, by AND or by OR with its old value; the latency is 1. -/
def compare (cc : Cond) (p : Pred) (d : BitVec 3) (a : Reg) (la : Bool) (o : Opnd) (m : BitVec 2) (s : State) : State :=
  issue .s p (marksOf a la ++ markO o) (fun s => do
    let x ← rdX (core s) .s a
    let y ← rdO (core s) .s o
    let r := cmpMerge m (getP (core s) .s d.toNat != 0) (condHolds cc x y)
    .ok (updCore (resP .s d.toNat (boolWord r) 1 1) s)) s

/-- CMPEQ (R72). -/
def execCmpeq (p : Pred) (d : BitVec 3) (a : Reg) (la : Bool) (o : Opnd) (m : BitVec 2) (s : State) : Out :=
  .next (compare .eq p d a la o m s)

/-- CMPNE (R72). -/
def execCmpne (p : Pred) (d : BitVec 3) (a : Reg) (la : Bool) (o : Opnd) (m : BitVec 2) (s : State) : Out :=
  .next (compare .ne p d a la o m s)

/-- CMPLT (R72). -/
def execCmplt (p : Pred) (d : BitVec 3) (a : Reg) (la : Bool) (o : Opnd) (m : BitVec 2) (s : State) : Out :=
  .next (compare .lt p d a la o m s)

/-- CMPGE (R72). -/
def execCmpge (p : Pred) (d : BitVec 3) (a : Reg) (la : Bool) (o : Opnd) (m : BitVec 2) (s : State) : Out :=
  .next (compare .ge p d a la o m s)

/-- CMPLTU (R72). -/
def execCmpltu (p : Pred) (d : BitVec 3) (a : Reg) (la : Bool) (o : Opnd) (m : BitVec 2) (s : State) : Out :=
  .next (compare .ltu p d a la o m s)

/-- CMPGEU (R72). -/
def execCmpgeu (p : Pred) (d : BitVec 3) (a : Reg) (la : Bool) (o : Opnd) (m : BitVec 2) (s : State) : Out :=
  .next (compare .geu p d a la o m s)

/-- Predicate logic of the S slot (R73): f[d] := f[a] op (f[b] XOR n), latency 1. -/
def predLogic (f : Bool → Bool → Bool) (p : Pred) (d a b : BitVec 3) (n : Bool) (s : State) : State :=
  issue .s p [] (fun s =>
    let x := getP (core s) .s a.toNat != 0
    let y := (getP (core s) .s b.toNat != 0) != n
    .ok (updCore (resP .s d.toNat (boolWord (f x y)) 1 1) s)) s

/-- PAND (R73). -/
def execPand (p : Pred) (d a b : BitVec 3) (n : Bool) (s : State) : Out := .next (predLogic (· && ·) p d a b n s)

/-- POR (R73). -/
def execPor (p : Pred) (d a b : BitVec 3) (n : Bool) (s : State) : Out := .next (predLogic (· || ·) p d a b n s)

/-- PXOR (R73). -/
def execPxor (p : Pred) (d a b : BitVec 3) (n : Bool) (s : State) : Out := .next (predLogic (· != ·) p d a b n s)

/-- SEL (R74): s[d] := s[a] if f[k] is true, else s[b]; both sources are read and checked. -/
def execSel (p : Pred) (d : Reg) (k : BitVec 3) (a : Reg) (la : Bool) (b : Reg) (lb : Bool) (s : State) : Out :=
  .next (issue .s p (marksOf a la ++ marksOf b lb) (fun s => do
    let x ← rdX (core s) .s a
    let y ← rdX (core s) .s b
    .ok (updCore (resX .s d (if getP (core s) .s k.toNat != 0 then x else y) 1) s)) s)

/-! ### Scratchpad load, store and atomics (R75 to R80) -/

/-- The value that a load gives: the bytes at an address, zero- or sign-extended (R76). -/
def loadValue (c : Core) (a n : Nat) (sx : Bool) : Word :=
  let v := Memory.readLE (viewMem c) a n
  if sx then BitVec.ofInt 64 (sextNat (8 * n) v) else word v

/-- A scalar load of a slot: reads, address checks, poison, and a result after 4 cycles of the engine (R75, R76, R203). -/
def load (sl : Slot) (p : Pred) (d a : Reg) (marks : List Reg) (o : Opnd) (sx : Bool) (sz : BitVec 2) (s : State) :
    State :=
  issue sl p marks (fun s => do
    let x ← rdX (core s) sl a
    let y ← rdO (core s) sl o
    let ea := (x + y).toNat
    let n := szBytes sz
    let t ← checkLocal .sl .read ea n n s
    checkPoison (core s) ea n
    .ok (updCore (resX sl d (loadValue (core s) ea n sx) 4) t)) s

/-- A scalar store of a slot (R75, R77, R203): the sources a, opnd and d are read, then the address is checked. -/
def store (sl : Slot) (p : Pred) (d a : Reg) (marks : List Reg) (o : Opnd) (sz : BitVec 2) (s : State) : State :=
  issue sl p marks (fun s => do
    let x ← rdX (core s) sl a
    let y ← rdO (core s) sl o
    let v ← rdX (core s) sl d
    let ea := (x + y).toNat
    let n := szBytes sz
    let t ← checkLocal .sl .write ea n n s
    .ok (slotStore sl (bytesAt ea n v.toNat) t)) s

/-- LDS (R76). -/
def execLds (p : Pred) (d a : Reg) (la : Bool) (o : Opnd) (sx : Bool) (sz : BitVec 2) (s : State) : Out :=
  .next (load .s p d a (marksOf a la ++ markO o) o sx sz s)

/-- STS (R77). -/
def execSts (p : Pred) (d a : Reg) (la : Bool) (o : Opnd) (sz : BitVec 2) (s : State) : Out :=
  .next (store .s p d a (marksOf a la ++ markO o) o sz s)

/-- The new value of an AMO, in the operand width `w` bits (R78). -/
def amoValue (op : BitVec 3) (w : Nat) (old v : Nat) : Nat :=
  match op.toNat with
  | 0 => (old + v) % 2 ^ w
  | 1 => old &&& v
  | 2 => old ||| v
  | 3 => old ^^^ v
  | 4 => v
  | 5 => if sextNat w old ≤ sextNat w v then old else v
  | 6 => if sextNat w old ≤ sextNat w v then v else old
  | _ => if old ≤ v then v else old

/-- The indivisible step of an atomic at `ea`: the checks, the old value, the new one if there is one, and the result
after 6 cycles; nodes that wait on the word see the write (R78, R79, R254). -/
def atomic (d : Reg) (ea n : Nat) (new : Nat → Option Nat) (s : State) : Except Exc State := do
  let t ← checkLocal .sl .atomic ea n n s
  checkPoison (core s) ea n
  let old := Memory.readLE (viewMem (core s)) ea n
  let t1 := updCore (resX .s d (word old) 6) t
  match new old with
  | none => .ok t1
  | some v => .ok (wakeWatchers s.cur (slotStore .s (bytesAt ea n v) t1))

/-- AMO (R78). -/
def execAmo (p : Pred) (d a : Reg) (la : Bool) (off : Word) (w : Bool) (op : BitVec 3) (s : State) : Out :=
  .next (issue .s p (marksOf a la) (fun s => do
    let x ← rdX (core s) .s a
    let v ← rdX (core s) .s d
    let n := if w then 4 else 8
    atomic d (x + off).toNat n (fun old => some (amoValue op (8 * n) old (v.toNat % 2 ^ (8 * n)))) s) s)

/-- AMOCAS (R79): the sources are read in the order a, b, d. -/
def execAmocas (p : Pred) (d a : Reg) (la : Bool) (b : Reg) (lb : Bool) (w : Bool) (s : State) : Out :=
  .next (issue .s p (marksOf a la ++ marksOf b lb) (fun s => do
    let x ← rdX (core s) .s a
    let y ← rdX (core s) .s b
    let e ← rdX (core s) .s d
    let n := if w then 4 else 8
    atomic d x.toNat n (fun old => if old = e.toNat % 2 ^ (8 * n) then some (y.toNat % 2 ^ (8 * n)) else none) s) s)

/-! ### Branches, calls and loops (R81 to R84) -/

/-- The length of the bundle whose header stands at an address. -/
def lenAt (c : Core) (pc : BitVec 18) : Nat :=
  match Map.find? c.istore (pc.toNat / 4) with
  | some w => bundleLen w.word
  | none => 1

/-- A taken branch-class instruction may stand neither in a delay bundle (R82) nor at the top loop entry's end (R84). DESIGN CHOICE
(log 99): this ILLEGAL_OP comes before the checks of sources and target, an order that the spec does not give. -/
def branchPlace (s : State) : Except Exc Unit :=
  let c := core s
  if c.br.isSome || (match c.loops with | e :: _ => e.fin == c.pc | [] => false) then .error (illegalOp s) else .ok ()

/-- The checks on a branch target (R81). -/
def branchTo (t : Word) (s : State) : Except Exc State :=
  if t.toNat % 4 ≠ 0 then .error (exc 0x06 t)
  else if 0x40000 ≤ t.toNat then .error (exc 0x21 t)
  else .ok (updCore (fun c => { c with bun := { c.bun with taken := some (t.setWidth 18) } }) s)

/-- The address of the bundle that holds the branch, as a word. -/
def pcWord (s : State) : Word := (core s).pc.setWidth 64

/-- The address of the bundle after the second delay bundle (R81). -/
def returnAddr (c : Core) : BitVec 18 :=
  let d1 := following c.pc c.bun.len
  let d2 := following d1 (lenAt c d1)
  following d2 (lenAt c d2)

/-- BR (R81). -/
def execBr (p : Pred) (o : Opnd) (s : State) : Out :=
  .next (issue .s p (markO o) (fun s => do
    branchPlace s
    let y ← rdO (core s) .s o
    branchTo (pcWord s + y) s) s)

/-- BRI (R81). -/
def execBri (p : Pred) (a : Reg) (la : Bool) (b : Reg) (lb : Bool) (s : State) : Out :=
  .next (issue .s p (marksOf a la ++ marksOf b lb) (fun s => do
    branchPlace s
    let x ← rdX (core s) .s a
    let y ← rdX (core s) .s b
    branchTo (x + y) s) s)

/-- CALL (R81): the return address lands after 3 issue cycles. -/
def execCall (p : Pred) (d : Reg) (o : Opnd) (s : State) : Out :=
  .next (issue .s p (markO o) (fun s => do
    branchPlace s
    let y ← rdO (core s) .s o
    let t ← branchTo (pcWord s + y) s
    .ok (updCore (resX .s d ((returnAddr (core s)).setWidth 64) 3) t)) s)

/-- RET (R81). -/
def execRet (p : Pred) (a : Reg) (la : Bool) (s : State) : Out :=
  .next (issue .s p (marksOf a la) (fun s => do
    branchPlace s
    let x ← rdX (core s) .s a
    branchTo x s) s)

/-- LOOP (R83): a count of 0 goes on after the body's last bundle; any other is pushed with the body's bounds. -/
def execLoop (p : Pred) (a : Reg) (la : Bool) (o : Opnd) (s : State) : Out :=
  .next (issue .s p (marksOf a la ++ markO o) (fun s => do
    branchPlace s
    let n ← rdX (core s) .s a
    let off ← rdO (core s) .s o
    let c := core s
    if !loopOffOk c.pc.toNat off then .error (illegalOp s)
    else if 2 ^ 32 ≤ n.toNat then .error (illegalOp s)
    else
      let last : BitVec 18 := c.pc + off.setWidth 18
      if n = 0 then .ok (setCore s { c with bun := { c.bun with jump := some (following last (lenAt c last)) } })
      else if 4 ≤ c.loops.length then .error (illegalOp s)
      else .ok (setCore s { c with loops := ⟨following c.pc c.bun.len, last, n.setWidth 32⟩ :: c.loops })) s)

/-- END (R288): ILLEGAL_OP on a control core and with a SUSPENDED channel; otherwise no later bundle issues and the core
waits for its engines. -/
def execEndk (p : Pred) (s : State) : Out :=
  .next (issue .s p [] (fun s => do
    branchPlace s
    if isCtrl s.cur || (core s).chans.any (fun x => x.2.st == .suspended) then .error (illegalOp s)
    else .ok (updCore (fun c => { c with inEnd := true }) s)) s)

/-! ### CSR access (R85, R86) -/

/-- The number that a CSR instruction names: unassigned ones fault ILLEGAL_OP, and a control-core CSR named from a
compute core faults PRIV with its number (R85). -/
def csrNumber (v : Word) (s : State) : Except Exc Nat :=
  if !csrKnown v.toNat then .error (illegalOp s)
  else if csrControl v.toNat && !hollyActs s then .error (exc 0x05 v)
  else .ok v.toNat

/-- CSRR (R85): the value lands after 1 issue cycle. -/
def execCsrr (p : Pred) (d : Reg) (o : Opnd) (s : State) : Out :=
  .next (issue .s p (markO o) (fun s => do
    let y ← rdO (core s) .s o
    let n ← csrNumber y s
    let (v, t) := readCsr n s
    .ok (updCore (resX .s d v 1) t)) s)

/-- CSRW, CSRS and CSRC (R85): the old value is read at issue and lands after 1 issue cycle; the field is written. -/
def csrModify (k : CsrOp) (p : Pred) (d a : Reg) (la : Bool) (o : Opnd) (s : State) : State :=
  issue .s p (marksOf a la ++ markO o) (fun s => do
    let x ← rdX (core s) .s a
    let y ← rdO (core s) .s o
    let n ← csrNumber y s
    let (v, t) := readCsr n s
    .ok (updCore (resX .s d v 1) (issueCsr k n x t))) s

/-- CSRW (R85). -/
def execCsrw (p : Pred) (d a : Reg) (la : Bool) (o : Opnd) (s : State) : Out := .next (csrModify .wr p d a la o s)

/-- CSRS (R85). -/
def execCsrs (p : Pred) (d a : Reg) (la : Bool) (o : Opnd) (s : State) : Out := .next (csrModify .set p d a la o s)

/-- CSRC (R85). -/
def execCsrc (p : Pred) (d a : Reg) (la : Bool) (o : Opnd) (s : State) : Out := .next (csrModify .clr p d a la o s)

/-! ### TRAP and RFT (R195, R196) -/

/-- TRAP (R195): it commits, and the core takes fault TRAP with INFO := opnd, FSLOT 0 and SRES 1. -/
def execTrap (p : Pred) (o : Opnd) (s : State) : Out :=
  if predOn (core s) .s p then
    match rdO (core s) .s o with
    | .ok v => .next (takeTrap (exc 0x07 v) 1 false false (updCore (killMarks .s (markO o)) s))
    | .error e => .next (slotFault .s e s)
  else .next (updCore (killMarks .s (markO o)) s)

/-- A privileged instruction named on a compute core faults PRIV at decode (R42). -/
def privFault (s : State) : State := takeTrap (exc 0x05 ((core s).bun.word.setWidth 64)) 0 false true s

/-- RFT in either mode (R196): the status lands after 1 issue cycle, and a status of 0 resumes the core. -/
def rft (skip : Bool) (p : Pred) (d a : Reg) (s : State) : State :=
  if !isCtrl s.cur then privFault s
  else issue .s p [] (fun s => do
    let k ← rdX (core s) .s a
    let st := rftStatus s k skip
    let t := updCore (resX .s d (word st) 1) s
    .ok (if st = 0 then rftAct (8 * clusterNo s.cur + k.toNat) skip t else t)) s

/-- RFT (R196). -/
def execRft (p : Pred) (d a : Reg) (s : State) : Out := .next (rft false p d a s)

/-- RFT.SKIP (R196). -/
def execRftSkip (p : Pred) (d a : Reg) (s : State) : Out := .next (rft true p d a s)

end Sys2Proof.Machine
end

