-- ==== Sys2Proof/Machine/Channels.lean ====
section
/-! DEFINITION. The copy channels (R199 to R223): handles, staging levels, EGO with its checks, liens and guards, the
progress of copies granule by granule with watermarks and counters, channel states, waits and queries, channel faults. -/

namespace Sys2Proof.Machine

open Sys2Proof

/-! ### Channels and levels (R199, R207) -/

/-- The channel that a copy slot names by a 2-bit field (R199). -/
def chanNo (u : CU) (ch : BitVec 2) : Nat := ch.toNat + (match u with | .c0 => 0 | .c1 => 4)

/-- The slot that owns a channel (R199). -/
def chanSlot (k : Nat) : Slot := if k < 4 then .c0 else .c1

/-- A channel of a core. -/
def getChan (c : Core) (k : Nat) : Chan := Map.get c.chans k {}

/-- The core with a channel replaced. -/
def setChan (k : Nat) (ch : Chan) (c : Core) : Core := { c with chans := Map.put c.chans k ch }

/-- The acting core's channel replaced. -/
def putChan (k : Nat) (ch : Chan) (s : State) : State := updCore (setChan k ch) s

/-- The six staging levels of a channel (R207). -/
def levelsOf (ch : Chan) : List Level := (List.range 6).map (fun l => Map.get ch.levels l {})

/-- The channels that a mask of a slot names, ascending (R199). -/
def maskChans (u : CU) (mask : BitVec 4) : List Nat := (bitsOf mask).map (fun i => chanNo u (BitVec.ofNat 2 i))

/-- ESET (R208). -/
def execEset (u : CU) (p : Pred) (ch : BitVec 2) (lvl : BitVec 3) (a b e : Reg) (s : State) : Out :=
  .next (issue u.slot p [] (fun s => do
    let n ← rdX (core s) u.slot a
    let ss ← rdX (core s) u.slot b
    let ds ← rdX (core s) u.slot e
    if fld n 16 48 != 0 then .error (illegalOp s)
    else if sext32 (fld ss 0 32) != ss || sext32 (fld ds 0 32) != ds then .error (illegalOp s)
    else
      let k := chanNo u ch
      let x := getChan (core s) k
      let l : Level := ⟨fld n 0 16, fld ss 0 32, fld ds 0 32⟩
      .ok (putChan k { x with levels := Map.put x.levels lvl.toNat l } s)) s)

/-! ### Handle queries (R206) -/

/-- HQRY and HQRY.F (R206): a field of the entry, or 0. -/
def hqry (f : HEnt → Word) (u : CU) (p : Pred) (d : Reg) (o : Opnd) (s : State) : State :=
  issue u.slot p [] (fun s => do
    let y ← rdO (core s) u.slot o
    let v := match handleEnt (myCtx s) y.toNat with
      | none => 0
      | some e => f e
    .ok (updCore (resX u.slot d v 4) s)) s

/-- HQRY (R206). -/
def execHqry (u : CU) (p : Pred) (d : Reg) (o : Opnd) (s : State) : Out := .next (hqry (fun e => word (hLEN e)) u p d o s)

/-- HQRY.F (R206). -/
def execHqryF (u : CU) (p : Pred) (d : Reg) (o : Opnd) (s : State) : Out :=
  .next (hqry (fun e => e.w0 &&& 0xFFFF00000000FFFF) u p d o s)

/-- INFO of HANDLE (R185): the handle and an offset. -/
def handleInfo (h : Word) (off : Int) : Word := word ((fld h 0 16).toNat + (off % 2 ^ 48).toNat * 2 ^ 16)

/-! ### The checks of EGO (R205, R211) -/

/-- The starts of every copy of a side (R210). -/
def starts (sd : Side) (stride : Level → BitVec 32) (ls : List Level) : List Int :=
  (List.range (nestCopies ls)).map (fun n => sd.base + nestOff stride ls n)

/-- The handle check (R205); `least` is the lowest offset that a destination of EGO.SP may have (R211). -/
def checkHandle (x : Ctx) (h : Word) (sd : Side) (stride : Level → BitVec 32) (ls : List Level) (size : Nat)
    (wr : Bool) (least : Int) : Except Exc Unit :=
  let empty := nestCopies ls = 0
  let (lo, hi) := nestHull stride ls
  let first : Int := if empty then sd.base else sd.base + lo
  match (if fld h 16 48 = 0 then handleEnt x h.toNat else none) with
  | none => .error (exc 0x23 (handleInfo h first))
  | some e =>
    if empty then .ok ()
    else if !(if wr then hWR e else hRD e) then .error (exc 0x23 (handleInfo h first))
    else if first < least then .error (exc 0x23 (handleInfo h first))
    else if (hLEN e : Int) < sd.base + hi + size then
      let beyond := ((starts sd stride ls).filter (fun a => decide ((hLEN e : Int) < a + size))).map (fun a => max a.toNat (hLEN e))
      .error (exc 0x23 (handleInfo h ((lowest (fun _ => true) beyond).getD 0)))
    else .ok ()

/-- The byte ranges of every copy of a side, as addresses in its space. -/
def sideRanges (sd : Side) (stride : Level → BitVec 32) (ls : List Level) (size : Nat) : List (Nat × Nat) :=
  (starts sd stride ls).map (fun a => (sideAddr sd a.toNat, size))

/-- The lowest address at which check_race fails on some of the ranges (R250, R252). -/
def racesAt (rs : Map Region) (sp : Space) (k : Acc) (p : Path) (u : Nat) (ranges : List (Nat × Nat)) (s : State) :
    Option Nat :=
  lowest (fun _ => true) (ranges.filterMap (fun r => raceAt false rs sp k p u r.1 r.2 s))

/-- The granule tags of the ranges recorded (R251). -/
def recordAll (rs : Map Region) (sp : Space) (k : Acc) (u : Nat) (ranges : List (Nat × Nat)) (s : State) : State :=
  ranges.foldl (fun s r => recordTags s rs sp k u r.1 r.2) s

/-- The first bytes of every granule part of the ranges. -/
def rangeParts (ranges : List (Nat × Nat)) : List Nat := (ranges.map (fun r => partStarts r.1 r.2)).flatten

/-- Whether a copy goes through a peer handle: of class LK as FENCE counts it (R255). -/
def linkCopy (src dst : Side) : Bool := src.kind == 2 && src.glob || dst.kind == 2 && dst.glob

/-- Whether a hold puts an entry of channel `k` before those that it holds (R217, R255). -/
def holdCovers (h : BitVec 8 × Nat × Bool) (k : Nat) (e : Entry) : Bool :=
  h.1.getLsbD k && decide (e.seq < h.2.1) && (!h.2.2 || linkCopy e.src e.dst)

/-- Some holds with those of the entries that they put first, and so on: what comes before an entry by a chain of fences (R370). The
first argument bounds the chain. -/
def holdChain (c : Core) : Nat → List (BitVec 8 × Nat × Bool) → List (BitVec 8 × Nat × Bool)
  | 0, hs => hs
  | fuel + 1, hs =>
    let more := (c.chans.map (fun x => (x.2.q.map (fun e => if hs.any (fun h => holdCovers h x.1 e) then e.hold else [])).flatten)).flatten
    holdChain c fuel (hs ++ more).eraseDups

/-- The entries queued in a core's channels. -/
def queuedEntries (c : Core) : Nat := (c.chans.map (fun x => x.2.q.length)).foldl (· + ·) 0

/-- Whether another channel than `k` of the core has an access in flight to a range that conflicts with `acc`, of an entry that no
chain of holds puts before the new one: nothing else orders channels (R223, R370). -/
def chanClash (c : Core) (u k : Nat) (holds : List (BitVec 8 × Nat × Bool)) (acc : Acc) (sp : Space) (a n : Nat) : Bool :=
  let hs := if holds.isEmpty then [] else holdChain c (queuedEntries c) holds
  c.chans.any (fun x => x.1 != k && x.2.q.any (fun e =>
    !hs.any (fun h => holdCovers h x.1 e)
      && (entryWrites u e sp a n || (acc.writes && entryReads u e sp a n))))

/-- The lowest byte of a part of a granule that is not OPEN at which a new entry conflicts with another channel (R250, R370). -/
def chanRaceAt (rs : Map Region) (clash : Nat → Nat → Bool) (sp : Space) (a n gran : Nat) : Option Nat :=
  let lo := max a (64 * gran)
  let hi := min (a + n) (64 * gran + 64)
  if notOpen rs sp lo (hi - lo) && clash lo (hi - lo) then
    (((List.range (hi - lo)).map (· + lo)).find? (fun b => clash b 1)).or (some lo)
  else none

/-- The lowest address of some ranges at which a new entry of a channel meets a conflicting one of another channel. -/
def chanRacesAt (rs : Map Region) (clash : Nat → Nat → Bool) (sp : Space) (ranges : List (Nat × Nat)) : Option Nat :=
  lowest (fun _ => true) (ranges.filterMap (fun r => (granulesOf r.1 r.2).findSome? (chanRaceAt rs clash sp r.1 r.2)))

/-- The lower of two addresses that may be there. -/
def lowerOf (x y : Option Nat) : Option Nat := lowest (fun _ => true) (x.toList ++ y.toList)

/-- check_region on a local side (R211, R218, R234): an EGO faults at a region that is out of HELD. -/
def checkHeldAt (rs : Map Region) (ctx : BitVec 12) (sp : Space) (k : Acc) (gs : List Nat) : Except Exc Unit := do
  checkRegionAt rs ctx sp k gs
  match lowest (fun b => match admits rs ctx sp k b with | some r => r.2.st != .held | none => false) gs with
  | some b => .error (exc 0x20 (word b))
  | none => .ok ()

/-- The checks of a local side (R211): its bytes lie in scratchpad, check_region, check_race. -/
def checkLocalSide (clash : Acc → Space → Nat → Nat → Bool) (sd : Side) (stride : Level → BitVec 32) (ls : List Level) (size : Nat) (k : Acc) (s : State) :
    Except Exc State :=
  let (lo, hi) := nestHull stride ls
  if nestCopies ls = 0 then .ok s
  else if sd.base + lo < 0 then .error (exc 0x21 (BitVec.ofInt 64 (sd.base + lo)))
  else if (spSize : Int) < sd.base + hi + size then
    let beyond := ((starts sd stride ls).filter (fun a => decide ((spSize : Int) < a + size))).map (fun a => max a.toNat spSize)
    .error (exc 0x21 (word ((lowest (fun _ => true) beyond).getD 0)))
  else do
    let rs := viewRegions s
    let ranges := sideRanges sd stride ls size
    checkHeldAt rs (core s).ctx (.sp s.cur) k (rangeParts ranges)
    match lowerOf (racesAt rs (.sp s.cur) k .cp s.cur ranges s) (chanRacesAt rs (clash k (.sp s.cur)) (.sp s.cur) ranges) with
    | some b => .error (exc 0x25 (word b))
    | none => .ok (recordAll rs (.sp s.cur) k s.cur ranges s)

/-- The checks of a global side after the handle (R211, R218, R341): a lost peer, the region's paid-until, check_race with
INFO the offset (R252). DESIGN CHOICE (log 112): REGION names a region of this device's own tables in an entry of any KIND, of KIND 2
too. -/
def checkGlobalSide (clash : Acc → Space → Nat → Nat → Bool) (sd : Side) (stride : Level → BitVec 32) (ls : List Level) (size : Nat) (k : Acc) (s : State) :
    Except Exc State :=
  if nestCopies ls ≠ 0 ∧ sd.kind = 2
      ∧ (sideRanges sd stride ls size).any (fun r => peerLost s sd.unit.toNat r.1 r.2) then
    .error (exc 0x3E (word sd.hnd))
  else
    let rs := viewRegions s
    match regionOf rs sd.region with
    | none => .error (exc 0x20 (sd.region.setWidth 64))
    | some (_, r) =>
      if r.st ≠ .held then .error (exc 0x20 (sd.region.setWidth 64))
      else
        let sp := sideSpace s.cur sd
        let ranges := sideRanges sd stride ls size
        match lowerOf (racesAt rs sp k .cp s.cur ranges s) (chanRacesAt rs (clash k sp) sp ranges) with
        | some b => .error (exc 0x25 (BitVec.ofInt 64 ((b : Int) - sd.physBase)))
        | none => .ok (recordAll rs sp k s.cur ranges s)

/-- The handles of the regions that admit a local side's bytes (R218). -/
def localLiens (sd : Side) (stride : Level → BitVec 32) (ls : List Level) (size : Nat) (k : Acc) (s : State) :
    List (BitVec 32) :=
  ((rangeParts (sideRanges sd stride ls size)).filterMap (fun a =>
    (admits (viewRegions s) (core s).ctx (.sp s.cur) k a).map (fun r => handleOf r.1 r.2))).eraseDups

/-- The liens of a side (R218). -/
def sideLiens (sd : Side) (stride : Level → BitVec 32) (ls : List Level) (size : Nat) (k : Acc) (s : State) :
    List (BitVec 32) :=
  if nestCopies ls = 0 then [] else if sd.glob then [sd.region] else localLiens sd stride ls size k s

/-! ### EGO (R209 to R211, R216, R218) -/

/-- The wait of EGO (R211): a full queue, cause 8. -/
def egoWait (u : CU) (p : Pred) (ch : BitVec 2) (s : State) : Option Nat :=
  if predOn (core s) u.slot p && 4 ≤ (getChan (core s) (chanNo u ch)).q.length then some 8 else none

/-- An entry that a hold stops (R217, R255): some earlier entry on a channel of the mask is still queued. -/
def holdStands (c : Core) (h : BitVec 8 × Nat × Bool) : Bool :=
  c.chans.any (fun x => x.2.q.any (holdCovers h x.1))

/-- The holds that a new entry on channel `k` is under (R217, R255). -/
def holdsFor (c : Core) (k : Nat) (src dst : Side) : List (BitVec 8 × Nat × Bool) :=
  c.holds.filter (fun h => h.1.getLsbD k && holdStands c h && (!h.2.2 || linkCopy src dst))

/-- The entry of a nest that has passed its checks (R211). -/
def newEntry (now k : Nat) (dir : Dir) (g : Bool) (src dst : Side) (ls : List Level) (size : Nat) (liens : List (BitVec 32))
    (c : Core) : Entry :=
  let empty := nestCopies ls = 0
  let monoD := empty || nestMono Level.ds size ls 0
  { levels := ls, dir := dir, src := src, dst := dst, size := size, empty := empty
    guarded := g && !empty && monoD
    monoS := empty || nestMono Level.ss size ls 0
    monoD := monoD, seq := c.eseq, liens := liens, hold := holdsFor c k src dst
    readG := [], fillG := [], srcDone := 0, fillDone := 0, born := now }

/-- An entry joins its channel's queue; an IDLE channel becomes ACTIVE (R211, R216). -/
def addEntry (k : Nat) (e : Entry) (c : Core) : Core :=
  let ch := getChan c k
  { setChan k { ch with q := ch.q ++ [e], st := if ch.st = .idle then .active else ch.st } c with eseq := c.eseq + 1 }

/-- The checks of EGO on one side, with the kind of access (R211). -/
def checkSideHandle (x : Ctx) (h : Word) (sd : Side) (stride : Level → BitVec 32) (ls : List Level) (size : Nat)
    (wr : Bool) (least : Int) : Except Exc Unit :=
  if sd.glob then checkHandle x h sd stride ls size wr least else .ok ()

/-- EGO at issue (R211), with its two sides: `h` is the handle operand of the global one, `least` the lowest offset its
destination may have. -/
def ego (u : CU) (ch : BitVec 2) (dir : Dir) (g : Bool) (h : Word) (src dst : Side) (size : Word) (least : Int) (s : State) :
    Except Exc State :=
  let k := chanNo u ch
  let ls := levelsOf (getChan (core s) k)
  let n := size.toNat
  let x := myCtx s
  if n = 0 ∨ 4096 < n then .error (illegalOp s)
  else do
    checkSideHandle x h src Level.ss ls n false 0
    checkSideHandle x h dst Level.ds ls n true least
    let clash := chanClash (core s) s.cur k (holdsFor (core s) k src dst)
    let s1 ← if src.glob then .ok s else checkLocalSide clash src Level.ss ls n .read s
    let s2 ← if dst.glob then .ok s1 else checkLocalSide clash dst Level.ds ls n .write s1
    let s3 ← if src.glob then checkGlobalSide clash src Level.ss ls n .read s2 else .ok s2
    let s4 ← if dst.glob then checkGlobalSide clash dst Level.ds ls n .write s3 else .ok s3
    let liens := (sideLiens src Level.ss ls n .read s ++ sideLiens dst Level.ds ls n .write s).eraseDups
    .ok (updCore (fun c => addEntry k (newEntry s.now k dir g src dst ls n liens c) c) (refreshTakes s4))

/-- The shared issue of EGO: the wait, then the body. -/
def egoIssue (u : CU) (p : Pred) (ch : BitVec 2) (body : State → Except Exc State) (s : State) : State :=
  match egoWait u p ch s with
  | some cause => freeze cause s
  | none => issue u.slot p [] body s

/-- EGO.LD and EGO.G: from a handle to scratchpad (R209). -/
def execEgoLd (u : CU) (p : Pred) (ch : BitVec 2) (g : Bool) (a b e : Reg) (s : State) : Out :=
  .next (egoIssue u p ch (fun s => do
    let h ← rdX (core s) u.slot a
    let off ← rdX (core s) u.slot (nextReg a)
    let d ← rdX (core s) u.slot b
    let n ← rdX (core s) u.slot e
    ego u ch .ld g h (globalSide (myCtx s) h off.toNat) (localSide d) n 0 s) s)

/-- EGO.ST: from scratchpad to a handle (R209). -/
def execEgoSt (u : CU) (p : Pred) (ch : BitVec 2) (a b e : Reg) (s : State) : Out :=
  .next (egoIssue u p ch (fun s => do
    let h ← rdX (core s) u.slot a
    let off ← rdX (core s) u.slot (nextReg a)
    let d ← rdX (core s) u.slot b
    let n ← rdX (core s) u.slot e
    ego u ch .st false h (localSide d) (globalSide (myCtx s) h off.toNat) n 0 s) s)

/-- EGO.LL: within scratchpad (R209). -/
def execEgoLl (u : CU) (p : Pred) (ch : BitVec 2) (g : Bool) (a b e : Reg) (s : State) : Out :=
  .next (egoIssue u p ch (fun s => do
    let x ← rdX (core s) u.slot a
    let d ← rdX (core s) u.slot b
    let n ← rdX (core s) u.slot e
    ego u ch .ll g 0 (localSide x) (localSide d) n 0 s) s)

/-- The new offset of the overflow area (R211): the extent's end, rounded up to 64, past the old one. -/
def nextOvp (off : BitVec 48) (ls : List Level) (size : Nat) : BitVec 48 :=
  let stop : Nat := if nestCopies ls = 0 then 0 else ((nestHull Level.ds ls).2 + size).toNat
  off + BitVec.ofNat 48 (64 * ((stop + 63) / 64))

/-- EGO.SP: from scratchpad to the overflow area (R209, R211): k[a] receives the offset used. -/
def execEgoSp (u : CU) (p : Pred) (ch : BitVec 2) (a b e : Reg) (s : State) : Out :=
  .next (egoIssue u p ch (fun s => do
    let d ← rdX (core s) u.slot b
    let n ← rdX (core s) u.slot e
    let q := (core s).csr
    let h := q.ovpHnd.setWidth 64
    let ls := levelsOf (getChan (core s) (chanNo u ch))
    let t ← ego u ch .sp false h (localSide d) (globalSide (myCtx s) h q.ovpOff.toNat) n q.ovpOff.toNat s
    .ok (updCore (fun c => resX u.slot a (q.ovpOff.setWidth 64) 1
      { c with csr := { c.csr with ovpOff := nextOvp q.ovpOff ls n.toNat } }) t)) s)

/-! ### Progress (R212 to R216, R221) -/

/-- The entry, its place in the queue and the copy in it that the n-th copy of a channel's stream is, counted from the
queue's head. -/
def locate : List Entry → Nat → Nat → Option (Nat × Entry × Nat)
  | [], _, _ => none
  | e :: es, i, n => if n < entryCopies e then some (i, e, n) else locate es (i + 1) (n - entryCopies e)

/-- The watermark value that an end offset gives. -/
def markWord (a : Int) : Word := BitVec.ofInt 64 a

/-- The counters, watermarks and queue of a channel after its copies have moved (R213, R214): `so` and `fo` tell whether
every earlier copy of the stream is counted by CCS and by CCF; an empty nest counts by its own step. -/
def advanceQ (so fo : Bool) (ch : Chan) : List Entry → Chan
  | [] => ch
  | e :: es =>
    if e.empty then advanceQ false false { ch with q := ch.q ++ [e] } es
    else
      let n := entryCopies e
      let sd := if so then donePrefix (copyRead e) (n - e.srcDone) e.srcDone else e.srcDone
      let fd := if fo then donePrefix (copyFilled e) (sd - e.fillDone) e.fillDone else e.fillDone
      let ch1 : Chan := { ch with
        ccs := ch.ccs + BitVec.ofNat 32 (sd - e.srcDone)
        ccf := ch.ccf + BitVec.ofNat 32 (fd - e.fillDone)
        wms := if e.srcDone < sd then markWord (copySrc e (sd - 1) + e.size) else ch.wms
        wmf := if e.fillDone < fd then markWord (copyDst e (fd - 1) + e.size) else ch.wmf }
      let e1 : Entry := { e with
        srcDone := sd, fillDone := fd
        readG := e.readG.filter (fun x => fd ≤ x.1)
        fillG := e.fillG.filter (fun x => fd ≤ x.1) }
      if fd = n then advanceQ (so && sd == n) fo ch1 es
      else advanceQ (so && sd == n) false { ch1 with q := ch1.q ++ [e1] } es

/-- A channel after progress: completed entries have left, and an ACTIVE channel with none left is IDLE (R216). -/
def progress (ch : Chan) (es : List Entry) : Chan :=
  let x := advanceQ true true { ch with q := [] } es
  { x with st := if x.st = .active ∧ x.q.isEmpty then .idle else x.st }

/-- The acting core's channel after progress; liens of completed entries are gone (R218, R234). -/
def putProgress (k : Nat) (es : List Entry) (s : State) : State :=
  settle (updCore (fun c => setChan k (progress (getChan c k) es) c) s)

/-- An ACTIVE channel stops at a granule (R221): it is FAULTED with the fault pending; word 3 holds the channel and the side, and
INFO the local address or the offset (R222). -/
def stopChan (k code : Nat) (info : Word) (dst : Bool) (s : State) : State :=
  let f : Exc := { code := code, info := info, fslot := (chanSlot k).num, defer := true, w3 := word (k + boolNat dst * 8) }
  let ch := getChan (core s) k
  if ch.st = .active then putChan k { ch with st := .faulted, fault := some f, delivered := false } s else s

/-- The local address or the handle offset of an address in a side's space (R222). -/
def sideInfo (sd : Side) (a : Nat) : Word := if sd.glob then BitVec.ofInt 64 ((a : Int) - sd.physBase) else word a

/-- Whether a side's peer has been lost while the copy was in flight (R341). -/
def sideLost (lost : List Nat) (sd : Side) : Bool := sd.glob && sd.kind == 2 && lost.contains sd.unit.toNat

/-- The fault that a peer side of a copy takes (R340, R341): LINK_PEER_LOST if the peer has been lost while the copy was in flight,
whatever followed, or what the access meets now. -/
def peerSideFault (lost : List Nat) (s : State) (sd : Side) (k : Acc) (a n : Nat) : Option Nat :=
  if !sd.glob || sd.kind != 2 then none
  else if sideLost lost sd then some 0x3E
  else peerFault true s sd.unit.toNat a n k.writes

/-- What a side's part of a granule of an entry issued in the reference cycle `e.born` meets when it moves (R221, R252, R340, R341):
a fault code with INFO, if one. -/
def moveFault (e : Entry) (s : State) (sd : Side) (k : Acc) (a n : Nat) : Option (Nat × Word) :=
  let sp := sideSpace s.cur sd
  match peerSideFault e.lost s sd k a n with
  | some code => some (code, sideInfo sd a)
  | none => match raceAt true (regionsSince e.born s) sp k .cp s.cur a n s with
    | some b => some (0x25, sideInfo sd b)
    | none =>
      if k = .read then (spacePoison s sp a n).map (fun g => (0x11, sideInfo sd (64 * g) ||| word (2 ^ 63)))
      else none

/-- An access of a copy issued in the reference cycle `born` that has passed its checks is recorded: in the granule tags, under the epoch
of its issue (R251, R260), and against other paths (R250). -/
def noteMove (born : Nat) (sp : Space) (k : Acc) (a n : Nat) (s : State) : State :=
  noteTake s.cur .cp k sp a n (recordTags s (regionsSince born s) sp k s.cur a n)

/-- Whether a side is device or strongly ordered memory (R247). -/
def ordered (e : Entry) : Bool := (e.src.glob && 2 ≤ e.src.mtype.toNat) || (e.dst.glob && 2 ≤ e.dst.mtype.toNat)

/-- Whether every granule of the copies of an entry below `n`, and of copy `n` below `g`, satisfies `done`. -/
def earlierDone (done : Nat → Nat → Bool) (e : Entry) (n g : Nat) : Bool :=
  (List.range n).all (fun i => (List.range (copyGrans e i)).all (done i)) && (List.range g).all (done n)

/-- Whether another channel of the core has a granule of ordered memory in flight (R247). -/
def orderedElsewhere (c : Core) (k : Nat) : Bool :=
  c.chans.any (fun x => x.1 != k && x.2.st != .faulted && x.2.q.any (fun e => ordered e && e.readG.any (fun r => !granFilled e r.1 r.2.1)))

/-- Whether a side is strongly ordered memory (R247). -/
def strong (e : Entry) : Bool := (e.src.glob && e.src.mtype == 3) || (e.dst.glob && e.dst.mtype == 3)

/-- Whether a granule of strongly ordered memory, other than granule `g` of copy `n` of the entry `e`, is in flight on some channel of
the core: no other access of the copy path starts beside it (R247). -/
def strongFlying (c : Core) (e : Entry) (n g : Nat) : Bool :=
  c.chans.any (fun x => x.2.st != .faulted && x.2.q.any (fun o => strong o
    && o.readG.any (fun r => !granFilled o r.1 r.2.1 && !(o.seq == e.seq && r.1 == n && r.2.1 == g))))

/-- Whether the order of ordered memory lets granule `g` of copy `n` of the entry at place `i` move (R247). -/
def orderLets (c : Core) (k : Nat) (es : List Entry) (i : Nat) (e : Entry) (n g : Nat) (st : CopyStage) : Bool :=
  !strongFlying c e n g && (!ordered e ||
    match st with
    | .read => !orderedElsewhere c k
        && (es.take i).all (fun x => (List.range (entryCopies x)).all (copyFilled x))
        && earlierDone (granFilled e) e n g
    | .fill => (es.take i).all (fun x => (List.range (entryCopies x)).all (copyFilled x)) && earlierDone (granFilled e) e n g)

/-- Whether the granule may be read now: the channel emits, no hold stands, the order allows it (R216, R217). -/
def mayRead (c : Core) (k : Nat) (ch : Chan) (i : Nat) (e : Entry) (n g : Nat) : Bool :=
  ch.st == .active && !e.hold.any (holdStands c) && g < copyGrans e n && !granRead e n g && orderLets c k ch.q i e n g .read

/-- The address in the source's space of a granule's bytes, and their number (R212). -/
def granSrc (e : Entry) (n g : Nat) : Nat × Nat :=
  let (o, len) := granBytes (copyDst e n).toNat e.size g
  (sideAddr e.src ((copySrc e n).toNat + o), len)

/-- The address in the destination's space of a granule's bytes, and their number (R212). DESIGN CHOICE (log 113): granules are cut on the
side's offset, whatever the entry's BASE. -/
def granDst (e : Entry) (n g : Nat) : Nat × Nat :=
  let (o, len) := granBytes (copyDst e n).toNat e.size g
  (sideAddr e.dst ((copyDst e n).toNat + o), len)

/-- Whether the granule may be written now: it has been read, and the channel is ACTIVE, or SUSPENDED, whose granules in flight
complete; in a FAULTED channel no copy moves (R216). -/
def mayFill (c : Core) (k : Nat) (ch : Chan) (i : Nat) (e : Entry) (n g : Nat) : Bool :=
  (ch.st == .active || ch.st == .suspended)
    && g < copyGrans e n && granRead e n g && !granFilled e n g && orderLets c k ch.q i e n g .fill

/-- The sides of copy `n` in scratchpads, whose banks must be FULL before it starts (R63). -/
def copySpaces (s : State) (e : Entry) (n : Nat) : List (Space × Nat × Nat) :=
  [(sideSpace s.cur e.src, sideAddr e.src (copySrc e n).toNat, e.size),
   (sideSpace s.cur e.dst, sideAddr e.dst (copyDst e n).toNat, e.size)].filter (fun x => match x.1 with | .sp _ => true | _ => false)

/-- What must be ready before granule `g` of copy `n` is read (R63): its source; and as the copy's first granule starts it, every
scratchpad bank of both its sides. -/
def readSpaces (s : State) (e : Entry) (n g : Nat) : List (Space × Nat × Nat) :=
  (if (List.range (copyGrans e n)).any (granRead e n) then [] else copySpaces s e n) ++ [(sideSpace s.cur e.src, granSrc e n g)]

/-- Whether some ranges are ready for an engine's access. -/
def allReady (s : State) (xs : List (Space × Nat × Nat)) : Bool := xs.all (fun x => spaceReady s x.1 x.2.1 x.2.2)

/-- The banks of some ranges that sleep start their wakes (R63). -/
def wakeAll (xs : List (Space × Nat × Nat)) (s : State) : State := xs.foldl (fun s x => spaceWake x.1 x.2.1 x.2.2 s) s

/-- Whether granule `g` of copy `n` can be read now: the other side's peer has not been lost meanwhile, and its banks are FULL (R63,
R341). -/
def readReady (s : State) (e : Entry) (n g : Nat) : Bool := !sideLost e.lost e.dst && allReady s (readSpaces s e n g)

/-- Whether granule `g` of copy `n` can be written now. -/
def fillReady (s : State) (e : Entry) (n g : Nat) : Bool :=
  !sideLost e.lost e.src && spaceReady s (sideSpace s.cur e.dst) (granDst e n g).1 (granDst e n g).2

/-- The fault that stops granule `g` of copy `n` as it is read or written (R221, R341): what its own side meets, or that the other
side's peer has been lost; with INFO, and whether the side is the destination. -/
def stageFault (e : Entry) (s : State) (st : CopyStage) (n g : Nat) : Option (Nat × Word × Bool) :=
  let src := granSrc e n g
  let dst := granDst e n g
  match st with
  | .read => match moveFault e s e.src .read src.1 src.2 with
    | some (code, info) => some (code, info, false)
    | none => if sideLost e.lost e.dst then some (0x3E, sideInfo e.dst dst.1, true) else none
  | .fill => match moveFault e s e.dst .write dst.1 dst.2 with
    | some (code, info) => some (code, info, true)
    | none => if sideLost e.lost e.src then some (0x3E, sideInfo e.src src.1, false) else none

/-- Granule `g` of copy `n` is read (R212), unless banks wake first or the copy faults. -/
def readGranule (k i : Nat) (e : Entry) (n g : Nat) (s : State) : State :=
  let sp := sideSpace s.cur e.src
  let (a, len) := granSrc e n g
  match stageFault e s .read n g with
  | some (code, info, dst) => stopChan k code info dst s
  | none =>
    if !allReady s (readSpaces s e n g) then wakeAll (readSpaces s e n g) s
    else
      let es := (getChan (core s) k).q
      noteMove e.born sp .read a len <| noteReads sp a len (putProgress k (es.set i { e with readG := e.readG ++ [(n, g, spaceRead s sp a len)] }) s)

/-- The bytes that a granule's read gave. -/
def heldBytes (e : Entry) (n g : Nat) : List Byte :=
  match e.readG.find? (fun x => x.1 == n && x.2.1 == g) with
  | some x => x.2.2
  | none => []

/-- Granule `g` of copy `n` is written at its destination (R212), unless a bank wakes first or the copy faults. -/
def fillGranule (k i : Nat) (e : Entry) (n g : Nat) (s : State) : State :=
  let sp := sideSpace s.cur e.dst
  let (a, len) := granDst e n g
  match stageFault e s .fill n g with
  | some (code, info, dst) => stopChan k code info dst s
  | none =>
    if !spaceReady s sp a len then spaceWake sp a len s
    else
      let s1 := spaceWrite s.cur sp a (heldBytes e n g) s
      let es := (getChan (core s1) k).q
      putProgress k (es.set i { e with fillG := e.fillG ++ [(n, g)] }) (noteMove e.born sp .write a len s1)

/-- The marker of an empty nest at the head of the stream counts once in each counter and leaves (R214). -/
def countMarker (k : Nat) (s : State) : State :=
  let ch := getChan (core s) k
  let s1 := putChan k { ch with ccs := ch.ccs + 1, ccf := ch.ccf + 1, q := ch.q.tail } s
  putProgress k ch.q.tail s1

/-- A stage of a granule of a channel's stream takes place, where the channel's state lets it (R212 to R216). -/
def moveCopy (k n g : Nat) (st : CopyStage) (s : State) : State :=
  let c := core s
  let ch := getChan c k
  match locate ch.q 0 n with
  | none => s
  | some (i, e, j) =>
    if e.empty then
      if i = 0 ∧ ch.st = .active ∧ !e.hold.any (holdStands c) then countMarker k s else s
    else match st with
      | .read => if mayRead c k ch i e j g then readGranule k i e j g s else s
      | .fill => if mayFill c k ch i e j g then fillGranule k i e j g s else s

/-- COPY_COMPLETE (R213): a stage of granule `gran` of the n-th copy of a channel's stream. -/
def execCopyComplete (ch : BitVec 3) (copy gran : Nat) (st : CopyStage) (s : State) : Out :=
  .next (moveCopy ch.toNat copy gran st s)

/-- The first granule of a channel's stream that has not been read: place, entry, copy, granule. -/
def firstUnread (es : List Entry) : Option (Nat × Entry × Nat × Nat) :=
  match (List.range es.length).zip es |>.find? (fun x => !x.2.empty && x.2.srcDone < entryCopies x.2
      && !(List.range (entryCopies x.2)).all (copyRead x.2)) with
  | none => none
  | some (i, e) =>
    match (List.range (entryCopies e)).find? (fun n => !copyRead e n) with
    | none => none
    | some n => match (List.range (copyGrans e n)).find? (fun g => !granRead e n g) with
      | none => none
      | some g => some (i, e, n, g)

/-- COPY_FAULT (R221): a channel whose next granule meets a cause stops there; otherwise nothing happens. -/
def execCopyFault (ch : BitVec 3) (s : State) : Out :=
  let k := ch.toNat
  let x := getChan (core s) k
  .next (match firstUnread x.q with
    | none => s
    | some (i, e, n, g) =>
      if !mayRead (core s) k x i e n g then s
      else match stageFault e s .read n g with
        | some (code, info, dst) => stopChan k code info dst s
        | none => s)

/-! ### Channel states (R216, R217) -/

/-- An instruction on a mask of channels, in ascending order (R217). -/
def onMask (f : Nat → State → State) (u : CU) (p : Pred) (mask : BitVec 4) (s : State) : State :=
  issue u.slot p [] (fun s => .ok ((maskChans u mask).foldl (fun s k => f k s) s)) s

/-- ESUSP on a channel (R216). -/
def suspendChan (k : Nat) (s : State) : State :=
  let ch := getChan (core s) k
  if ch.st = .active then putChan k { ch with st := .suspended } s else s

/-- ESUSP (R217). -/
def execEsusp (u : CU) (p : Pred) (mask : BitVec 4) (s : State) : Out := .next (onMask suspendChan u p mask s)

/-- ERES on a channel (R216): a SUSPENDED one is ACTIVE, and a FAULTED one once its fault has been delivered. -/
def resumeChan (k : Nat) (s : State) : State :=
  let ch := getChan (core s) k
  if ch.st = .suspended ∨ (ch.st = .faulted ∧ ch.delivered) then
    putChan k { ch with st := .active, fault := none, delivered := false } s
  else s

/-- ERES (R217). -/
def execEres (u : CU) (p : Pred) (mask : BitVec 4) (s : State) : Out := .next (onMask resumeChan u p mask s)

/-- The granules of an entry in flight: read and not yet written. -/
def flying (e : Entry) : List (Nat × Nat) :=
  (e.readG.filter (fun x => !granFilled e x.1 x.2.1)).map (fun x => (x.1, x.2.1))

/-- A granule in flight completes when its channel is cancelled, unless its write faults (R216, R221, R252). -/
def landGranule (e : Entry) (s : State) (x : Nat × Nat) : State :=
  let sp := sideSpace s.cur e.dst
  let (a, len) := granDst e x.1 x.2
  if (stageFault e s .fill x.1 x.2).isSome then s
  else noteMove e.born sp .write a len (spaceWrite s.cur sp a (heldBytes e x.1 x.2) s)

/-- ECAN on a channel (R216): granules in flight complete, and the other copies are dropped with guards and liens. -/
def cancelChan (k : Nat) (s : State) : State :=
  let ch := getChan (core s) k
  if ch.st = .idle then s
  else
    let s1 := ch.q.foldl (fun s e => (flying e).foldl (landGranule e) s) s
    settle (putChan k { getChan (core s1) k with st := .idle, q := [], fault := none, delivered := false } s1)

/-- ECAN (R217). -/
def execEcan (u : CU) (p : Pred) (mask : BitVec 4) (s : State) : Out := .next (onMask cancelChan u p mask s)

/-- ECLR (R207, R217): levels, watermarks and counters are reset; a channel that is not IDLE makes it fault with no change. -/
def execEclr (u : CU) (p : Pred) (mask : BitVec 4) (s : State) : Out :=
  .next (issue u.slot p [] (fun s =>
    if (maskChans u mask).any (fun k => (getChan (core s) k).st != .idle) then .error (illegalOp s)
    else .ok ((maskChans u mask).foldl (fun s k => putChan k {} s) s)) s)

/-- The holds of a core that still stand, with a new one (R217). -/
def addHold (mask : BitVec 8) (lk : Bool) (c : Core) : Core :=
  { c with holds := c.holds.filter (holdStands c) ++ [(mask, c.eseq, lk)] }

/-- CFENCE (R217). -/
def execCfence (u : CU) (p : Pred) (mask : BitVec 4) (s : State) : Out :=
  .next (issue u.slot p [] (fun s =>
    let m : BitVec 8 := (maskChans u mask).foldl (fun m k => m ||| (1#8 <<< k)) 0
    .ok (if mask = 0 then s else updCore (addHold m false) s)) s)

/-! ### Waiting and reading progress (R219, R220) -/

/-- The conditions of WAITW (R219). -/
inductive WaitKind where
  | f | sr | cf | cs
  deriving DecidableEq, Repr

/-- Whether a counter has reached a value (R219). -/
def counterReached (n v : BitVec 32) : Bool := decide ((n - v).toNat < 2 ^ 31)

/-- Whether a condition of WAITW holds (R219). -/
def waitHolds (w : WaitKind) (ch : Chan) (v : Word) : Bool :=
  match w with
  | .f => v.ule ch.wmf
  | .sr => v.ule ch.wms
  | .cf => counterReached ch.ccf (fld v 0 32)
  | .cs => counterReached ch.ccs (fld v 0 32)

/-- The value that WAITW waits for (R219). -/
def waitValue (c : Core) (u : CU) (base : Option Reg) (o : Opnd) : Word :=
  (match base with | some a => rawX c u.slot a | none => 0) + rawO c u.slot o

/-- The wait of WAITW (R219), cause 9: its condition does not hold and the channel is ACTIVE. -/
def waitwWait (w : WaitKind) (u : CU) (p : Pred) (ch : BitVec 2) (base : Option Reg) (o : Opnd) (s : State) : Option Nat :=
  let c := core s
  let x := getChan c (chanNo u ch)
  if predOn c u.slot p && !waitHolds w x (waitValue c u base o) && x.st == .active then some 9 else none

/-- A channel's fault counts as delivered (R222). -/
def markDelivered (k : Nat) (c : Core) : Core := setChan k { getChan c k with delivered := true } c

/-- The fault of a FAULTED channel that WAITW meets, delivered before or not (R219, R222). -/
def waitwFault (w : WaitKind) (u : CU) (p : Pred) (ch : BitVec 2) (base : Option Reg) (o : Opnd) (s : State) : Option Exc :=
  let c := core s
  let x := getChan c (chanNo u ch)
  if predOn c u.slot p && !waitHolds w x (waitValue c u base o) then x.fault else none

/-- WAITW (R219): it waits, issues with its condition, takes the channel's fault, or faults where nothing can help it. -/
def waitw (w : WaitKind) (u : CU) (p : Pred) (ch : BitVec 2) (base : Option Reg) (o : Opnd) (s : State) : State :=
  match waitwWait w u p ch base o s, waitwFault w u p ch base o s with
  | some cause, _ => freeze cause s
  | none, some f => slotFault u.slot f (updCore (markDelivered (chanNo u ch)) s)
  | none, none =>
    issue u.slot p [] (fun s =>
      let c := core s
      let k := chanNo u ch
      if waitHolds w (getChan c k) (waitValue c u base o) then .ok s else .error (illegalOp s)) s

/-- WAITW.F (R219). -/
def execWaitwF (u : CU) (p : Pred) (ch : BitVec 2) (base : Option Reg) (o : Opnd) (s : State) : Out :=
  .next (waitw .f u p ch base o s)

/-- WAITW.S (R219). -/
def execWaitwS (u : CU) (p : Pred) (ch : BitVec 2) (base : Option Reg) (o : Opnd) (s : State) : Out :=
  .next (waitw .sr u p ch base o s)

/-- WAITW.CF (R219). -/
def execWaitwCF (u : CU) (p : Pred) (ch : BitVec 2) (base : Option Reg) (o : Opnd) (s : State) : Out :=
  .next (waitw .cf u p ch base o s)

/-- WAITW.CS (R219). -/
def execWaitwCS (u : CU) (p : Pred) (ch : BitVec 2) (base : Option Reg) (o : Opnd) (s : State) : Out :=
  .next (waitw .cs u p ch base o s)

/-- CWM (R220). -/
def execCwm (u : CU) (p : Pred) (d : Reg) (ch : BitVec 2) (item : BitVec 2) (s : State) : Out :=
  .next (issue u.slot p [] (fun s =>
    let x := getChan (core s) (chanNo u ch)
    let v : Word := match item.toNat with
      | 0 => x.wmf | 1 => x.wms | 2 => x.ccf.setWidth 64 | _ => x.ccs.setWidth 64
    .ok (updCore (resX u.slot d v 1) s)) s)

/-- EQRY item 0 (R220). DESIGN CHOICE (log 114): FENCED is also 1 for an entry that a FENCE holds (R255). -/
def eqryState (c : Core) (ch : Chan) : Word :=
  let head := match ch.q with
    | [] => 0
    | e :: _ => boolNat e.guarded * 2 ^ 5 + boolNat e.monoD * 2 ^ 6 + boolNat e.monoS * 2 ^ 7 + e.dir.code * 2 ^ 8
  word (ch.st.code + ch.q.length * 4 + head + boolNat (ch.q.any (fun e => e.hold.any (holdStands c))) * 2 ^ 10)

/-- The indices of the head entry's oldest incomplete copy; zero in an empty nest and with no entry (R220). -/
def headIdx (ch : Chan) : List Nat :=
  match ch.q with
  | [] => List.replicate 6 0
  | e :: _ => if e.empty then List.replicate 6 0 else nestIdx e.levels e.fillDone

/-- The granules of that copy already moved (R220). -/
def headGran (ch : Chan) : Nat :=
  match ch.q with
  | [] => 0
  | e :: _ => ((List.range (copyGrans e e.fillDone)).filter (granFilled e e.fillDone)).length

/-- EQRY items 1 and 2 (R220). -/
def eqryItem (x : Chan) (item : Nat) : Word :=
  let ix := headIdx x
  let i (n : Nat) : Nat := (ix[n]?).getD 0 % 2 ^ 16
  if item = 1 then word (i 0 + i 1 * 2 ^ 16 + i 2 * 2 ^ 32 + i 3 * 2 ^ 48)
  else word (i 4 + i 5 * 2 ^ 16 + headGran x % 2 ^ 16 * 2 ^ 32)

/-- EQRY (R220). -/
def execEqry (u : CU) (p : Pred) (d : Reg) (ch : BitVec 2) (item : BitVec 2) (s : State) : Out :=
  .next (issue u.slot p [] (fun s =>
    let c := core s
    let x := getChan c (chanNo u ch)
    let v : Word := match item.toNat with
      | 0 => eqryState c x
      | n => eqryItem x n
    .ok (updCore (resX u.slot d v 1) s)) s)

/-! ### Guards and delivery (R27, R215, R222) -/

/-- What a slot access meets at a guarded range of its core (R27, R215). -/
inductive Guarded where
  | free | waits | fault (e : Exc) | delivers
  deriving DecidableEq, Repr

/-- The lowest byte of a range that lies in an entry's guarded range above its fill point. -/
def guardByte (e : Entry) (a n : Nat) : Option Nat := if guardHits e a n then some (max a (fillPoint e)) else none

/-- What one range meets at one channel. -/
def guardAt (a n : Nat) (ch : Chan) : Guarded :=
  match lowest (fun _ => true) (ch.q.filterMap (fun e => guardByte e a n)) with
  | none => .free
  | some b => match ch.st with
    | .suspended => .fault (exc 0x25 (word b))
    | .faulted => if ch.fault.isSome then .delivers else .free
    | _ => .waits

/-- What a slot's accesses meet: the pending fault of a FAULTED channel, which the bundle delivers, else the RACE of the lowest
SUSPENDED one, else a wait (R215, R222). -/
def guardOutcome (c : Core) (as : List (Nat × Nat)) : Guarded :=
  let rs := (c.chans.map (fun x => as.map (fun r => guardAt r.1 r.2 x.2))).flatten
  if rs.any (· == .delivers) then .delivers
  else match rs.find? (fun r => match r with | .fault _ => true | _ => false) with
  | some r => r
  | none => if rs.any (fun r => r == .waits) then .waits else .free

/-- The pending channel fault that a bundle with an instruction of a copy slot delivers (R222), with its channel. -/
def pendingChan (c : Core) (sl : Slot) : Option (Nat × Exc) :=
  match List.find? (fun x : Nat × Chan => chanSlot x.1 == sl && x.2.fault.isSome && !x.2.delivered) c.chans with
  | some (k, x) => x.fault.map (fun f => (k, f))
  | none => none

/-- A peer is lost (R341): a copy in flight that touches it stops where it stands, whatever follows. -/
def loseCopies (p g : Nat) (s : State) : State :=
  let c := coreAt s g
  c.chans.foldl (fun s x =>
    let touches (sd : Side) : Bool := sd.glob && sd.kind == 2 && sd.unit.toNat == p
    match x.2.q.find? (fun e => !e.empty && (touches e.src || touches e.dst) && !(flying e).isEmpty) with
    | some e =>
      let n := e.fillDone
      let gr := ((List.range (copyGrans e n)).find? (fun j => !granFilled e n j)).getD 0
      let dst := touches e.dst
      let sd := if dst then e.dst else e.src
      let a := if dst then (granDst e n gr).1 else (granSrc e n gr).1
      if x.2.st = .active then
        { stopChan x.1 0x3E (sideInfo sd a) dst { s with cur := g } with cur := s.cur }
      else s
    | none => s) s

/-- The entries of a core that touch a lost peer, marked: their copies fault, even if the peer is redirected (R341). -/
def markLost (p : Nat) (c : Core) : Core :=
  let touches (sd : Side) : Bool := sd.glob && sd.kind == 2 && sd.unit.toNat == p
  { c with chans := c.chans.map (fun x => (x.1, { x.2 with q := x.2.q.map (fun e =>
      if touches e.src || touches e.dst then { e with lost := e.lost ++ [p] } else e) })) }

end Sys2Proof.Machine
end

