-- ==== Sys2Proof/Machine/Power.lean ====
section
/-! DEFINITION. Power and clocks (R345 to R350): the change of an engine's divisor with its drain, and the energy grants that
Holly computes from its budget. -/

namespace Sys2Proof.Machine

open Sys2Proof

/-! ### CLKDIV (R349) -/

/-- The slot that an engine's results come from; a control core's clock waits for every result. -/
def engineSlot (e : Engine) (sl : Slot) : Bool :=
  match e with
  | .v => isV sl
  | .m => sl == .m
  | .c => sl == .c0 || sl == .c1
  | .k => true

/-- Whether an engine of a core is drained (R349): its results have landed, and for the matrix engine the call queue is
empty, the MSQLs have read their entries and the status values have landed. -/
def drained (e : Engine) (c : Core) : Bool :=
  !c.pend.any (fun l => engineSlot e l.src)
    && (e != .m || (c.pme.calls.isEmpty && c.pme.msqls.all (fun m => m.count ≤ m.read) && c.pme.samples.isEmpty))

/-- The core with an engine's divisor set; the code is the divisor less one (R348). -/
def setDivisor (e : Engine) (d : BitVec 2) (c : Core) : Core :=
  match e with
  | .v => { c with csr := { c.csr with vdiv := d } }
  | .m => { c with csr := { c.csr with mdiv := d } }
  | .c => { c with csr := { c.csr with cdiv := d } }
  | .k => { c with csr := { c.csr with kdiv := d } }

/-- CLKDIV (R349): the operand must be 1 to 4, and 4 in QUICKSET (R353); the change waits for the drain. -/
def clkdiv (e : Engine) (p : Pred) (o : Opnd) (s : State) : State :=
  issue .s p (markO o) (fun s => do
    let d ← rdO (core s) .s o
    if d.toNat < 1 ∨ 4 < d.toNat then .error (illegalOp s)
    else if (e == .k) != isCtrl s.cur then .error (illegalOp s)
    else if s.dev.st = .quickset ∧ d ≠ 4 then .error (illegalOp s)
    else .ok (updCore (fun c => { c with drain := some (e, BitVec.ofNat 2 (d.toNat - 1)) }) s)) s

/-- CLKDIV.V (R349). -/
def execClkdivV (p : Pred) (o : Opnd) (s : State) : Out := .next (clkdiv .v p o s)

/-- CLKDIV.M (R349). -/
def execClkdivM (p : Pred) (o : Opnd) (s : State) : Out := .next (clkdiv .m p o s)

/-- CLKDIV.C (R349). -/
def execClkdivC (p : Pred) (o : Opnd) (s : State) : Out := .next (clkdiv .c p o s)

/-- CLKDIV.K (R349). -/
def execClkdivK (p : Pred) (o : Opnd) (s : State) : Out := .next (clkdiv .k p o s)

/-- The end of a drain (R349): once the engine is drained its divisor changes. -/
def endDrain (c : Core) : Core :=
  match c.drain with
  | none => c
  | some (e, d) => if drained e c then setDivisor e d { c with drain := none } else c

/-- CLKDIV_DRAIN_END (R349). -/
def execClkdivDrainEnd (s : State) : Out := .next (updCore endDrain s)

/-! ### Grants (R350) -/

/-- The cores that run contexts of a tier, with their demands, ascending (R350). -/
def tierCores (s : State) (t : Nat) : List (Nat × Nat) :=
  (s.cores.filter (fun x => x.1 < 256 && holding x.2 && (ctxAt s x.2.ctx).tier.toNat == t)).map
    (fun x => (x.1, (ctxAt s x.2.ctx).demand))

/-- A sum of demands. -/
def sumDemand (cs : List (Nat × Nat)) : Nat := cs.foldl (fun n x => n + x.2) 0

/-- A tier's units shared equally among its cores, each capped at its demand, the remainder one unit at a time to
ascending cores (R350). -/
def shareOut : (fuel g : Nat) → List (Nat × Nat) → List (Nat × Nat)
  | 0, _, _ => []
  | fuel + 1, g, cs =>
    let q := g / cs.length
    let small := cs.filter (fun x => x.2 ≤ q)
    let big := cs.filter (fun x => !decide (x.2 ≤ q))
    if small.isEmpty then
      (List.range big.length).zipWith (fun i x => (x.1, q + boolNat (decide (i < g - q * cs.length)))) big
    else small ++ shareOut fuel (g - sumDemand small) big

/-- The units of the four tiers (R350): floors first, then the surplus in tier order. -/
def tierUnits (b : Nat) (floors demands : List Nat) : List Nat :=
  let low := (List.range 4).map (fun t => min ((demands[t]?).getD 0) ((floors[t]?).getD 0 * b / 256))
  let spare := b - low.foldl (· + ·) 0
  ((List.range 4).foldl (fun (acc : List Nat × Nat) t =>
    let x := min ((demands[t]?).getD 0 - (low[t]?).getD 0) acc.2
    (acc.1 ++ [(low[t]?).getD 0 + x], acc.2 - x)) ([], spare)).1

/-- Holly computes and writes the grants (R350); before a budget is set it writes none (log 27). -/
def grantPower (s : State) : State :=
  if s.dev.floors.isEmpty then s
  else
    let tiers := (List.range 4).map (tierCores s)
    let units := tierUnits s.dev.budget s.dev.floors (tiers.map sumDemand)
    let grants := (List.zipWith (fun cs g => shareOut (cs.length + 1) g cs) tiers units).flatten
    grants.foldl (fun s x => updCoreAt x.1 (fun c => { c with csr := { c.csr with
      grant := BitVec.ofNat 24 (min x.2 0xFFFFFF) } }) s) s

/-- A budget set (R350): four floors in 256ths that sum to 256 at most, and demands per core of contexts; the grants follow at the next
tick boundary. -/
def setBudget (b : Nat) (floors : List Nat) (demands : List (Nat × Nat)) (s : State) : Option State :=
  if floors.length ≠ 4 ∨ 256 < floors.foldl (· + ·) 0 then none
  else
    let s1 := demands.foldl (fun s x =>
      let id := BitVec.ofNat 12 x.1
      if (ctxAt s id).st = .free then s else setCtx s id { ctxAt s id with demand := x.2 }) s
    some { s1 with dev := { s1.dev with budget := b, floors := floors } }

/-- POWER_BUDGET_SET (R350): over Mbaup ADMIN. -/
def execPowerBudgetSet (b : Nat) (floors : List Nat) (demands : List (Nat × Nat)) (s : State) : Out :=
  admin (setBudget b floors demands) s

end Sys2Proof.Machine
end

