-- ==== Sys2Proof/Machine/Regions.lean ====
section
/-! DEFINITION. Privet (R226 to R240): the region instructions, the placement of HBM and capacity-tier regions (R237, R335),
and the work of a tick boundary (R228) with its parts. -/

namespace Sys2Proof.Machine

open Sys2Proof

/-! ### Table entries (R229, R230) -/

/-- A value that the spec leaves free, drawn anew each time (log 15). -/
def draw (s : State) : Word × State := (Config.freeWord s.ctr, { s with ctr := s.ctr + 1 })

/-- Whether a table entry is FREE. -/
def entryFree (rs : Map Region) (key : Nat) : Bool :=
  match Map.find? rs key with
  | none => true
  | some r => r.st == .free

/-- The first key at or above `key` of which `free` holds, among `fuel` keys. -/
def firstFree (free : Nat → Bool) : (fuel key : Nat) → Option Nat
  | 0, _ => none
  | fuel + 1, key => if free key then some key else firstFree free fuel (key + 1)

/-- An entry among the `n` entries from `base` of which `free` holds, whichever the device takes (log 15). -/
def pickFree (s : State) (free : Nat → Bool) (base n : Nat) : Option Nat :=
  match firstFree free n base with
  | none => none
  | some k =>
    let w := base + (draw s).1.toNat % n
    if free w then some w else some k

/-- The table that a core's regions of a kind use: its first key and its number of entries (R229). A control core has
neither scratchpad nor rented instruction store, and no table for them. -/
def tableOf (kind : RKind) (g : Nat) : Nat × Nat :=
  match kind with
  | .sp => if isCtrl g then (0, 0) else (1024 * g, 256)
  | .is => if isCtrl g then (0, 0) else (1024 * g, 256)
  | .hbm => (2 ^ 18 + 65536 * dieNo g, 65536)
  | .cap => (2 ^ 18 + 65536 * dieNo g, 65536)

/-- A FREE entry of a core's table for a kind, if there is one. -/
def freeEntryOf (s : State) (kind : RKind) (g : Nat) : Option Nat :=
  pickFree s (entryFree s.regions) (tableOf kind g).1 (tableOf kind g).2

/-! ### HBM and capacity-tier space (R16, R17, R237, R333 to R335, R353) -/

/-- Whether a part has passed its test (R351). -/
def partIn (s : State) (k : PartKind) (n : Nat) : Bool := s.dev.passed.contains (k, n)

/-- The stacks in use: stacks 0 and 1 in QUICKSET, else those that passed (R351, R353). -/
def stacksIn (s : State) : List Nat :=
  if s.dev.st = .quickset then [0, 1] else (List.range 8).filter (partIn s .stack)

/-- The usable bytes of a stack: 31/32 of 4 GB for each die in service (R334). -/
def stackBytes (k : Stack) : Nat := popcount k.dies * (2 ^ 32 / 32 * 31)

/-- The usable bytes of HBM. -/
def hbmCapacity (s : State) : Nat := (stacksIn s).foldl (fun n k => n + stackBytes (Map.get s.dram.stks k {})) 0

/-- The save images held: those written, and those of cores that save (R266). -/
def imageCount (s : State) : Nat := s.images.length + (s.cores.filter (fun x => x.2.st == .saving)).length

/-- The owners' regions of a kind that are not FREE. -/
def regionsOf (s : State) (kind : RKind) : List (Nat × Region) :=
  s.regions.filter (fun x => x.2.st != .free && x.2.kind == kind && x.2.subl.isNone)

/-- The HBM area that Holly reserves for the prefix index at bring-up: 2^20 entries of 96 bytes (R319, R351, log 96). -/
def pxArea (s : State) : Nat := if s.dev.st = .service then 96 * 2 ^ 20 else 0

/-- The bytes of HBM in use: regions, save images, page tables and the prefix index. -/
def hbmUsed (s : State) : Nat :=
  (regionsOf s .hbm).foldl (fun n x => n + x.2.size) 0 + imageBytes * imageCount s
    + s.ctxs.foldl (fun n x => n + tableBytes * x.2.tables.length) 0 + pxArea s

/-- Whether HBM has space for more bytes (R236); none is rented while a die is being mapped out (R333, log 28). -/
def hbmRoom (s : State) (size : Nat) : Bool :=
  decide (hbmUsed s + size ≤ hbmCapacity s) && !s.dram.stks.any (fun k => k.2.mapping.isSome)

/-- The bytes of one capacity-tier device (R335). -/
def linkBytes : Nat := 2 ^ 38

/-- The CXL links in use: none in QUICKSET, else those that passed and are not down (R335, R353). -/
def linksIn (s : State) : List Nat :=
  if s.dev.st = .quickset then [] else (List.range 16).filter (fun x => partIn s .link x && !s.dram.linkDown.getLsbD x)

/-- The bytes of a region's piece of number `i` (R335). -/
def pieceBytes (size i : Nat) : Nat := min linkBytes (size - linkBytes * i)

/-- The bytes of a link's device that its own regions use. -/
def linkUsed (s : State) (x : Nat) : Nat :=
  (regionsOf s .cap).foldl (fun n r =>
    (List.range r.2.links.length).foldl (fun n i =>
      if (r.2.links[i]?) = some x then n + pieceBytes r.2.size i else n) n) 0

/-- The bytes of HBM regions that lie in the capacity tier, since a map-out has left less HBM than they need (R333). -/
def spillBytes (s : State) : Nat := hbmUsed s - hbmCapacity s

/-- The bytes of the capacity tier that nothing uses, before any HBM region's remainder. -/
def capFree (s : State) : Nat := (linksIn s).foldl (fun n x => n + (linkBytes - linkUsed s x)) 0

/-- The part of that remainder that lies on each link, lowest link first (log 47). -/
def spillOn (s : State) : List (Nat × Nat) :=
  ((linksIn s).foldl (fun (acc : List (Nat × Nat) × Nat) x =>
    let k := min acc.2 (linkBytes - linkUsed s x)
    (acc.1 ++ [(x, k)], acc.2 - k)) ([], spillBytes s)).1

/-- The bytes of a link's device in use. -/
def linkTaken (s : State) (x : Nat) : Nat :=
  linkUsed s x + ((spillOn s).filter (fun y => y.1 == x)).foldl (fun n y => n + y.2) 0

/-- Links for the pieces of a new region from number `i` on, each piece whole on a link of its own (R335). -/
def pickLinks (s : State) (order : List Nat) (size : Nat) : (fuel i : Nat) → List Nat → Option (List Nat)
  | 0, _, acc => some acc
  | fuel + 1, i, acc =>
    match order.find? (fun x => !acc.contains x && decide (linkTaken s x + pieceBytes size i ≤ linkBytes)) with
    | none => none
    | some x => pickLinks s order size fuel (i + 1) (acc ++ [x])

/-- The links of a new capacity-tier region, whichever the device takes (R335, log 15). -/
def newLinks (s : State) (size : Nat) : Option (List Nat) :=
  let w := (draw s).1.toNat
  let order := (linksIn s).drop (w % 16) ++ (linksIn s).take (w % 16)
  pickLinks s order size ((size + linkBytes - 1) / linkBytes) 0 []

/-- The alignment of a region's base (R237). -/
def baseAlign (size : Nat) : Nat := if 2 ^ 24 ≤ size then 2 ^ 24 else 2 ^ 16

/-- A number rounded up to a multiple. -/
def roundUp (k n : Nat) : Nat := (n + k - 1) / k * k

/-- The bytes of device memory of a kind. -/
def deviceBytes (s : State) (kind : RKind) : Memory := if kind = .cap then s.dram.cap else s.dram.hbm

/-- Whether a range of device memory is taken by no region, no save image, no page table and no other byte that holds a value. -/
def baseFits (s : State) (kind : RKind) (size b : Nat) : Bool :=
  !(regionsOf s kind).any (fun x => overlaps x.2.base x.2.size b size)
    && !(deviceBytes s kind).any (fun c => decide (b ≤ c.1 ∧ c.1 < b + size))
    && !(kind == .hbm && (s.ctxs.any (fun x => (x.2.root != 0 && overlaps x.2.root.toNat tableBytes b size)
        || x.2.tables.any (fun k => overlaps (tableBytes * k) tableBytes b size))
      || s.images.any (fun i => overlaps i.base imageBytes b size)))

/-- The base of a new HBM or capacity-tier region: an aligned place that nothing holds, whichever the device takes (R237,
log 15). -/
def newBase (s : State) (kind : RKind) (size : Nat) : Nat :=
  let k := baseAlign size
  let ends := (regionsOf s kind).map (fun x => roundUp k (x.2.base + x.2.size))
    ++ s.images.map (fun i => roundUp k (i.base + imageBytes))
  let roots : List Nat := (s.ctxs.map (fun x => (x.2.root.toNat + tableBytes) :: x.2.tables.map (fun k => tableBytes * (k + 1)))).flatten
  let bytes : List Nat := (deviceBytes s kind).map (fun c => c.1 + 1)
  let top := (roots ++ bytes ++ ends).foldl max 0
  let w := (draw s).1.toNat % 2 ^ 28 * k
  if baseFits s kind size w then w
  else match (0 :: ends).find? (baseFits s kind size) with
    | some b => b
    | none => roundUp k top

/-! ### Page tables' own space (R304) -/

/-- Whether a handle-table entry maps a byte of a range of HBM, by a region that still stands (R204). -/
def handleMaps (s : State) (a n : Nat) (e : HEnt) : Bool :=
  bit e.w0 0 && fld e.w0 3 2 == 0 && (regionOf s.regions (fld e.w0 16 32)).isSome
    && overlaps (fld e.w2 0 56).toNat (fld e.w1 0 48).toNat a n

/-- Whether a block of HBM is held: by a region, a save image, a context's tables, or a handle that maps a byte of it (R304). -/
def blockTaken (s : State) (k : Nat) : Bool :=
  (regionsOf s .hbm).any (fun x => overlaps x.2.base x.2.size (tableBytes * k) tableBytes)
    || s.images.any (fun i => overlaps i.base imageBytes (tableBytes * k) tableBytes)
    || s.ctxs.any (fun x => x.2.tables.contains k || x.2.handles.any (fun h => handleMaps s (tableBytes * k) tableBytes h.2))

/-- Holly rents a block for the page tables of a context, unless it holds it already: its bytes read as zero (R304, log 97). -/
def rentTable (ctx : BitVec 12) (k : Nat) (s : State) : Option State :=
  let x := ctxAt s ctx
  if x.tables.contains k then some s
  else if blockTaken s k || !hbmRoom s tableBytes then none
  else some (setCtx { s with dram := { s.dram with hbm := Memory.zero s.dram.hbm (tableBytes * k) tableBytes } } ctx
    { x with tables := x.tables ++ [k] })

/-- The blocks of a context's page tables given back, their bytes cleared. -/
def freeTables (ctx : BitVec 12) (s : State) : State :=
  let x := ctxAt s ctx
  setCtx { s with dram := { s.dram with
    hbm := x.tables.foldl (fun m k => Memory.zero m (tableBytes * k) tableBytes) s.dram.hbm } } ctx { x with tables := [] }

/-- Whether a context holds a region or is its tenant. -/
def hasRegion (id : BitVec 12) (r : Region) : Bool :=
  match r.subl with
  | some b => b.tenant == id
  | none => r.owner == id

/-- Whether a region's bytes are shared with a peer or the host: an export or a message queue lies in it (R309, log 98). -/
def sharedRegion (s : State) (key : Nat) : Bool :=
  let is (h : BitVec 32) : Bool := (regionOf s.regions h).any (fun x => x.1 == key)
  s.link.peers.any (fun p => p.2.xport.any is) || s.queues.any (fun q => is q.2.region)

/-- Whether a leaf may be mapped for a context (R306, R308, R309): its range lies in one region of its tier that the context holds or
is tenant of, HELD or OVERDUE, and it is stored encrypted unless that region is shared; a peer window has no backing region. -/
def leafBacked (s : State) (ctx : BitVec 12) (l : Nat × Word) : Bool :=
  pteTIER l.2 == 2 || s.regions.any (fun x =>
    (x.2.st == .held || x.2.st == .overdue) && (x.2.kind == .hbm || x.2.kind == .cap) && kindTier x.2.kind == pteTIER l.2
      && hasRegion ctx x.2 && (pteENC l.2 || sharedRegion s x.1)
      && decide (x.2.base ≤ pteAddr l.2 ∧ pteAddr l.2 + 2 ^ levelShift l.1 ≤ x.2.base + x.2.size))

/-- A context's root set (R271, R304): Holly rents its table, where it can (log 119), and the leaves that it makes reachable without
backing lose V (R308, log 97). -/
def setRoot (ctx : BitVec 12) (root : BitVec 56) (s : State) : State :=
  let s1 := setCtx s ctx { ctxAt s ctx with root := root }
  if root = 0 then s1
  else
    let s2 := (rentTable ctx (root.toNat / tableBytes) s1).getD s1
    clearLeaves ((ctxLeaves s2.dram.hbm (ctxAt s2 ctx)).filter (fun l => !leafBacked s2 ctx l.2)) s2

/-! ### Results and checks (R236, R238) -/

/-- The result word of the region instructions (R236). -/
def rentWord (st : Nat) (h : BitVec 32) : Word := word (h.toNat + st * 2 ^ 32)

/-- A region instruction ends with a status and no handle. -/
def rentDone (d : Reg) (st : Nat) (s : State) : Except Exc State := .ok (updCore (resX .s d (rentWord st 0) 16) s)

/-- The allowance of the running context. -/
def myAlw (s : State) : Int := alwSeen s (core s).ctx

/-- The ALLOWANCE_EXHAUSTED check of RENT, RENEW, PREPAY and SUBLET (R238). -/
def checkAlw (s : State) : Except Exc Unit :=
  if myAlw s < 0 then .error (exc 0x22 (BitVec.ofInt 64 (myAlw s))) else .ok ()

/-- The region that a register's low 32 bits name to a program; launch regions carry no handle that one can name (R230,
R284). -/
def namedRegion (s : State) (h : Word) : Option (Nat × Region) :=
  match regionOf s.regions (fld h 0 32) with
  | none => none
  | some (k, r) => if r.term.isSome then none else some (k, r)

/-- Whether a context is the tenant of a sublet. -/
def isTenant (ctx : BitVec 12) (r : Region) : Bool :=
  match r.subl with
  | some b => b.tenant == ctx
  | none => false

/-- NO_RIGHT with the handle as INFO (R238). -/
def noHandle (h : Word) : Exc := exc 0x21 h

/-! ### RENT (R237) -/

/-- The end of the storage that a kind's place lies in (R237). -/
def placeEnd : RKind → Nat
  | .sp => 0x180000 | .is => 0x40000 | .hbm => 0 | .cap => 0

/-- Whether a kind is rented at an address of the core. -/
def isLocal (k : RKind) : Bool := k == .sp || k == .is

/-- Whether a range of a core's storage meets a region that is not FREE (R236). -/
def rangeTaken (s : State) (kind : RKind) (g a n : Nat) : Bool :=
  s.regions.any (fun x => x.2.st != .free && x.2.subl.isNone && x.2.kind == kind && x.1 / 1024 == g
    && overlaps x.2.base x.2.size a n)

/-- Whether a handle-table index can take a new region (R236 SLOT). -/
def slotBad (x : Ctx) (i : Nat) : Bool := i == 0 || decide (x.htlen ≤ i) || hasEntry x i
where
  /-- Whether the entry is valid. -/
  hasEntry (x : Ctx) (i : Nat) : Bool := bit (Map.get x.handles i {}).w0 0

/-- A region entered in its table: HELD, with the phase word of R248 for the renting core; its bytes read as zero, and its
scratchpad banks that were OFF are FULL (R63, R237). -/
def enterRegion (key : Nat) (r : Region) (s : State) : State :=
  let gen := (Map.get s.regions key {}).gen
  let s1 := zeroRegion key r { s with regions := Map.put s.regions key { r with gen := gen } }
  if r.kind = .sp then banksOn (key / 1024) r.base r.size s1 else s1

/-- The phase word of a new region (R248). -/
def freshPhase (g : Nat) : Phase := { holder := BitVec.ofNat 16 (coreNum g) }

/-- The handle-table entry of a new HBM or capacity-tier region (R237). -/
def rentEntry (kind : RKind) (h : BitVec 32) (size base : Nat) : HEnt :=
  { w0 := word (7 + (if kind = .cap then 8 else 0) + h.toNat * 2 ^ 16), w1 := word size, w2 := word base }

/-- The status of a RENT whose checks have passed (R237), and where it goes when it is OK: the table key, the base and the
links. -/
def rentPlan (kind : RKind) (size place t : Nat) (s : State) : Nat × Nat × Nat × List Nat :=
  let fail (st : Nat) : Nat × Nat × Nat × List Nat := (st, 0, 0, [])
  if myAlw s < size * kind.rate * t then fail 4
  else if isLocal kind && rangeTaken s kind s.cur place size then fail 1
  else if !isLocal kind && slotBad (myCtx s) place then fail 8
  else match freeEntryOf s kind s.cur with
    | none => fail 2
    | some key =>
      match kind with
      | .sp => (0, key, place, [])
      | .is => (0, key, place, [])
      | .hbm => if hbmRoom s size then (0, key, newBase s .hbm size, []) else fail 3
      | .cap =>
        match newLinks s size with
        | none => fail 3
        | some ls => (0, key, newBase s .cap size, ls)

/-- The effect of a RENT that is OK (R237). -/
def rentDo (kind : RKind) (size place t key base : Nat) (links : List Nat) (s : State) : State :=
  let ctx := (core s).ctx
  let r : Region :=
    { kind := kind, st := .held, owner := ctx, place := place, base := base, size := size, pu := s.tick + t
      phase := freshPhase s.cur, links := links }
  let s1 := enterRegion key r (addAlw ctx (-(size * kind.rate * t : Nat)) (draw (keepOld s)).2)
  if isLocal kind then s1
  else
    let h := handleOf key (Map.get s1.regions key {})
    setCtx s1 ctx { ctxAt s1 ctx with handles := Map.put (ctxAt s1 ctx).handles place (rentEntry kind h size base) }

/-- RENT (R237). -/
def rent (kind : RKind) (p : Pred) (d a : Reg) (la : Bool) (t : Word) (s : State) : State :=
  issue .s p (marksOf a la) (fun s => do
    let size ← rdX (core s) .s a
    let place ← rdX (core s) .s (a + 1)
    if size = 0 ∨ size.toNat % 64 ≠ 0 ∨ t = 0 ∨ 2 ^ 20 < t.toNat then .error (illegalOp s)
    else do
      checkAlw s
      if isLocal kind && place.toNat % 64 != 0 then .error (exc 0x06 place)
      else if isLocal kind && decide (placeEnd kind < place.toNat + size.toNat) then .error (exc 0x21 place)
      else
        match rentPlan kind size.toNat place.toNat t.toNat s with
        | (0, key, base, links) =>
          let s1 := rentDo kind size.toNat place.toNat t.toNat key base links s
          .ok (updCore (resX .s d (rentWord 0 (handleOf key (Map.get s1.regions key {}))) 16) s1)
        | (st, _, _, _) => rentDone d st s) s

/-- RENT.SP (R237). -/
def execRentSP (p : Pred) (d a : Reg) (la : Bool) (t : Word) (s : State) : Out := .next (rent .sp p d a la t s)

/-- RENT.IS (R237). -/
def execRentIS (p : Pred) (d a : Reg) (la : Bool) (t : Word) (s : State) : Out := .next (rent .is p d a la t s)

/-- RENT.HBM (R237). -/
def execRentHBM (p : Pred) (d a : Reg) (la : Bool) (t : Word) (s : State) : Out := .next (rent .hbm p d a la t s)

/-- RENT.CAP (R237). -/
def execRentCAP (p : Pred) (d a : Reg) (la : Bool) (t : Word) (s : State) : Out := .next (rent .cap p d a la t s)

/-! ### RENEW, PREPAY, VACATE (R234, R235, R238) -/

/-- RENEW of an owner's region by `t` ticks (R234, R238). -/
def renewOwn (d : Reg) (t key : Nat) (r : Region) (s : State) : Except Exc State :=
  let new := if r.st = .held then r.pu + t else r.pu + r.dt + t
  let charge := tickRent r * t
  if r.st = .scrubbed then rentDone d 5 s
  else if r.st ≠ .held ∧ new ≤ s.tick then rentDone d 6 s
  else if s.tick + 2 ^ 24 < new then rentDone d 6 s
  else if myAlw s < charge then rentDone d 4 s
  else
    let r1 := if r.st = .held then { r with pu := new } else { r with st := .held, pu := new, dt := 0, ge := 0 }
    rentDone d 0 (setRegion key r1 (addAlw r.owner (-(charge : Nat)) (keepOld s)))

/-- RENEW of a sublet by its tenant (R235, R238): the term is clipped at the parent's paid-until. -/
def renewSublet (d : Reg) (t key : Nat) (r : Region) (b : Sublet) (s : State) : Except Exc State :=
  let pu := match regionOf s.regions b.parent with | some (_, p) => p.pu | none => 0
  let te := min (b.te + t) pu
  let st := if pu < b.te + t then 6 else 0
  if r.st = .held ∨ s.tick < te then
    rentDone d st (setRegion key { r with st := .held, subl := some { b with te := te } } (keepOld s))
  else rentDone d 6 s

/-- RENEW (R238). -/
def execRenew (p : Pred) (d a : Reg) (la : Bool) (o : Opnd) (s : State) : Out :=
  .next (issue .s p (marksOf a la ++ markO o) (fun s => do
    let h ← rdX (core s) .s a
    let t ← rdO (core s) .s o
    if t = 0 ∨ 2 ^ 20 < t.toNat then .error (illegalOp s)
    else do
      checkAlw s
      match namedRegion s h with
      | none => .error (noHandle h)
      | some (key, r) =>
        match r.subl with
        | none => if r.owner = (core s).ctx then renewOwn d t.toNat key r s else .error (noHandle h)
        | some b =>
          if b.tenant = (core s).ctx then renewSublet d t.toNat key r b s
          else if r.owner = (core s).ctx then rentDone d 5 s
          else .error (noHandle h)) s)

/-- PREPAY (R238). -/
def execPrepay (p : Pred) (d a : Reg) (la : Bool) (o : Opnd) (s : State) : Out :=
  .next (issue .s p (marksOf a la ++ markO o) (fun s => do
    let h ← rdX (core s) .s a
    let g ← rdO (core s) .s o
    if g = 0 ∨ 2 ^ 62 < g.toNat then .error (illegalOp s)
    else do
      checkAlw s
      match namedRegion s h with
      | none => .error (noHandle h)
      | some (key, r) =>
        if r.owner ≠ (core s).ctx then .error (noHandle h)
        else if r.subl.isSome || r.st != .held then rentDone d 5 s
        else if myAlw s < g.toNat then rentDone d 4 s
        else rentDone d 0 (setRegion key { r with res := r.res + g.toNat } (addAlw r.owner (-(g.toNat : Int)) (keepOld s)))) s)

/-- VACATE (R238): an owner's region goes to SCRUBBED with its refund, a sublet is freed by its tenant or its owner. -/
def execVacate (p : Pred) (d a : Reg) (la : Bool) (s : State) : Out :=
  .next (issue .s p (marksOf a la) (fun s => do
    let h ← rdX (core s) .s a
    match namedRegion s h with
    | none => .error (noHandle h)
    | some (key, r) =>
      if r.owner ≠ (core s).ctx ∧ !isTenant (core s).ctx r then .error (noHandle h)
      else if r.subl.isSome then
        if 0 < lienCount s key r then rentDone d 7 s else rentDone d 0 (freeSublet key (keepOld s))
      else if 0 < lienCount s key r ∨ syncBearing s key r then rentDone d 7 s
      else if r.st = .scrubbed then rentDone d 5 s
      else rentDone d 0 (scrub key (vacateRefund s r) (keepOld s))) s)

/-! ### SUBLET (R235, R249) -/

/-- The phase word of a new sublet (R249). -/
def subletPhase (wr : Bool) : Phase := { mode := if wr then 0 else 1 }

/-- The effect of a SUBLET that is OK (R235, R249). -/
def subletDo (key pk : Nat) (r : Region) (off len : Nat) (terms : Word) (s : State) : State :=
  let wr := bit terms 13
  let b : Sublet :=
    { parent := handleOf pk r, tenant := fld terms 0 12, rd := bit terms 12, wr := wr
      te := min (s.tick + (fld terms 32 32).toNat) r.pu }
  let x : Region :=
    { kind := r.kind, gen := (Map.get s.regions key {}).gen, st := .held, owner := r.owner, place := off, base := r.base + off
      size := len, subl := some b, phase := subletPhase wr }
  setRegion key x (setRegion pk (bumpEpoch r) (draw (keepOld s)).2)

/-- The number of the core or die whose table holds a key, as a core of it (R229). -/
def tableCore (key : Nat) (r : Region) : Nat := if isLocal r.kind then key / 1024 else 64 * ((key - 2 ^ 18) / 65536)

/-- SUBLET (R235). -/
def execSublet (p : Pred) (d a : Reg) (la : Bool) (b : Reg) (lb : Bool) (s : State) : Out :=
  .next (issue .s p (marksOf a la ++ marksOf b lb) (fun s => do
    let h ← rdX (core s) .s a
    let off ← rdX (core s) .s (a + 1)
    let len ← rdX (core s) .s b
    let terms ← rdX (core s) .s (b + 1)
    let t := (fld terms 32 32).toNat
    if fld terms 14 18 ≠ 0 ∨ t = 0 ∨ 2 ^ 20 < t ∨ len = 0 ∨ off.toNat % 64 ≠ 0 ∨ len.toNat % 64 ≠ 0 then .error (illegalOp s)
    else do
      checkAlw s
      match namedRegion s h with
      | none => .error (noHandle h)
      | some (pk, r) =>
        if r.owner ≠ (core s).ctx ∨ r.subl.isSome then .error (noHandle h)
        else if r.size < off.toNat + len.toNat then .error (illegalOp s)
        else if r.st ≠ .held then rentDone d 5 s
        else match freeEntryOf s r.kind (tableCore pk r) with
          | none => rentDone d 2 s
          | some key =>
            let s1 := subletDo key pk r off.toNat len.toNat terms s
            .ok (updCore (resX .s d (rentWord 0 (handleOf key (Map.get s1.regions key {}))) 16) s1)) s)

/-! ### RQRY (R239) -/

/-- The items of RQRY (R239). -/
def rqryItem (s : State) (key : Nat) (r : Region) (item : Nat) : Word :=
  match item with
  | 0 =>
    let (rd, wr, ctx) := match r.subl with
      | some b => (b.rd, b.wr, b.tenant)
      | none => (true, true, r.owner)
    word (r.st.code + boolNat r.subl.isSome * 2 ^ 3 + boolNat (syncBearing s key r) * 2 ^ 4 + boolNat rd * 2 ^ 5
      + boolNat wr * 2 ^ 6 + min (lienCount s key r) 255 * 2 ^ 8 + ctx.toNat * 2 ^ 16 + r.dt % 2 ^ 32 * 2 ^ 32)
  | 1 => word (match r.subl with | some b => b.te | none => r.pu)
  | 2 => word r.res
  | 3 => word r.size
  | 4 => word r.place
  | 5 => word (if r.st = .lapsed then r.ge else 0)
  | _ => 0

/-- RQRY (R239): 0 for a handle that names no region of which the context is owner or tenant. -/
def execRqry (p : Pred) (d a : Reg) (la : Bool) (item : BitVec 3) (s : State) : Out :=
  .next (issue .s p (marksOf a la) (fun s => do
    let h ← rdX (core s) .s a
    let v := match namedRegion s h with
      | none => 0
      | some (key, r) =>
        if r.owner = (core s).ctx ∨ isTenant (core s).ctx r then rqryItem s key r item.toNat else 0
    .ok (updCore (resX .s d v 8) s)) s)

/-! ### The parts of a tick boundary (R228) -/

/-- The rent of a core's banks at a tick's end (R60): FULL, RET and WAKING banks draw it. -/
def bankRent (c : Core) : Nat :=
  let on (sl : Slot) : Nat := ((List.range (bankCount sl)).filter (fun b => (getBank c sl b).st != .off)).length
  on .s * 16384 + (on .v0 + on .v1) * 262144

/-- The rent of a core's bound tiles at a tick's end (R153). -/
def tileRent (c : Core) : Nat := c.pme.tiles.length * 4194304

/-- The rent of a save image at a tick's end (R266). -/
def imageRent : Nat := 557056

/-- The rent of an entry of the prefix index at a tick's end (R319). -/
def pxRent : Nat := 768

/-- The charge for a block of page tables for one tick: 16 KB at the L2 rate (R230, R304). -/
def tableRent : Nat := 131072

/-- Step 1 (R228): tile slots, banks of resident contexts, save images, and entries of the prefix index. -/
def debitUse (s : State) : State :=
  let s1 := s.cores.foldl (fun s x =>
    if x.1 < 256 && holding x.2 then
      addAlw x.2.ctx (-(tileRent x.2 + bankRent x.2 + (if x.2.st = .saving then imageRent else 0) : Nat)) s
    else s) s
  let s2 := s.images.foldl (fun s m => addAlw m.ctx (-(tileRent m.saved + imageRent : Nat)) s) s1
  let s3 := s.pxi.foldl (fun s e => addAlw e.ctx (-(pxRent : Nat)) s) s2
  s.ctxs.foldl (fun s x => if x.2.tables.isEmpty then s
    else addAlw (BitVec.ofNat 12 x.1) (-(tableRent * x.2.tables.length : Nat)) s) s3

/-- Step 2 for one region (R232): the debt of a tick that it spent LIENED or OVERDUE, in whole or in part. -/
def debitDebt (s : State) (key : Nat) : State :=
  match Map.find? s.regions key with
  | none => s
  | some r =>
    if r.subl.isSome ∨ tickDebt r = 0 then s
    else setRegion key { r with dt := r.dt + 1 } (addAlw r.owner (-(tickDebt r : Nat)) s)

/-- Step 2 for one context (R232): the debt of regions whose entries have become FREE in the tick. -/
def debitFreed (s : State) (id : BitVec 12) : State :=
  let x := ctxAt s id
  if x.debt = 0 then s else addAlw id (-(x.debt : Nat)) (setCtx s id { x with debt := 0 })

/-- A region at the beginning of a tick (R232): what it has spent of the tick LIENED or OVERDUE is what it is now. -/
def startTick (r : Region) : Region := { r with lien := r.st == .liened && r.subl.isNone, wasOver := r.st == .overdue }

/-- The ticks that a reserve draws (R233). -/
def drawTicks (r : Region) : Nat :=
  if 64 * tickRent r ≤ r.res then 64 else r.res / tickRent r

/-- RESERVE_DRAW for one region (R233): a HELD region whose paid-until equals the tick. -/
def drawReserve (s : State) (key : Nat) : State :=
  match Map.find? s.regions key with
  | none => s
  | some r =>
    if r.st = .held ∧ r.subl.isNone ∧ r.term.isNone ∧ r.pu = s.tick then
      setRegion key { r with res := r.res - drawTicks r * tickRent r, pu := r.pu + drawTicks r } s
    else s

/-- The renewal of one launch region (R284): its next term is charged, even below zero. -/
def renewLaunch (s : State) (key : Nat) : State :=
  match Map.find? s.regions key with
  | none => s
  | some r =>
    match r.term with
    | none => s
    | some t =>
      if r.st = .held ∧ r.pu ≤ s.tick then
        setRegion key { r with pu := r.pu + t } (addAlw r.owner (-(tickRent r * t : Nat)) s)
      else s

/-- The end of one sublet's term (R235). -/
def endTerm (s : State) (key : Nat) : State :=
  match Map.find? s.regions key with
  | none => s
  | some r =>
    match r.subl with
    | none => s
    | some b =>
      if r.st = .held ∧ b.te ≤ s.tick then
        if 0 < lienCount s key r then setRegion key { dropPend r with st := .liened } s else freeSublet key s
      else s

/-- Step 4 for one owner's region (R234): OVERDUE with its event (R239), LIENED, or LAPSED. -/
def reachPaid (s : State) (key : Nat) : State :=
  match Map.find? s.regions key with
  | none => s
  | some r =>
    if r.st = .held ∧ r.subl.isNone ∧ r.pu ≤ s.tick then
      if syncBearing s key r then
        postEvent (regionCluster key r) 0x48 r.owner ((handleOf key r).setWidth 64)
          (setRegion key { dropPend r with st := .overdue, wasOver := true } s)
      else if 0 < lienCount s key r then setRegion key { dropPend r with st := .liened, lien := true } s
      else lapse key (s.tick + 16) s
    else s

/-- Step 5 for one region (R234): a LAPSED region whose grace has ended is scrubbed, with its reserve refunded. -/
def endGrace (s : State) (key : Nat) : State :=
  match Map.find? s.regions key with
  | none => s
  | some r => if r.st = .lapsed ∧ r.ge ≤ s.tick then scrub key r.res s else s

/-- ALLOWANCE_EXHAUSTED for one core of a context (R240): pending on a RUNNING or FROZEN core, and met on resuming by the
others. -/
def raiseAlw (e : Exc) (c : Core) : Core :=
  match c.st with
  | .running => if c.asyncs.any (fun x => x.code == 0x22) then c else { c with asyncs := c.asyncs ++ [e] }
  | .frozen => if c.asyncs.any (fun x => x.code == 0x22) then c else { c with asyncs := c.asyncs ++ [e] }
  | .loading => { c with alwAgain := true }
  | .trapped => { c with alwAgain := true }
  | .saving => { c with alwAgain := true }
  | .disabled => c
  | .idle => c

/-- Step 6 for one context (R240): with a negative allowance, its cores fault and its OVERDUE regions lapse. -/
def exhaust (s : State) (id : BitVec 12) : State :=
  let x := ctxAt s id
  if x.st = .free ∨ 0 ≤ x.alw then s
  else
    let e := exc 0x22 (BitVec.ofInt 64 x.alw)
    let s1 : State := { s with cores := s.cores.map (fun y =>
      if y.1 < 256 && holding y.2 && y.2.ctx == id then (y.1, raiseAlw e y.2) else y) }
    (s1.regions.filter (fun y => y.2.st == .overdue && y.2.owner == id)).foldl
      (fun s y => lapse y.1 (s.tick + 16) s) s1

/-- The keys of the region tables. -/
def regionKeys (s : State) : List Nat := s.regions.map (·.1)

/-- The boundary that begins the next tick (R228): its six steps, then the energy grants (R350). -/
def boundary (s : State) : State :=
  let s0 := { s with tick := s.tick + 1 }
  let s1 := debitUse s0
  let s2 := s1.ctxs.foldl (fun s x => debitFreed s (BitVec.ofNat 12 x.1)) ((regionKeys s1).foldl debitDebt s1)
  let s3 := (regionKeys s2).foldl renewLaunch ((regionKeys s2).foldl drawReserve s2)
  let s4 := (regionKeys s3).foldl reachPaid ((regionKeys s3).foldl endTerm s3)
  let s5 := (regionKeys s4).foldl endGrace s4
  let s6 := s5.ctxs.foldl (fun s x => exhaust s (BitVec.ofNat 12 x.1)) s5
  let s7 := settle s6
  grantPower { s7 with regions := s7.regions.map (fun y => (y.1, startTick y.2)) }

/-- TICK_BOUNDARY (R228). -/
def execTickBoundary (s : State) : Out := .next (boundary s)

/-- The table key of a region that a handle names. -/
def onRegion (f : State → Nat → State) (h : BitVec 32) (s : State) : State :=
  match regionOf s.regions h with
  | some (k, _) => f s k
  | none => s

/-- PAID_UNTIL_REACHED (R233, R234): a reserve is drawn, or the region leaves HELD. -/
def execPaidUntilReached (h : BitVec 32) (s : State) : Out :=
  .next (onRegion reachPaid h (onRegion drawReserve h s))

/-- LAUNCH_REGION_RENEWAL (R284). -/
def execLaunchRegionRenewal (h : BitVec 32) (s : State) : Out := .next (onRegion renewLaunch h s)

/-- GRACE_END (R234). -/
def execGraceEnd (h : BitVec 32) (s : State) : Out := .next (onRegion endGrace h s)

/-- SUBLET_TERM_END (R235). -/
def execSubletTermEnd (h : BitVec 32) (s : State) : Out := .next (onRegion endTerm h s)

/-- Zero-fill of an HBM or capacity-tier region ends: its bytes read as zero and its entry is FREE (R234). -/
def fillZero (s : State) (key : Nat) : State :=
  match Map.find? s.regions key with
  | none => s
  | some r => if r.st = .scrubbed then freeRegion key r (zeroRegion key r s) else s

/-- ZERO_FILL_COMPLETE (R234). -/
def execZeroFillComplete (h : BitVec 32) (s : State) : Out := .next (onRegion fillZero h s)

end Sys2Proof.Machine
end

