-- ==== Sys2Proof/Machine/CoreOps.lean ====
section
/-! DEFINITION. What every file shares: XMOV and XMOVP (R56), BANK (R67), landings (R25, R55), wakes (R58, R59, R63),
asynchronous faults (R187, R372), machine checks (R48), and the window and trap-queue steps of a control core (R190 to
R193) and the CSR writes that have a behaviour of their own (R87). -/

namespace Sys2Proof.Machine

open Sys2Proof

/-! ### XMOV and XMOVP (R56) -/

/-- What lands for a 64-bit value, for a destination named by `x`; `bitSrc` tells that the source is a one-bit
predicate, which fills a whole lane mask (R56). A lane mask sent to a lane mask, which the table of R56 does not list, lands as
its 64 bits (DESIGN CHOICE, log 86). -/
def moveWord (x : XOp) (v : Word) (bitSrc : Bool) : Landing :=
  let l := { emptyLanding with file := x.dfile, isPred := x.dp, reg := x.dreg.toNat }
  if x.dp then
    if isV x.dfile then
      { l with bits := (if bitSrc then (if v = 0 then 0 else BitVec.allOnes 64) else v).setWidth 2048, mask := mask64 }
    else { l with bits := (boolWord (v != 0)).setWidth 2048, mask := 1 }
  else if isV x.dfile then
    { l with bits := v.setWidth 2048 <<< (64 * x.part.toNat), mask := mask64 <<< (64 * x.part.toNat) }
  else { l with bits := v.setWidth 2048, mask := mask64 }

/-- What lands for a vector source: the whole register in a vector file, else its group (R56). -/
def moveVector (x : XOp) (v : VReg) : Landing :=
  if isV x.dfile && !x.dp then
    { emptyLanding with file := x.dfile, reg := x.dreg.toNat, bits := v.bits, mask := BitVec.allOnes 2048, tag := v.tag
                        dw := v.dw }
  else moveWord x (fld v.bits (64 * x.part.toNat) 64) false

/-- Whether a destination is a constant, which takes no write (R55). -/
def constDest (x : XOp) : Bool := if x.dp then x.dreg == 0 else x.dfile == .s && x.dreg == 0

/-- A move issued: the value is on its way, unless its destination is a constant. -/
def sendMove (sl : Slot) (x : XOp) (l : Landing) (s : State) : State :=
  if constDest x then s else updCore (arrive sl l) s

/-- XMOV of S, M, C0 and C1 (R56). -/
def xmovScalar (sl : Slot) (p : Pred) (x : XOp) (s : State) : State :=
  issue sl p (marksOf x.sreg x.lu) (fun s => do
    let v ← rdX (core s) sl x.sreg
    .ok (sendMove sl x (moveWord x v false) s)) s

/-- XMOVP of S, M, C0 and C1 (R56). -/
def xmovpScalar (sl : Slot) (p : Pred) (x : XOp) (s : State) : State :=
  issue sl p [] (fun s => .ok (sendMove sl x (moveWord x (getP (core s) sl x.sreg.toNat) true) s)) s

/-- XMOV of V0 and V1 (R56): with no bit of the selected mask set it neither reads nor moves. -/
def xmovVector (u : VU) (p : Pred) (x : XOp) (s : State) : State :=
  issueV u (marksOf x.sreg x.lu) (fun s =>
    if selMask (core s) u.slot p = 0 then .ok s
    else do
      let v ← rdV (core s) u.slot x.sreg
      .ok (sendMove u.slot x (moveVector x v) s)) s

/-- XMOVP of V0 and V1 (R56). -/
def xmovpVector (u : VU) (p : Pred) (x : XOp) (s : State) : State :=
  issueV u [] (fun s =>
    if selMask (core s) u.slot p = 0 then .ok s
    else .ok (sendMove u.slot x (moveWord x (getP (core s) u.slot x.sreg.toNat) false) s)) s

/-- XMOV in S (R56). -/
def execXmovS (p : Pred) (x : XOp) (s : State) : Out := .next (xmovScalar .s p x s)

/-- XMOVP in S (R56). -/
def execXmovpS (p : Pred) (x : XOp) (s : State) : Out := .next (xmovpScalar .s p x s)

/-- XMOV in V0 or V1 (R56). -/
def execXmovV (u : VU) (p : Pred) (x : XOp) (s : State) : Out := .next (xmovVector u p x s)

/-- XMOVP in V0 or V1 (R56). -/
def execXmovpV (u : VU) (p : Pred) (x : XOp) (s : State) : Out := .next (xmovpVector u p x s)

/-- XMOV in M (R56). -/
def execXmovM (p : Pred) (x : XOp) (s : State) : Out := .next (xmovScalar .m p x s)

/-- XMOVP in M (R56). -/
def execXmovpM (p : Pred) (x : XOp) (s : State) : Out := .next (xmovpScalar .m p x s)

/-- XMOV in C0 or C1 (R56). -/
def execXmovC (u : CU) (p : Pred) (x : XOp) (s : State) : Out := .next (xmovScalar u.slot p x s)

/-- XMOVP in C0 or C1 (R56). -/
def execXmovpC (u : CU) (p : Pred) (x : XOp) (s : State) : Out := .next (xmovpScalar u.slot p x s)

/-! ### BANK (R67) -/

/-- BANK.R on a bank (R58, R67): OFF stays, WAKING goes to RET at its wake's end, the others go to RET. -/
def bankRetain (sl : Slot) (b : Nat) (c : Core) : Core :=
  let k := getBank c sl b
  match k.st with
  | .off => c
  | .waking => setBank c sl b { k with toRet := true }
  | .full => setBank c sl b { st := .ret }
  | .ret => c

/-- BANK.R or BANK.WR on a bank number: ILLEGAL_OP beyond the file's banks (R67). -/
def bankReg (sl : Slot) (wake act : Bool) (b : Nat) (s : State) : Except Exc State :=
  if bankCount sl ≤ b then .error (illegalOp s)
  else if !act then .ok s
  else .ok (updCore (if wake then startWake s.now none sl b else bankRetain sl b) s)

/-- BANK.R or BANK.WR of S. -/
def bankS (wake : Bool) (p : Pred) (o : Opnd) (s : State) : State :=
  issue .s p (markO o) (fun s => do
    let b ← rdO (core s) .s o
    bankReg .s wake true b.toNat s) s

/-- Whether a register under a tag may be read as a number: neither NONE nor E8M0 (R90, R93). -/
def numberTag (t : Nat) : Bool := t != 0 && t != 6

/-- The second operand of BANK in a vector slot: a literal, or the whole of register b read as a number (R90, R93, log 17). -/
def bankOpnd (c : Core) (u : VU) (o : Opnd) : Except Exc Nat :=
  match o with
  | .lit v => .ok v.toNat
  | .reg b _ => do
    let v ← rdV c u.slot b
    needTag u numberTag b v
    .ok v.bits.toNat

/-- BANK.R or BANK.WR of V0 and V1: it acts when a bit of the selected mask is set (R67). -/
def bankV (u : VU) (wake : Bool) (p : Pred) (o : Opnd) (s : State) : State :=
  issueV u (markO o) (fun s => do
    let b ← bankOpnd (core s) u o
    bankReg u.slot wake (selMask (core s) u.slot p != 0) b s) s

/-- BANK.R in S (R67). -/
def execBankRS (p : Pred) (o : Opnd) (s : State) : Out := .next (bankS false p o s)

/-- BANK.WR in S (R67). -/
def execBankWRS (p : Pred) (o : Opnd) (s : State) : Out := .next (bankS true p o s)

/-- BANK.R in V0 or V1 (R67). -/
def execBankRV (u : VU) (p : Pred) (o : Opnd) (s : State) : Out := .next (bankV u false p o s)

/-- BANK.WR in V0 or V1 (R67). -/
def execBankWRV (u : VU) (p : Pred) (o : Opnd) (s : State) : Out := .next (bankV u true p o s)

/-- The byte ranges of a scratchpad bank, row by row (R61). -/
def bankRows (b : Nat) : List Nat := (List.range 128).map (fun r => 32 * (384 * r + b))

/-- Whether the context of the acting core holds a region that overlaps a bank of the core's scratchpad (R67). -/
def ownsBank (s : State) (b : Nat) : Bool :=
  s.regions.any (fun x => x.2.kind == .sp && x.2.subl.isNone && x.1 / 1024 == s.cur && x.2.st != .free
    && x.2.st != .scrubbed && x.2.owner == (core s).ctx && rangeInBank x.2.base x.2.size b)

/-- Whether an entry of core `h` has still to read or write a byte of a bank of core `g` (R67). -/
def entryInBank (g b h : Nat) (e : Entry) : Bool :=
  (sideSpace h e.src == .sp g && (bankRows b).any (fun a => entryReads h e (.sp g) a 32))
    || (sideSpace h e.dst == .sp g && (bankRows b).any (fun a => entryWrites h e (.sp g) a 32))

/-- Whether some engine of core `c`, which has number `h`, has an access to a bank of core `g` queued (R67). -/
def coreQueues (g b h : Nat) (c : Core) : Bool :=
  c.chans.any (fun ch => ch.2.q.any (entryInBank g b h))
    || (g == h
        && (c.pme.run.isSome || c.pme.calls.any (fun k => match k.kind with | .call _ => true | .mupl _ _ _ _ => false)
          || [Path.mx, .ga, .co].any (fun p =>
              let (r, w) := engineLocal c p
              (r ++ w).any (fun x => rangeInBank x.1 x.2 b))))

/-- Whether a copy node that runs has a side in a bank of core `g` (R67, R274): a collective engine moves it. -/
def nodeInBank (s : State) (g b : Nat) (x : Nat × Node) : Bool :=
  x.2.kind == .copy && x.2.st == .running
    && (let (a, d, len) := nodeSides (ctxAt s x.2.owner) x.2
        [a, d].any (fun sd => sideSpace x.2.home sd == .sp g && rangeInBank (sideAddr sd sd.base.toNat) len b))

/-- Whether an engine access to a bank of the acting core is queued, on a core, in a save image or by a copy node (R67). -/
def bankQueued (s : State) (b : Nat) : Bool :=
  (coresAndImages s).any (fun x => coreQueues s.cur b x.1 x.2) || s.nodes.any (nodeInBank s s.cur b)

/-- BANK.SR or BANK.SW on one bank (R67). -/
def bankSpOne (wake : Bool) (s : State) (b : Nat) : State :=
  if !ownsBank s b then s
  else if wake then updCore (startSpWake s.now none b) s
  else if (getSpBank (core s) b).st = .full ∧ !bankQueued s b then updCore (setSpBank b { st := .ret }) s
  else s

/-- BANK.SR or BANK.SW (R67). -/
def bankSp (wake : Bool) (p : Pred) (a : Reg) (la : Bool) (o : Opnd) (s : State) : State :=
  issue .s p (marksOf a la ++ markO o) (fun s => do
    let base ← rdX (core s) .s a
    let len ← rdO (core s) .s o
    if len = 0 then .ok s
    else if spSize < base.toNat + len.toNat then .error (exc 0x21 base)
    else .ok ((banksSpanned base.toNat len.toNat).foldl (bankSpOne wake) s)) s

/-- BANK.SR (R67). -/
def execBankSR (p : Pred) (a : Reg) (la : Bool) (o : Opnd) (s : State) : Out := .next (bankSp false p a la o s)

/-- BANK.SW (R67). -/
def execBankSW (p : Pred) (a : Reg) (la : Bool) (o : Opnd) (s : State) : Out := .next (bankSp true p a la o s)

/-! ### Landings and wakes (R25, R55 to R59, R63) -/

/-- Whether some of a register's due landings are the owning slot's own results. -/
def ownDue (ls : List Landing) : Bool := ls.any (fun l => !l.arrival)

/-- Results land in their registers (R25, R55); one whose bank is no longer FULL wakes it first (R58). -/
def landOwn (s : State) : State :=
  updCore (fun c => landAll (fun d ls => groupReady d ls && ownDue ls) (dueLandings c) (wakeLandings s.now c)) s

/-- Cross-file moves land where no own result does (R55, R56); one whose bank is not FULL wakes it first. -/
def landMoves (s : State) : State :=
  updCore (fun c => landAll (fun d ls => groupReady d ls && !ownDue ls) (dueLandings c) (wakeLandings s.now c)) s

/-- RESULT_LANDING (R25). -/
def execResultLanding (s : State) : Out := .next (landOwn s)

/-- XMOV_ARRIVAL (R56). -/
def execXmovArrival (s : State) : Out := .next (landMoves s)

/-- RETENTION_LOSS goes to the slot whose access started the wake, or is asynchronous (R59). -/
def raiseLoss (acc : Option Slot) (info : Word) (c : Core) : Core :=
  match acc with
  | some sl => { c with accFaults := c.accFaults ++ [(sl, exc 0x12 info)] }
  | none => { c with asyncs := c.asyncs ++ [exc 0x12 info] }

/-- The outcome of a parity check, drawn anew each time (R58, log 10). -/
def drawParity (s : State) : Bool × State := (Config.parityGood s.ctr, { s with ctr := s.ctr + 1 })

/-- The live registers of a bank become poisoned (R58). -/
def poisonBank (sl : Slot) (b : Nat) (c : Core) : Core :=
  let low := (bankRegs sl b).foldl (fun m r => m ||| (1#32 <<< r)) 0
  let f := c.files
  let po := Map.put f.poison sl.num (Map.get f.poison sl.num 0 ||| (low &&& Map.get f.live sl.num 0))
  { c with files := { f with poison := po } }

/-- The state in which a wake leaves its bank: FULL, or RET where BANK.R has asked for it meanwhile (R58, R67). -/
def awake (k : Bank) : Bank := { st := if k.toRet then .ret else .full }

/-- A register bank's wake completes (R58, R59); there is nothing to do for a bank that does not wake. -/
def wakeDone (sl : Slot) (b : Nat) (s : State) : State :=
  let k := getBank (core s) sl b
  if k.st ≠ .waking then s
  else if k.fromRet then
    let (good, s1) := drawParity s
    updCore (fun c =>
      let c1 := setBank c sl b (awake k)
      if good then c1 else raiseLoss k.byAcc (word (b + sl.num * 32)) (poisonBank sl b c1)) s1
  else updCore (fun c => setBank c sl b (awake k)) s

/-- BANK_WAKE_COMPLETE (R58). -/
def execBankWakeComplete (file : Slot) (bank : BitVec 2) (s : State) : Out := .next (wakeDone file bank.toNat s)

/-- The granules of a scratchpad bank that held regions own (R63). -/
def heldGranules (s : State) (g b : Nat) : List Nat :=
  ((bankRows b).map (· / 64)).filter (fun n =>
    (covering s.regions (.sp g) (64 * n)).any (fun x => x.2.subl.isNone && x.2.st != .scrubbed))

/-- A scratchpad bank's wake completes (R63, R59). -/
def spWakeDone (b : Nat) (s : State) : State :=
  let k := getSpBank (core s) b
  if k.st ≠ .waking then s
  else if k.fromRet then
    let (good, s1) := drawParity s
    let gs := heldGranules s s.cur b
    updCore (fun c =>
      let c1 := setSpBank b (awake k) c
      let po := gs.foldl (fun m g => Map.put m g true) c1.sp.poison
      if good then c1 else raiseLoss k.byAcc (word (2 ^ 63 + b)) { c1 with sp := { c1.sp with poison := po } }) s1
  else updCore (setSpBank b (awake k)) s

/-- SCRATCHPAD_BANK_WAKE (R63). -/
def execScratchpadBankWake (bank : BitVec 9) (s : State) : Out := .next (spWakeDone bank.toNat s)

/-! ### Asynchronous faults and machine checks (R48, R187, R372) -/

/-- A fatal machine check on the acting core (R48, R184, R185): its record is queued, its context killed, and the core is
DISABLED; a core that holds no context ends none (R262). A control core goes on at Holly's fault entry (R194). -/
def checkNow (e : Exc) (s : State) : State :=
  let c := core s
  if isCtrl s.cur then takeTrap e 0 true false s
  else updCore (fun c => { (if c.stop then stopCore c else c) with st := .disabled })
    (if holding c then takeTrap e 0 true false s
     else let d := { c with ctx := 0, br := none, pc := 0 }
          enterFatal s.cur d (recordOf s.cur d e 0 true) s)

/-- The first pending asynchronous fault is taken at a bundle boundary: by a RUNNING or FROZEN compute core that is in no
CLKDIV drain (R187); a control core takes it likewise into Holly's fault entry (R194). -/
def takeAsync (s : State) : State :=
  let c := core s
  match c.asyncs with
  | [] => s
  | e :: es =>
    if (c.st = .running ∨ c.st = .frozen) ∧ c.drain.isNone ∧ c.resume.isNone then
      let s1 := setCore s { c with asyncs := es }
      if e.code = 0x3F then checkNow e s1 else takeTrap e 0 true false s1
    else s

/-- ASYNC_FAULT_TAKE (R187). -/
def execAsyncFaultTake (s : State) : Out := .next (takeAsync s)

/-- A machine check of the acting core (R48, R372): at once, but for a core in a CLKDIV drain, which takes it when the drain ends
(R187). -/
def machineCheck (syndrome : Word) (s : State) : State :=
  let c := core s
  if c.st = .disabled then s
  else if (c.st = .running ∨ c.st = .frozen) ∧ c.drain.isSome then
    setCore s { c with asyncs := c.asyncs ++ [exc 0x3F syndrome] }
  else checkNow (exc 0x3F syndrome) s

/-- MACHINE_CHECK (R48). -/
def execMachineCheck (syndrome : Word) (s : State) : Out := .next (machineCheck syndrome s)

/-! ### The trap queue and the windows (R190 to R193) -/

/-- TRAP_RECORD_UNLATCH (R190). -/
def execTrapRecordUnlatch (s : State) : Out := .next (unlatchOne (clusterNo s.cur) s)

/-- TQPOP (R192): the head record leaves, and latched records that now may enter do (R190). -/
def execTqpop (s : State) : Out := .next (unlatch (clusterNo s.cur) (popRecord (clusterNo s.cur) s))

/-- WDATA_WRITE (R193). -/
def execWdataWrite (v : Word) (s : State) : Out := .next (wdataWrite (clusterNo s.cur) v s)

/-- WDATA_READ (R193): the value goes to the CSR instruction that reads it; a refused read sets WERR. -/
def execWdataRead (s : State) : Out := .next (wdataRead (clusterNo s.cur) s).2

/-- LASTFATAL_CLEAR (R192). -/
def execLastfatalClear (s : State) : Out := .next (clearFatal (clusterNo s.cur) s)

/-! ### CSR writes (R85, R87) -/

/-- LDEPTH_WRITE (R87). -/
def execLdepthWrite (v : Word) (s : State) : Out := .next (updCore (fun c => setDepth c v) s)

/-- LCNT_WRITE (R87). -/
def execLcntWrite (v : Word) (s : State) : Out := .next (updCore (fun c => setCount c v) s)

/-- CSR_WRITE (R85): a write as CSRW makes it, of a CSR that the acting core may name. -/
def execCsrWrite (num : BitVec 12) (v : Word) (s : State) : Out :=
  .next (if csrKnown num.toNat && (!csrControl num.toNat || isCtrl s.cur) then writeCsr .wr num.toNat v s else s)

end Sys2Proof.Machine
end

