-- ==== Sys2Proof/Machine/Numbers.lean ====
section
/-! DEFINITION. Number formats (R88 to R108): values as exact dyadic numbers, arithmetic on them, one rounding into a
format, conversions, the total order, the faithful functions, and packed digits. -/

namespace Sys2Proof.Machine

open Sys2Proof

/-! ### Values and formats (R88, R92) -/

/-- A floating-point value: NaN, an infinity, or (−1)^neg · m · 2^e exactly. -/
inductive FVal where
  | nan
  | inf (neg : Bool)
  | fin (neg : Bool) (m : Nat) (e : Int)
  deriving DecidableEq, Repr

/-- The layout of a binary format (R92): exponent and fraction widths, bias, and whether it has infinities. -/
structure Fmt where
  ew : Nat
  mw : Nat
  bias : Int
  infs : Bool
  deriving DecidableEq, Repr

/-- FP32 (R92). -/
def fp32 : Fmt := ⟨8, 23, 127, true⟩

/-- The binary floating-point format of a tag code (R88, R92). -/
def fmtOf (tag : Nat) : Option Fmt :=
  match tag with
  | 1 => some fp32
  | 2 => some ⟨8, 7, 127, true⟩
  | 3 => some ⟨5, 10, 15, true⟩
  | 4 => some ⟨4, 3, 7, false⟩
  | 5 => some ⟨5, 2, 15, true⟩
  | _ => none

/-- The width of a format. -/
def Fmt.width (f : Fmt) : Nat := 1 + f.ew + f.mw

/-- The greatest exponent of a finite value (R92). -/
def Fmt.emax (f : Fmt) : Int := 2 ^ f.ew - 1 - f.bias - boolNat f.infs

/-- The exponent of the least step (R92). -/
def Fmt.emin (f : Fmt) : Int := 1 - f.bias - f.mw

/-- The significand of the greatest finite value, in units of 2^(emax − mw) (R92). -/
def Fmt.maxSig (f : Fmt) : Nat := 2 ^ (f.mw + 1) - (if f.infs then 1 else 2)

/-- The canonical NaN (R94). -/
def Fmt.nan (f : Fmt) : Nat :=
  if f.infs then (2 ^ f.ew - 1) * 2 ^ f.mw + 2 ^ (f.mw - 1) else 0x7F

/-- The sign bit in place. -/
def Fmt.sign (f : Fmt) (neg : Bool) : Nat := if neg then 2 ^ (f.ew + f.mw) else 0

/-- The greatest finite value with a sign. -/
def Fmt.maxFin (f : Fmt) (neg : Bool) : Nat :=
  f.sign neg + (f.emax + f.bias).toNat * 2 ^ f.mw + (f.maxSig - 2 ^ f.mw)

/-- An infinity, or the NaN of a format without infinities (R98). -/
def Fmt.inf (f : Fmt) (neg : Bool) : Nat :=
  if f.infs then f.sign neg + (2 ^ f.ew - 1) * 2 ^ f.mw else f.nan

/-- The value of a bit pattern (R92). -/
def Fmt.read (f : Fmt) (x : Nat) : FVal :=
  let neg := x / 2 ^ (f.ew + f.mw) % 2 = 1
  let e := x / 2 ^ f.mw % 2 ^ f.ew
  let m := x % 2 ^ f.mw
  if f.infs ∧ e = 2 ^ f.ew - 1 then (if m = 0 then .inf neg else .nan)
  else if !f.infs ∧ e = 2 ^ f.ew - 1 ∧ m = 2 ^ f.mw - 1 then .nan
  else if e = 0 then .fin neg m f.emin
  else .fin neg (2 ^ f.mw + m) (e - f.bias - f.mw)

/-! ### Exact arithmetic (R95, R96) -/

/-- `m · 2^e` in units of `2^q`, where q ≤ e. -/
def shiftTo (q : Int) (m : Nat) (e : Int) : Nat := m * 2 ^ (e - q).toNat

/-- A signed magnitude as an integer. -/
def signed (neg : Bool) (m : Nat) : Int := if neg then -(m : Int) else m

/-- The exact sum of two values (R95): opposite infinities are invalid; an exact zero of unlike signs is +0. -/
def FVal.add : FVal → FVal → FVal
  | .nan, _ => .nan
  | _, .nan => .nan
  | .inf a, .inf b => if a = b then .inf a else .nan
  | .inf a, .fin _ _ _ => .inf a
  | .fin _ _ _, .inf b => .inf b
  | .fin n1 m1 e1, .fin n2 m2 e2 =>
    let q := min e1 e2
    let v := signed n1 (shiftTo q m1 e1) + signed n2 (shiftTo q m2 e2)
    .fin (if v = 0 then n1 && n2 else decide (v < 0)) v.natAbs q

/-- The value with its sign inverted. -/
def FVal.neg : FVal → FVal
  | .nan => .nan
  | .inf a => .inf !a
  | .fin n m e => .fin (!n) m e

/-- The exact product of two values (R95): 0 × ∞ is invalid. -/
def FVal.mul : FVal → FVal → FVal
  | .nan, _ => .nan
  | _, .nan => .nan
  | .inf a, .inf b => .inf (a != b)
  | .inf a, .fin n m _ => if m = 0 then .nan else .inf (a != n)
  | .fin n m _, .inf b => if m = 0 then .nan else .inf (n != b)
  | .fin n1 m1 e1, .fin n2 m2 e2 => .fin (n1 != n2) (m1 * m2) (e1 + e2)

/-- Whether a value is NaN. -/
def FVal.isNan : FVal → Bool
  | .nan => true
  | .inf _ => false
  | .fin _ _ _ => false

/-- Less, with −0 and +0 equal; a NaN is neither less nor greater (R96). -/
def FVal.lt : FVal → FVal → Bool
  | .nan, _ => false
  | _, .nan => false
  | .inf a, .inf b => a && !b
  | .inf a, .fin _ _ _ => a
  | .fin _ _ _, .inf b => !b
  | .fin n1 m1 e1, .fin n2 m2 e2 =>
    let q := min e1 e2
    decide (signed n1 (shiftTo q m1 e1) < signed n2 (shiftTo q m2 e2))

/-- Whether the sign is negative. -/
def FVal.negative : FVal → Bool
  | .nan => false
  | .inf a => a
  | .fin n _ _ => n

/-- Equal, with −0 and +0 equal; a NaN equals nothing (R96). -/
def FVal.eq (a b : FVal) : Bool := !a.isNan && !b.isNan && !a.lt b && !b.lt a

/-- Less for minimumNumber and maximumNumber: −0 ranks below +0 (R96). -/
def FVal.below (a b : FVal) : Bool := a.lt b || (a.eq b && a.negative && !b.negative)

/-! ### Rounding (R97 to R99) -/

/-- The rounding modes (R97), SR with its draw. -/
inductive Mode where
  | rne | rtz | sr (r : Nat)
  deriving DecidableEq, Repr

/-- The number of bits of a Nat, for a Nat of fewer than 2^16 bits. -/
def natLen (m : Nat) : Nat := if m = 0 then 0 else Nat.log2 m + 1

/-- The grid exponent for a magnitude m · 2^e in a format (R97): its precision, or the subnormal step. -/
def Fmt.grid (f : Fmt) (m : Nat) (e : Int) : Int := max (natLen m + e - 1 - f.mw) f.emin

/-- Whether k · 2^q is greater than the greatest finite value. -/
def Fmt.exceeds (f : Fmt) (k : Nat) (q : Int) : Bool :=
  let t := f.emax - f.mw
  let z := min q t
  decide (shiftTo z f.maxSig t < shiftTo z k q)

/-- The bit pattern of k · 2^q, on the format's grid and not over its range. -/
def Fmt.pack (f : Fmt) (neg : Bool) (k : Nat) (q : Int) : Nat :=
  let (k, q) := if k = 2 ^ (f.mw + 1) then (k / 2, q + 1) else (k, q)
  if k < 2 ^ f.mw then f.sign neg + k
  else f.sign neg + (q + f.bias + f.mw).toNat * 2 ^ f.mw + (k - 2 ^ f.mw)

/-- How far a magnitude lies above its lower neighbour lo, of m = lo · 2^d + rem: whether to go up (R97, R99). -/
def goUp (mode : Mode) (lo rem d : Nat) : Bool :=
  match mode with
  | .rne => decide (2 ^ d < 2 * rem) || (decide (2 * rem = 2 ^ d) && lo % 2 == 1)
  | .rtz => false
  | .sr r => decide (r < rem * 2 ^ 24 / 2 ^ d)

/-- A value rounded once into a format (R97, R98). -/
def Fmt.round (f : Fmt) (mode : Mode) (sat : Bool) : FVal → Nat
  | .nan => f.nan
  | .inf n => if sat && !f.infs then f.maxFin n else f.inf n
  | .fin n m e =>
    if m = 0 then f.sign n
    else
      let q := f.grid m e
      let d := (q - e).toNat
      let lo := if e ≥ q then shiftTo q m e else m / 2 ^ d
      let rem := if e ≥ q then 0 else m % 2 ^ d
      let k := if rem ≠ 0 ∧ goUp mode lo rem d then lo + 1 else lo
      if f.exceeds k q || (f.exceeds lo q) then
        match mode with
        | .rne => if sat then f.maxFin n else f.inf n
        | .rtz => f.maxFin n
        | .sr _ => if natLen m + e - 1 > f.emax ∧ !sat then f.inf n else f.maxFin n
      else f.pack n k q

/-- An integral value nearest to m · 2^e by a direction: 0 RNE, 1 toward zero, 2 toward −∞, 3 toward +∞ (R122). -/
def roundInt (dir : Nat) (neg : Bool) (m : Nat) (e : Int) : Nat :=
  if 0 ≤ e then m * 2 ^ e.toNat
  else
    let d := (-e).toNat
    let lo := m / 2 ^ d
    let rem := m % 2 ^ d
    if rem = 0 then lo
    else match dir with
      | 0 => if goUp .rne lo rem d then lo + 1 else lo
      | 1 => lo
      | 2 => if neg then lo + 1 else lo
      | _ => if neg then lo else lo + 1

/-! ### Integer formats (R102) -/

/-- The element width of a tag (R88); 32 where a tag has no elements. -/
def elemBits (tag : Nat) : Nat :=
  if tag = 2 ∨ tag = 3 ∨ tag = 9 then 16
  else if tag = 4 ∨ tag = 5 ∨ tag = 6 ∨ tag = 10 ∨ tag = 11 then 8
  else if 16 ≤ tag ∧ tag ≤ 23 then 1
  else if tag = 32 then 64
  else 32

/-- The tag family F: FP32, BF16, FP16 (R113). -/
def isF (tag : Nat) : Bool := 1 ≤ tag && tag ≤ 3

/-- The tag family I: INT32, INT16, INT8, UINT8 (R113). -/
def isI (tag : Nat) : Bool := 8 ≤ tag && tag ≤ 11

/-- The ends of an integer tag's range (R102). -/
def intRange (tag : Nat) : Int × Int :=
  if tag = 11 then (0, 255) else (-(2 ^ (elemBits tag - 1)), 2 ^ (elemBits tag - 1) - 1)

/-- The value of an integer element. -/
def intElem (tag x : Nat) : Int := if tag = 11 then x % 256 else sextNat (elemBits tag) x

/-- The bits of an integer in an integer format, modulo 2^n. -/
def intBits (tag : Nat) (v : Int) : Nat := wrapNat (elemBits tag) v

/-- A value rounded to an integer format (R101): clamped, NaN to 0. -/
def toIntFmt (tag : Nat) (rtz : Bool) : FVal → Nat
  | .nan => 0
  | .inf n => intBits tag (if n then (intRange tag).1 else (intRange tag).2)
  | .fin n m e => intBits tag (clampInt (signed n (roundInt (boolNat rtz) n m e)) (intRange tag).1 (intRange tag).2)

/-- An integer as a value. -/
def ofInt (v : Int) : FVal := .fin (decide (v < 0)) v.natAbs 0

/-! ### E8M0 and accumulator elements (R93, R101, R107) -/

/-- The value of an E8M0 code (R93). -/
def readE8m0 (x : Nat) : FVal := if x % 256 = 255 then .nan else .fin false 1 ((x % 256 : Nat) - 127)

/-- A value in E8M0 (R101). -/
def toE8m0 : FVal → Nat
  | .nan => 0xFF
  | .inf _ => 0xFF
  | .fin _ m e => if m = 0 then 0 else (clampInt (natLen m + e - 1 + 127) 0 254).toNat

/-- The value of an accumulator element with an exponent (R107). -/
def readAcc (x : Nat) (eacc : Int) : FVal :=
  if x / 2 ^ 63 % 2 = 1 then .nan
  else let v := sextNat 63 x; .fin (decide (v < 0)) v.natAbs eacc

/-! ### Conversion (R101) -/

/-- Whether R101 lists a conversion (R121). -/
def convListed (src dst : Nat) : Bool :=
  let fl (t : Nat) : Bool := 1 ≤ t && t ≤ 5
  (src == dst && elemTag' src) || (fl src && fl dst) || (isF src && (isI dst || dst == 6)) || (isI src && (fl dst || isI dst))
    || (src == 6 && isF dst) || (src == 32 && fl dst)
where
  /-- The element formats: floats, E8M0 and integers. -/
  elemTag' (t : Nat) : Bool := (1 ≤ t && t ≤ 6) || isI t

/-- The value of an element in a tag's format. -/
def readElem (tag x : Nat) (eacc : Int) : FVal :=
  match fmtOf tag with
  | some f => f.read x
  | none => if tag = 6 then readE8m0 x else if tag = 32 then readAcc x eacc else ofInt (intElem tag x)

/-- An element converted between formats (R101). -/
def convert (src dst : Nat) (mode : Mode) (sat : Bool) (eacc : Int) (x : Nat) : Nat :=
  if src = dst then
    match fmtOf src with
    | some f => if (f.read x).isNan then f.nan else x
    | none => x
  else match fmtOf dst with
    | some f => f.round mode sat (readElem src x eacc)
    | none =>
      if dst = 6 then toE8m0 (readElem src x eacc)
      else if isI src then intBits dst (clampInt (intElem src x) (intRange dst).1 (intRange dst).2)
      else toIntFmt dst (mode == .rtz) (readElem src x eacc)

/-! ### The total order (R108) -/

/-- Whether rank(a) > rank(b): +∞, the finite values in order, −∞, then every NaN. -/
def rankAbove (a b : FVal) : Bool := if a.isNan then false else b.isNan || b.lt a

/-- Whether pair (a, i) comes before pair (b, j), or equals it (R116). -/
def before (a b : FVal) (i j : Int) : Bool := rankAbove a b || (!rankAbove b a && decide (i ≤ j))

/-! ### The faithful functions (R117) -/

/-- The integer square root, by digits: the argument `n` bounds the result's bits. -/
def isqrt : Nat → Nat → Nat → Nat
  | 0, _, r => r
  | n + 1, x, r =>
    let t := r + 2 ^ n
    isqrt n x (if t * t ≤ x then t else r)

/-- A faithful result (R117) of a real that is k · 2^e, or lies strictly between k · 2^e and (k + 1) · 2^e when `frac`:
exact when the format holds it, else the neighbour that `up` names, and ±∞ beyond the range. -/
def Fmt.faithful (f : Fmt) (up : Bool) (neg : Bool) (k : Nat) (e : Int) (frac : Bool) : Nat :=
  let q := f.grid k e
  let d := (q - e).toNat
  let lo := if e ≥ q then shiftTo q k e else k / 2 ^ d
  let inexact := frac || (decide (e < q) && k % 2 ^ d != 0)
  if f.exceeds lo q || (inexact && f.exceeds (lo + 1) q) then f.inf neg
  else if inexact && up then f.pack neg (lo + 1) q
  else f.pack neg lo q

/-- The bits of extra precision with which the faithful functions are placed between their neighbours. -/
def precBits : Nat := 256

/-- 1/a (R117). -/
def Fmt.rcp (f : Fmt) (up : Bool) : FVal → Nat
  | .nan => f.nan
  | .inf n => f.sign n
  | .fin n m e =>
    if m = 0 then f.inf n
    else f.faithful up n (2 ^ precBits / m) (-e - precBits) (2 ^ precBits % m != 0)

/-- 1/√a (R117). -/
def Fmt.rsq (f : Fmt) (up : Bool) : FVal → Nat
  | .nan => f.nan
  | .inf n => if n then f.nan else f.sign false
  | .fin n m e =>
    if m = 0 then f.inf n
    else if n then f.nan
    else
      let odd := e % 2 = 1
      let m1 := if odd then 2 * m else m
      let e1 := if odd then e - 1 else e
      let x := 2 ^ (2 * precBits) / m1
      let k := isqrt (precBits + 1) x 0
      f.faithful up false k (-(e1 / 2) - precBits) (k * k * m1 != 2 ^ (2 * precBits))

/-- 2^f for the binary fraction f whose bits below the point are those of `x`, from bit `n − 1` down, in units of
2^−512, rounded down; `r` is 2^(2^−i) for the bit at hand. -/
def exp2Frac : Nat → Nat → Nat → Nat → Nat
  | 0, _, _, acc => acc
  | n + 1, x, r, acc =>
    let r1 := isqrt 520 (r * 2 ^ 512) 0
    exp2Frac n x r1 (if x / 2 ^ n % 2 = 1 then acc * r1 / 2 ^ 512 else acc)

/-- 2^a (R117): an integer a is exact; otherwise the fraction's bits are multiplied out. -/
def Fmt.exp2 (f : Fmt) (up : Bool) : FVal → Nat
  | .nan => f.nan
  | .inf n => if n then f.sign false else f.inf false
  | .fin n m e =>
    if 0 ≤ e ∨ m = 0 then
      let v := signed n m * 2 ^ e.toNat
      f.faithful up false 1 (clampInt v (-2000) 2000) false
    else
      let d := (-e).toNat
      let v := signed n m
      let hi := v / 2 ^ d
      let lo := (v % 2 ^ d).toNat
      if lo = 0 then f.faithful up false 1 (clampInt hi (-2000) 2000) false
      else f.faithful up false (exp2Frac d lo (2 ^ 513) (2 ^ 512)) (clampInt hi (-2000) 2000 - 512) true

/-- The binary digits of log2 x for x in [1, 2), x in units of 2^−1024, by squaring (R117). -/
def log2Frac : Nat → Nat → Nat → Nat
  | 0, _, acc => acc
  | n + 1, x, acc =>
    let y := x * x / 2 ^ 1024
    if 2 ^ 1025 ≤ y then log2Frac n (y / 2) (2 * acc + 1) else log2Frac n y (2 * acc)

/-- log2 a (R117). -/
def Fmt.log2 (f : Fmt) (up : Bool) : FVal → Nat
  | .nan => f.nan
  | .inf n => if n then f.nan else f.inf false
  | .fin n m e =>
    if m = 0 then f.inf true
    else if n then f.nan
    else
      let l := natLen m - 1
      let hi : Int := l + e
      if m = 2 ^ l then f.round .rne false (ofInt hi)
      else
        let v := hi * 2 ^ 256 + (log2Frac 256 (m * 2 ^ (1024 - l)) 0 : Nat)
        if 0 ≤ v then f.faithful up false v.toNat (-256) true
        else f.faithful up true (-v - 1).toNat (-256) true

/-! ### Packed digits (R105, R106) -/

/-- A digit's width by its DW code (R88). -/
def digitBits (dw : Nat) : Nat := 8 * 2 ^ dw

/-- Digit k of an integer in digit width g (R106), of an integer given modulo a power of two above the digit. -/
def digit (g p k : Nat) : Int :=
  let carry := if k = 0 then 0 else p / 2 ^ (g * k - 1) % 2
  sextNat g (p / 2 ^ (g * k) + carry)

/-- Σ v(i) · 2^(g·i). -/
def packDigits (g : Nat) : List Int → Int
  | [] => 0
  | v :: vs => v + 2 ^ g * packDigits g vs

end Sys2Proof.Machine
end

