-- ==== Sys2Proof/Machine/Vector.lean ====
section
/-! DEFINITION. The vector slots (R109 to R126): sources with their tag checks, governed writes, arithmetic, compares,
bitwise and lane-mask instructions, conversion, permutation and reduction. -/

namespace Sys2Proof.Machine

open Sys2Proof

/-! ### Elements, masks and governed writes (R89, R91, R111) -/

/-- The lowest `k` fields of `n` bits of a Nat. -/
def splitBits (n : Nat) : Nat → Nat → List Nat
  | 0, _ => []
  | k + 1, v => v % 2 ^ n :: splitBits n k (v / 2 ^ n)

/-- Fields of `n` bits joined, the first lowest. -/
def joinBits (n : Nat) : List Nat → Nat
  | [] => 0
  | x :: xs => x % 2 ^ n + 2 ^ n * joinBits n xs

/-- The element width of a register's tag (R88). -/
def vWidth (tag : BitVec 6) (dw : BitVec 2) : Nat :=
  if tag = 0x18 then digitBits dw.toNat else elemBits tag.toNat

/-- The elements of a register, `n` bits each (R89). -/
def elemsOf (n : Nat) (v : VWord) : List Nat := splitBits n (2048 / n) v.toNat

/-- A register image of elements of `n` bits (R89). -/
def vecOf (n : Nat) (xs : List Nat) : VWord := BitVec.ofNat 2048 (joinBits n xs)

/-- The bits of the lanes that a mask selects. -/
def laneBits (m : Word) : VWord :=
  BitVec.ofNat 2048 (joinBits 32 ((List.range 64).map (fun i => if m.getLsbD i then 2 ^ 32 - 1 else 0)))

/-- The bits that a mask governs in elements of `n` bits (R111): a 64-bit element follows its lower lane. -/
def govBits (n : Nat) (m : Word) : VWord :=
  if n = 64 then
    let e := m &&& 0x5555555555555555
    laneBits (e ||| (e <<< 1))
  else laneBits m

/-- A vector result under a bit mask: with nothing selected nothing is written (R91, R111). -/
def putBits (u : VU) (d : Reg) (bits mask : VWord) (tag : BitVec 6) (dw : BitVec 2) (lat : Nat) (s : State) : State :=
  if mask = 0 then s else updCore (resV u.slot d bits mask tag dw lat) s

/-- A vector result of elements of `n` bits under the selected mask. -/
def putV (u : VU) (p : Pred) (d : Reg) (n : Nat) (bits : VWord) (tag : BitVec 6) (dw : BitVec 2) (lat : Nat) (s : State) :
    State :=
  putBits u d bits (govBits n (selMask (core s) u.slot p)) tag dw lat s

/-- A vector result given as elements of a tag. -/
def putE (u : VU) (p : Pred) (d : Reg) (tag : Nat) (xs : List Nat) (lat : Nat) (s : State) : State :=
  putV u p d (elemBits tag) (vecOf (elemBits tag) xs) (BitVec.ofNat 6 tag) 0 lat s

/-- A lane-mask result, each bit governed as a lane (R115, R120). -/
def putM (u : VU) (p : Pred) (d : BitVec 3) (v : Word) (lat : Nat) (s : State) : State :=
  let m := selMask (core s) u.slot p
  if m = 0 then s else updCore (resP u.slot d.toNat v m lat) s

/-! ### Tag checks (R90, R110) -/

/-- A later source's tag checked, and against the first source's. -/
def needSame (u : VU) (first : VReg) (r : Reg) (v : VReg) : Except Exc Unit :=
  if v.tag = first.tag ∧ (v.tag = 0x18 → v.dw = first.dw) then .ok () else .error (tagFault u r v)

/-- Exactly one tag. -/
def only (t : Nat) (x : Nat) : Bool := x == t

/-- The marks of a pair source: both registers (R112). -/
def pairMarks (a : Reg) (la : Bool) : List Reg := if la then [a, nextReg a] else []

/-! ### Shapes of instruction -/

/-- Two sources of one tag, element by element; the result carries the tag. -/
def vbin (ok : Nat → Bool) (f : Nat → Nat → Nat → Nat) (lat : Nat) (u : VU) (p : Pred) (d a : Reg) (la : Bool) (b : Reg)
    (lb : Bool) (s : State) : State :=
  issueV u (marksOf a la ++ marksOf b lb) (fun s => do
    let x ← rdV (core s) u.slot a
    let y ← rdV (core s) u.slot b
    needTag u ok a x
    needSame u x b y
    let t := x.tag.toNat
    let n := elemBits t
    .ok (putE u p d t (List.zipWith (f t) (elemsOf n x.bits) (elemsOf n y.bits)) lat s)) s

/-- Three sources of one tag (a, b, then d), element by element. -/
def vtern (ok : Nat → Bool) (f : Nat → Nat → Nat → Nat → Nat) (lat : Nat) (u : VU) (p : Pred) (d a : Reg) (la : Bool)
    (b : Reg) (lb : Bool) (s : State) : State :=
  issueV u (marksOf a la ++ marksOf b lb) (fun s => do
    let x ← rdV (core s) u.slot a
    let y ← rdV (core s) u.slot b
    let z ← rdV (core s) u.slot d
    needTag u ok a x
    needSame u x b y
    needSame u x d z
    let t := x.tag.toNat
    let n := elemBits t
    .ok (putE u p d t (List.zipWith (fun f z => f z) (List.zipWith (f t) (elemsOf n x.bits) (elemsOf n y.bits))
      (elemsOf n z.bits)) lat s)) s

/-- One source, element by element; the result carries the tag. -/
def vun (ok : Nat → Bool) (f : Nat → Nat → Nat) (lat : Nat) (u : VU) (p : Pred) (d a : Reg) (la : Bool) (s : State) : State :=
  issueV u (marksOf a la) (fun s => do
    let x ← rdV (core s) u.slot a
    needTag u ok a x
    let t := x.tag.toNat
    .ok (putE u p d t ((elemsOf (elemBits t) x.bits).map (f t)) lat s)) s

/-! ### Floating-point arithmetic (R114) -/

/-- The format of a float tag; FP32 where the tag is no float. -/
def floatOf (t : Nat) : Fmt := (fmtOf t).getD fp32

/-- The rounding mode of a `.RTZ` bit. -/
def rtzMode (rtz : Bool) : Mode := if rtz then .rtz else .rne

/-- An exact binary operation rounded once. -/
def fBin (f : FVal → FVal → FVal) (mode : Mode) (t x y : Nat) : Nat :=
  let F := floatOf t
  F.round mode false (f (F.read x) (F.read y))

/-- VFMA's element: the exact a × b + d rounded once. -/
def fFma (mode : Mode) (t x y z : Nat) : Nat :=
  let F := floatOf t
  F.round mode false (((F.read x).mul (F.read y)).add (F.read z))

/-- minimumNumber (R96). -/
def fMinNum (t x y : Nat) : Nat :=
  let F := floatOf t
  let a := F.read x
  let b := F.read y
  if a.isNan then (if b.isNan then F.nan else y) else if b.isNan then x else if b.below a then y else x

/-- maximumNumber (R96). -/
def fMaxNum (t x y : Nat) : Nat :=
  let F := floatOf t
  let a := F.read x
  let b := F.read y
  if a.isNan then (if b.isNan then F.nan else y) else if b.isNan then x else if a.below b then y else x

/-- VADD (R114). -/
def execVadd (u : VU) (p : Pred) (d a : Reg) (la : Bool) (b : Reg) (lb rtz : Bool) (s : State) : Out :=
  .next (vbin isF (fBin FVal.add (rtzMode rtz)) 3 u p d a la b lb s)

/-- VSUB (R114). -/
def execVsub (u : VU) (p : Pred) (d a : Reg) (la : Bool) (b : Reg) (lb rtz : Bool) (s : State) : Out :=
  .next (vbin isF (fBin (fun x y => x.add y.neg) (rtzMode rtz)) 3 u p d a la b lb s)

/-- VMUL (R114). -/
def execVmul (u : VU) (p : Pred) (d a : Reg) (la : Bool) (b : Reg) (lb rtz : Bool) (s : State) : Out :=
  .next (vbin isF (fBin FVal.mul (rtzMode rtz)) 4 u p d a la b lb s)

/-- VFMA (R114). -/
def execVfma (u : VU) (p : Pred) (d a : Reg) (la : Bool) (b : Reg) (lb rtz : Bool) (s : State) : Out :=
  .next (vtern isF (fFma (rtzMode rtz)) 5 u p d a la b lb s)

/-- VMIN (R114). -/
def execVmin (u : VU) (p : Pred) (d a : Reg) (la : Bool) (b : Reg) (lb : Bool) (s : State) : Out :=
  .next (vbin isF fMinNum 3 u p d a la b lb s)

/-- VMAX (R114). -/
def execVmax (u : VU) (p : Pred) (d a : Reg) (la : Bool) (b : Reg) (lb : Bool) (s : State) : Out :=
  .next (vbin isF fMaxNum 3 u p d a la b lb s)

/-- The tags of VABS and VNEG (R114). -/
def isSigned (t : Nat) : Bool := 1 ≤ t && t ≤ 5

/-- VABS's element: the sign bit cleared (R94). -/
def fAbs (t x : Nat) : Nat := x % 2 ^ (elemBits t - 1)

/-- VNEG's element: the sign bit inverted (R94). -/
def fNeg (t x : Nat) : Nat := (x + 2 ^ (elemBits t - 1)) % 2 ^ elemBits t

/-- VABS (R114). -/
def execVabs (u : VU) (p : Pred) (d a : Reg) (la : Bool) (s : State) : Out := .next (vun isSigned fAbs 2 u p d a la s)

/-- VNEG (R114). -/
def execVneg (u : VU) (p : Pred) (d a : Reg) (la : Bool) (s : State) : Out := .next (vun isSigned fNeg 2 u p d a la s)

/-! ### Compares (R115) -/

/-- VCMP's conditions on two values (R96, R115). -/
def fCond (cc : Nat) (a b : FVal) : Bool :=
  match cc with
  | 0 => a.eq b
  | 1 => !a.eq b
  | 2 => a.lt b
  | 3 => a.lt b || a.eq b
  | 4 => b.lt a
  | 5 => b.lt a || a.eq b
  | 6 => a.isNan || b.isNan
  | _ => !a.isNan && !b.isNan

/-- VICMP's conditions (R115). -/
def iCond (cc : Nat) (a b : Int) : Bool :=
  match cc with
  | 0 => decide (a = b)
  | 1 => decide (a ≠ b)
  | 2 => decide (a < b)
  | 3 => decide (a ≤ b)
  | 4 => decide (b < a)
  | _ => decide (b ≤ a)

/-- The lane-mask word of 64 Bools, the first lowest. -/
def maskOf (bs : List Bool) : Word := BitVec.ofNat 64 (joinBits 1 (bs.map boolNat))

/-- Each lane's AND over the conditions of its `k` elements. -/
def laneAnd (k : Nat) : Nat → List Bool → List Bool
  | 0, _ => []
  | n + 1, bs => (bs.take k).all id :: laneAnd k n (bs.drop k)

/-- A compare of two sources of one tag into a lane mask (R115). -/
def vcompare (ok : Nat → Bool) (f : Nat → Nat → Nat → Bool) (lat : Nat) (u : VU) (p : Pred) (d : BitVec 3) (a : Reg)
    (la : Bool) (b : Reg) (lb : Bool) (s : State) : State :=
  issueV u (marksOf a la ++ marksOf b lb) (fun s => do
    let x ← rdV (core s) u.slot a
    let y ← rdV (core s) u.slot b
    needTag u ok a x
    needSame u x b y
    let t := x.tag.toNat
    let n := elemBits t
    .ok (putM u p d (maskOf (laneAnd (32 / n) 64 (List.zipWith (f t) (elemsOf n x.bits) (elemsOf n y.bits)))) lat s)) s

/-- VCMP (R115). -/
def execVcmp (u : VU) (p : Pred) (d : BitVec 3) (a : Reg) (la : Bool) (b : Reg) (lb : Bool) (cc : BitVec 3) (s : State) : Out :=
  .next (vcompare isF (fun t x y => fCond cc.toNat ((floatOf t).read x) ((floatOf t).read y)) 3 u p d a la b lb s)

/-- VICMP (R115). -/
def execVicmp (u : VU) (p : Pred) (d : BitVec 3) (a : Reg) (la : Bool) (b : Reg) (lb : Bool) (cc : BitVec 3) (s : State) : Out :=
  .next (vcompare isI (fun t x y => iCond cc.toNat (intElem t x) (intElem t y)) 2 u p d a la b lb s)

/-! ### Compare and swap (R116) -/

/-- A (key, index) pair. -/
abbrev KeyPair := Nat × Nat

/-- The order of R108 and R116 on pairs: FP32 keys, signed indices. -/
def pairBefore (x y : KeyPair) : Bool := before (fp32.read x.1) (fp32.read y.1) (sextNat 32 x.2) (sextNat 32 y.2)

/-- A pair source: the even register FP32, the odd one INT32 (R112, R116). -/
def rdPair (u : VU) (a : Reg) (s : State) : Except Exc (VReg × VReg) := do
  let x ← rdV (core s) u.slot a
  let y ← rdV (core s) u.slot (nextReg a)
  .ok (x, y)

/-- The tags of a pair of keys and indices. -/
def needKeys (u : VU) (a : Reg) (v : VReg × VReg) : Except Exc Unit := do
  needTag u (only 1) a v.1
  needTag u (only 8) (nextReg a) v.2

/-- The 64 pairs of a pair of registers. -/
def pairsOf (v : VReg × VReg) : List KeyPair := List.zip (elemsOf 32 v.1.bits) (elemsOf 32 v.2.bits)

/-- A pair of results, keys and indices, that land together (R112). -/
def putPairs (u : VU) (p : Pred) (d : Reg) (ws : List KeyPair) (s : State) : State :=
  putE u p (nextReg d) 8 (ws.map (·.2)) 3 (putE u p d 1 (ws.map (·.1)) 3 s)

/-- VCSWP.HI and VCSWP.LO (R116). -/
def vcswp (pick : KeyPair → KeyPair → KeyPair) (u : VU) (p : Pred) (d a : Reg) (la : Bool) (b : Reg) (lb : Bool) (s : State) :
    State :=
  issueV u (pairMarks a la ++ pairMarks b lb) (fun s => do
    let x ← rdPair u a s
    let y ← rdPair u b s
    needKeys u a x
    needKeys u b y
    .ok (putPairs u p d (List.zipWith pick (pairsOf x) (pairsOf y)) s)) s

/-- VCSWP.HI (R116). -/
def execVcswpHi (u : VU) (p : Pred) (d a : Reg) (la : Bool) (b : Reg) (lb : Bool) (s : State) : Out :=
  .next (vcswp (fun x y => if pairBefore x y then x else y) u p d a la b lb s)

/-- VCSWP.LO (R116). -/
def execVcswpLo (u : VU) (p : Pred) (d a : Reg) (la : Bool) (b : Reg) (lb : Bool) (s : State) : Out :=
  .next (vcswp (fun x y => if pairBefore x y then y else x) u p d a la b lb s)

/-- The exchange across distance 2^k (R116): the lower lane keeps the earlier pair, the upper the later. -/
def exchange (k : Nat) (ps : List KeyPair) : List KeyPair :=
  (List.range 64).map fun i =>
    let j := i ^^^ 2 ^ k
    let x := ps.getD (min i j) (0, 0)
    let y := ps.getD (max i j) (0, 0)
    if decide (i = min i j) == pairBefore x y then x else y

/-- VCSWP.Xk (R116). -/
def execVcswpX (u : VU) (p : Pred) (d a : Reg) (la : Bool) (k : BitVec 3) (s : State) : Out :=
  .next (issueV u (pairMarks a la) (fun s => do
    let x ← rdPair u a s
    needKeys u a x
    .ok (putPairs u p d (exchange k.toNat (pairsOf x)) s)) s)

/-! ### The faithful functions (R117) -/

/-- One of the four functions, with the neighbour that the device takes (log 7). -/
def vfaithful (op : Nat) (f : Fmt → Bool → FVal → Nat) (u : VU) (p : Pred) (d a : Reg) (la : Bool) (s : State) : State :=
  vun isF (fun t x => f (floatOf t) (Config.pickUpper op t x) ((floatOf t).read x)) 8 u p d a la s

/-- VRCP (R117). -/
def execVrcp (u : VU) (p : Pred) (d a : Reg) (la : Bool) (s : State) : Out := .next (vfaithful 0 Fmt.rcp u p d a la s)

/-- VRSQ (R117). -/
def execVrsq (u : VU) (p : Pred) (d a : Reg) (la : Bool) (s : State) : Out := .next (vfaithful 1 Fmt.rsq u p d a la s)

/-- VEXP2 (R117). -/
def execVexp2 (u : VU) (p : Pred) (d a : Reg) (la : Bool) (s : State) : Out := .next (vfaithful 2 Fmt.exp2 u p d a la s)

/-- VLOG2 (R117). -/
def execVlog2 (u : VU) (p : Pred) (d a : Reg) (la : Bool) (s : State) : Out := .next (vfaithful 3 Fmt.log2 u p d a la s)

/-! ### Integer arithmetic (R118) -/

/-- An operation on the values of two integer elements, wrapping. -/
def iWrap (f : Int → Int → Int) (t x y : Nat) : Nat := intBits t (f (intElem t x) (intElem t y))

/-- An operation clamped to the tag's range. -/
def iClamp (f : Int → Int → Int) (t x y : Nat) : Nat :=
  intBits t (clampInt (f (intElem t x) (intElem t y)) (intRange t).1 (intRange t).2)

/-- VIADD (R118). -/
def execViadd (u : VU) (p : Pred) (d a : Reg) (la : Bool) (b : Reg) (lb : Bool) (s : State) : Out :=
  .next (vbin isI (iWrap (· + ·)) 2 u p d a la b lb s)

/-- VISUB (R118). -/
def execVisub (u : VU) (p : Pred) (d a : Reg) (la : Bool) (b : Reg) (lb : Bool) (s : State) : Out :=
  .next (vbin isI (iWrap (· - ·)) 2 u p d a la b lb s)

/-- VIADDS (R118). -/
def execViadds (u : VU) (p : Pred) (d a : Reg) (la : Bool) (b : Reg) (lb : Bool) (s : State) : Out :=
  .next (vbin isI (iClamp (· + ·)) 2 u p d a la b lb s)

/-- VISUBS (R118). -/
def execVisubs (u : VU) (p : Pred) (d a : Reg) (la : Bool) (b : Reg) (lb : Bool) (s : State) : Out :=
  .next (vbin isI (iClamp (· - ·)) 2 u p d a la b lb s)

/-- VIMUL (R118). -/
def execVimul (u : VU) (p : Pred) (d a : Reg) (la : Bool) (b : Reg) (lb : Bool) (s : State) : Out :=
  .next (vbin isI (iWrap (· * ·)) 2 u p d a la b lb s)

/-- VIMAC (R118): d + a × b, wrapping. -/
def execVimac (u : VU) (p : Pred) (d a : Reg) (la : Bool) (b : Reg) (lb : Bool) (s : State) : Out :=
  .next (vtern isI (fun t x y z => intBits t (intElem t z + intElem t x * intElem t y)) 2 u p d a la b lb s)

/-- VIMIN (R118). -/
def execVimin (u : VU) (p : Pred) (d a : Reg) (la : Bool) (b : Reg) (lb : Bool) (s : State) : Out :=
  .next (vbin isI (iWrap min) 2 u p d a la b lb s)

/-- VIMAX (R118). -/
def execVimax (u : VU) (p : Pred) (d a : Reg) (la : Bool) (b : Reg) (lb : Bool) (s : State) : Out :=
  .next (vbin isI (iWrap max) 2 u p d a la b lb s)

/-- VSHL (R118). -/
def execVshl (u : VU) (p : Pred) (d a : Reg) (la : Bool) (b : Reg) (lb : Bool) (s : State) : Out :=
  .next (vbin isI (fun t x y => x * 2 ^ (y % elemBits t) % 2 ^ elemBits t) 2 u p d a la b lb s)

/-- VSHR (R118). -/
def execVshr (u : VU) (p : Pred) (d a : Reg) (la : Bool) (b : Reg) (lb : Bool) (s : State) : Out :=
  .next (vbin isI (fun t x y => x / 2 ^ (y % elemBits t)) 2 u p d a la b lb s)

/-- VSRA (R118). -/
def execVsra (u : VU) (p : Pred) (d a : Reg) (la : Bool) (b : Reg) (lb : Bool) (s : State) : Out :=
  .next (vbin isI (fun t x y => intBits t (intElem t x / 2 ^ (y % elemBits t))) 2 u p d a la b lb s)

/-- VPOPC (R118). -/
def execVpopc (u : VU) (p : Pred) (d a : Reg) (la : Bool) (s : State) : Out :=
  .next (vun isI (fun t x => popNat (elemBits t) x) 2 u p d a la s)

/-! ### Bitwise operations, select and move (R119) -/

/-- The common tag of two sources, or NONE (R90). DESIGN CHOICE (log 101): PACKED sources of different digit widths give NONE. -/
def commonTag (x y : VReg) : BitVec 6 × BitVec 2 :=
  if x.tag = y.tag ∧ (x.tag = 0x18 → x.dw = y.dw) then (x.tag, x.dw) else (0, 0)

/-- A bitwise operation of two sources with any tags, each lane by its own bit. -/
def vbits (f : Core → VWord → VWord → VWord) (u : VU) (p : Pred) (d a : Reg) (la : Bool) (b : Reg) (lb : Bool) (s : State) :
    State :=
  issueV u (marksOf a la ++ marksOf b lb) (fun s => do
    let x ← rdV (core s) u.slot a
    let y ← rdV (core s) u.slot b
    let (t, w) := commonTag x y
    .ok (putV u p d 32 (f (core s) x.bits y.bits) t w 2 s)) s

/-- VAND (R119). -/
def execVand (u : VU) (p : Pred) (d a : Reg) (la : Bool) (b : Reg) (lb : Bool) (s : State) : Out :=
  .next (vbits (fun _ x y => x &&& y) u p d a la b lb s)

/-- VOR (R119). -/
def execVor (u : VU) (p : Pred) (d a : Reg) (la : Bool) (b : Reg) (lb : Bool) (s : State) : Out :=
  .next (vbits (fun _ x y => x ||| y) u p d a la b lb s)

/-- VXOR (R119). -/
def execVxor (u : VU) (p : Pred) (d a : Reg) (la : Bool) (b : Reg) (lb : Bool) (s : State) : Out :=
  .next (vbits (fun _ x y => x ^^^ y) u p d a la b lb s)

/-- VANDN (R119). -/
def execVandn (u : VU) (p : Pred) (d a : Reg) (la : Bool) (b : Reg) (lb : Bool) (s : State) : Out :=
  .next (vbits (fun _ x y => x &&& ~~~y) u p d a la b lb s)

/-- VSEL (R119): the selector picks each lane's source. -/
def execVsel (u : VU) (p : Pred) (d : Reg) (k : BitVec 3) (a : Reg) (la : Bool) (b : Reg) (lb : Bool) (s : State) : Out :=
  .next (vbits (fun c x y => mergeBits y x (laneBits (getP c u.slot k.toNat))) u p d a la b lb s)

/-- VMOV (R119). -/
def execVmov (u : VU) (p : Pred) (d a : Reg) (la : Bool) (s : State) : Out :=
  .next (issueV u (marksOf a la) (fun s => do
    let x ← rdV (core s) u.slot a
    .ok (putV u p d 32 x.bits x.tag x.dw 2 s)) s)

/-! ### Lane masks (R120) -/

/-- VPAND, VPOR and VPXOR (R120). -/
def vmaskOp (f : Word → Word → Word) (u : VU) (p : Pred) (d a b : BitVec 3) (n : Bool) (s : State) : State :=
  issueV u [] (fun s =>
    let y := getP (core s) u.slot b.toNat
    .ok (putM u p d (f (getP (core s) u.slot a.toNat) (if n then ~~~y else y)) 2 s)) s

/-- VPAND (R120). -/
def execVpand (u : VU) (p : Pred) (d a b : BitVec 3) (n : Bool) (s : State) : Out :=
  .next (vmaskOp (· &&& ·) u p d a b n s)

/-- VPOR (R120). -/
def execVpor (u : VU) (p : Pred) (d a b : BitVec 3) (n : Bool) (s : State) : Out :=
  .next (vmaskOp (· ||| ·) u p d a b n s)

/-- VPXOR (R120). -/
def execVpxor (u : VU) (p : Pred) (d a b : BitVec 3) (n : Bool) (s : State) : Out :=
  .next (vmaskOp (· ^^^ ·) u p d a b n s)

/-- VPNOT (R120). -/
def execVpnot (u : VU) (p : Pred) (d a : BitVec 3) (s : State) : Out :=
  .next (issueV u [] (fun s => .ok (putM u p d (~~~getP (core s) u.slot a.toNat) 2 s)) s)

/-- VPSET (R120): the 64 bits of a literal, or a bit for each nonzero lane of a register. -/
def execVpset (u : VU) (p : Pred) (d : BitVec 3) (o : Opnd) (s : State) : Out :=
  .next (issueV u (markO o) (fun s =>
    match o with
    | .lit v => .ok (putM u p d v 2 s)
    | .reg b _ => do
      let x ← rdV (core s) u.slot b
      .ok (putM u p d (maskOf ((elemsOf 32 x.bits).map (fun e => e != 0))) 2 s)) s)

/-- VPCNT (R120). -/
def execVpcnt (u : VU) (p : Pred) (d : Reg) (a : BitVec 3) (s : State) : Out :=
  .next (issueV u [] (fun s =>
    .ok (putE u p d 8 (List.replicate 64 (popcount (getP (core s) u.slot a.toNat))) 2 s)) s)

/-! ### Conversion and rounding (R100, R121, R122) -/

/-- One step of a stochastic-rounding generator (R100): the new state. -/
def genStep (x : BitVec 32) : BitVec 32 :=
  let a := x ^^^ (x <<< 13)
  let b := a ^^^ (a >>> 17)
  b ^^^ (b <<< 5)

/-- The 24-bit draw of a generator's state (R100). -/
def genDraw (x : BitVec 32) : Nat := x.toNat / 256

/-- The draws of `n` steps from a state, with the state after them. -/
def genRun : Nat → BitVec 32 → List Nat × BitVec 32
  | 0, x => ([], x)
  | n + 1, x =>
    let y := genStep x
    let (rs, z) := genRun n y
    (genDraw y :: rs, z)

/-- The number of a vector unit's generator: 0 for V0, 1 for V1; the matrix engine's is 2 (R100). -/
def genOf : VU → Nat
  | .v0 => 0 | .v1 => 1

/-- A generator's state; it is never 0 (R100), and 1 before the first launch (log 4). -/
def genAt (c : Core) (k : Nat) : BitVec 32 := Map.get c.gens k 1

/-- VCVT (R121). -/
def execVcvt (u : VU) (p : Pred) (d a : Reg) (la : Bool) (fmt : BitVec 5) (mode : BitVec 2) (sat : Bool) (s : State) : Out :=
  .next (issueV u (marksOf a la) (fun s => do
    let x ← rdV (core s) u.slot a
    let t := x.tag.toNat
    let eacc : Int ← if t = 0x20 then (do
        let z ← rdV (core s) u.slot d
        .ok (sextNat 10 z.bits.toNat)) else .ok 0
    let q := fmt.toNat
    needTag u (fun t => convListed t q) a x
    let n := min (2048 / elemBits t) (2048 / elemBits q)
    let xs := (elemsOf (elemBits t) x.bits).take n
    if mode = 2 then
      let (rs, g) := genRun n (genAt (core s) (genOf u))
      let s1 := updCore (fun c => { c with gens := Map.put c.gens (genOf u) g }) s
      .ok (putE u p d q (List.zipWith (fun r x => convert t q (.sr r) sat eacc x) rs xs) 3 s1)
    else .ok (putE u p d q (xs.map (convert t q (rtzMode (mode == 1)) sat eacc)) 3 s)) s)

/-- VRND's element (R122). -/
def fRnd (dir t x : Nat) : Nat :=
  let F := floatOf t
  match F.read x with
  | .nan => F.nan
  | .inf _ => x
  | .fin n m e => F.round .rne false (.fin n (roundInt dir n m e) 0)

/-- VRND (R122). -/
def execVrnd (u : VU) (p : Pred) (d a : Reg) (la : Bool) (mode : BitVec 2) (s : State) : Out :=
  .next (vun isF (fRnd mode.toNat) 3 u p d a la s)

/-- VCLMP's element (R122). -/
def fClamp (t x y : Nat) : Nat :=
  if isF t then
    let m := fAbs t y
    fMaxNum t (fMinNum t x m) (fNeg t m)
  else if t = 11 then min x y
  else
    let m := min ((intElem t y).natAbs : Int) (intRange t).2
    intBits t (min (max (intElem t x) (-m)) m)

/-- VCLMP (R122). -/
def execVclmp (u : VU) (p : Pred) (d a : Reg) (la : Bool) (b : Reg) (lb : Bool) (s : State) : Out :=
  .next (vbin (fun t => isF t || isI t) fClamp 3 u p d a la b lb s)

/-! ### Permutation and broadcast (R123, R124) -/

/-- An instruction that rearranges a under b, whose tag is fixed; the result takes a's tag, and `n` is the width by which
the mask governs, where it is not that of a's tag. DESIGN CHOICE (log 17): every tag but NONE is accepted, E8M0 too, as R123 and R124
say and R93 does not. -/
def vshuffle (bt : Nat) (f : VWord → VWord → VWord) (n : Option Nat) (marks : List Reg) (u : VU) (p : Pred) (d a b : Reg)
    (s : State) : State :=
  issueV u marks (fun s => do
    let x ← rdV (core s) u.slot a
    let y ← rdV (core s) u.slot b
    needTag u notNone a x
    needTag u (only bt) b y
    .ok (putV u p d (n.getD (vWidth x.tag x.dw)) (f x.bits y.bits) x.tag x.dw 3 s)) s

/-- Lanes of a chosen by b (R123). -/
def permLanes (x y : VWord) : VWord := vecOf 32 ((elemsOf 32 y).map (fun i => x.toNat / 2 ^ (32 * (i % 64)) % 2 ^ 32))

/-- Bytes of a chosen by b (R123). -/
def permBytes (x y : VWord) : VWord := vecOf 8 ((elemsOf 8 y).map (fun i => x.toNat / 2 ^ (8 * i) % 256))

/-- VPERM (R123). -/
def execVperm (u : VU) (p : Pred) (d a : Reg) (la : Bool) (b : Reg) (lb byte : Bool) (s : State) : Out :=
  .next (if byte then vshuffle 11 permBytes (some 32) (marksOf a la ++ marksOf b lb) u p d a b s
    else vshuffle 8 permLanes none (marksOf a la ++ marksOf b lb) u p d a b s)

/-- VROT (R123): byte j := byte (j + k) mod 256. -/
def execVrot (u : VU) (p : Pred) (d a : Reg) (la : Bool) (b : Reg) (lb : Bool) (s : State) : Out :=
  .next (vshuffle 8 (fun x y => x.rotateRight (8 * (y.toNat % 256))) none (marksOf a la ++ marksOf b lb) u p d a b s)

/-- VBCST (R124). -/
def execVbcst (u : VU) (p : Pred) (d a : Reg) (la : Bool) (o : Opnd) (fmt : BitVec 4) (s : State) : Out :=
  .next (match o with
    | .lit v => issueV u [] (fun s =>
        .ok (putE u p d fmt.toNat (List.replicate (2048 / elemBits fmt.toNat) v.toNat) 3 s)) s
    | .reg b lb => vshuffle 8 (fun x y => vecOf 32 (List.replicate 64 (x.toNat / 2 ^ (32 * (y.toNat % 64)) % 2 ^ 32))) none
        (marksOf a la ++ marksOf b lb) u p d a b s)

/-! ### Reduction and scan (R125, R126) -/

/-- The operation of VRED and VSCAN (R125). -/
def redOp (op t x y : Nat) : Nat :=
  if t = 8 then
    match op with
    | 0 => iWrap (· + ·) 8 x y
    | 1 => iWrap max 8 x y
    | _ => iWrap min 8 x y
  else
    match op with
    | 0 => fBin FVal.add .rne t x y
    | 1 => fMaxNum t x y
    | _ => fMinNum t x y

/-- One level of the pairwise tree. -/
def halve (f : Nat → Nat → Nat) : List Nat → List Nat
  | x :: y :: xs => f x y :: halve f xs
  | xs => xs

/-- The pairwise tree of R125, of at most `k` levels. -/
def treeRed (f : Nat → Nat → Nat) : Nat → List Nat → Nat
  | 0, xs => xs.headD 0
  | k + 1, xs => treeRed f k (halve f xs)

/-- The inclusive scan of R125 from an accumulated value. -/
def scanFrom (f : Nat → Nat → Nat) : Nat → List Nat → List Nat
  | _, [] => []
  | acc, x :: xs => let y := f acc x; y :: scanFrom f y xs

/-- The inclusive scan of R125. -/
def scanAll (f : Nat → Nat → Nat) : List Nat → List Nat
  | [] => []
  | x :: xs => x :: scanFrom f x xs

/-- The tags of VRED and VSCAN. -/
def isRed (t : Nat) : Bool := isF t || t == 8

/-- VRED and VSCAN: a function of all elements of a (R125). -/
def vreduce (f : Nat → List Nat → List Nat) (lat : Nat) (u : VU) (p : Pred) (d a : Reg) (la : Bool) (s : State) : State :=
  issueV u (marksOf a la) (fun s => do
    let x ← rdV (core s) u.slot a
    needTag u isRed a x
    let t := x.tag.toNat
    .ok (putE u p d t (f t (elemsOf (elemBits t) x.bits)) lat s)) s

/-- VRED (R125). -/
def execVred (u : VU) (p : Pred) (d a : Reg) (la : Bool) (op : BitVec 2) (s : State) : Out :=
  .next (vreduce (fun t xs => List.replicate xs.length (treeRed (redOp op.toNat t) 7 xs)) 6 u p d a la s)

/-- VSCAN (R125). -/
def execVscan (u : VU) (p : Pred) (d a : Reg) (la : Bool) (op : BitVec 2) (s : State) : Out :=
  .next (vreduce (fun t xs => scanAll (redOp op.toNat t) xs) 8 u p d a la s)

/-- VIDX (R126). -/
def execVidx (u : VU) (p : Pred) (d : Reg) (fmt : BitVec 2) (s : State) : Out :=
  let t := if fmt = 0 then 8 else if fmt = 1 then 9 else 11
  .next (issueV u [] (fun s => .ok (putE u p d t (List.range (2048 / elemBits t)) 2 s)) s)

end Sys2Proof.Machine
end

