-- ==== Sys2Proof/Machine/VecMem.lean ====
section
/-! DEFINITION. The vector slots' scratchpad access (R127 to R129), bit planes and packed digits (R130 to R134), the
routing histogram (R135) and tags (R136). -/

namespace Sys2Proof.Machine

open Sys2Proof

/-! ### VLD and VST (R127) -/

/-- The tag that VLD's mod names (R127): 7 is ACCRAW. -/
def loadTag (fmt : BitVec 4) : Nat := if fmt = 7 then 0x20 else fmt.toNat

/-- The base of VLD and VST: none for field 0, else lane 0 of an INT32 register (R127). -/
def vbase (u : VU) (a : Reg) (s : State) : Except Exc (Option VReg) :=
  if a = 0 then .ok none
  else do
    let x ← rdV (core s) u.slot a
    .ok (some x)

/-- The tag check on a base. -/
def needBase (u : VU) (a : Reg) (x : Option VReg) : Except Exc Unit :=
  match x with
  | none => .ok ()
  | some v => needTag u (only 8) a v

/-- The address of VLD and VST (R127). -/
def vaddr (x : Option VReg) (off : Word) : Nat :=
  ((match x with | none => 0 | some v => (lane32 v.bits 0).setWidth 64) + off).toNat

/-- The first address checks of VLD and VST (R127). -/
def vBounds (ea : Nat) : Except Exc Unit :=
  if spSize < ea + 256 then .error (exc 0x21 (word ea))
  else if ea % 64 ≠ 0 then .error (exc 0x06 (word ea))
  else .ok ()

/-- check_race on several four-byte parts in ascending order. -/
def raceLanes (k : Acc) : List Nat → State → Except Exc State
  | [], s => .ok s
  | a :: as, s => do
    let t ← checkRace (viewRegions s) (.sp s.cur) k .sl s.cur a 4 s
    raceLanes k as t

/-- VLD (R127): all 256 bytes are checked and read; the governed elements land after 6 cycles. -/
def execVld (u : VU) (p : Pred) (d a : Reg) (la : Bool) (off : Word) (fmt : BitVec 4) (s : State) : Out :=
  .next (issueV u (marksOf a la) (fun s => do
    let x ← vbase u a s
    needBase u a x
    let ea := vaddr x off
    vBounds ea
    if selMask (core s) u.slot p = 0 then .ok s
    else do
      let t ← checkLocal .sl .read ea 256 64 s
      checkPoison (core s) ea 256
      let tag := loadTag fmt
      let v := BitVec.ofNat 2048 (leNat (Memory.readBytes (viewMem (core s)) ea 256))
      .ok (putV u p d (elemBits tag) v (BitVec.ofNat 6 tag) 0 6 t)) s)

/-- The lane addresses of VST's governed lanes, with the lanes. -/
def vstLanes (m : Word) (ea : Nat) : List (Nat × Nat) := (lanes m).map (fun i => (i, ea + 4 * i))

/-- The bytes that lanes of a register store at addresses. -/
def laneStores (v : VWord) (ls : List (Nat × Nat)) : List (Nat × Byte) :=
  (ls.map (fun x => bytesAt x.2 4 (lane32 v x.1).toNat)).flatten

/-- VST (R127): the governed lanes' bytes are checked, region before race, and stored. -/
def execVst (u : VU) (p : Pred) (d a : Reg) (la : Bool) (off : Word) (s : State) : Out :=
  .next (issueV u (marksOf a la) (fun s => do
    let x ← vbase u a s
    let v ← rdV (core s) u.slot d
    needBase u a x
    let ea := vaddr x off
    vBounds ea
    let m := selMask (core s) u.slot p
    if m = 0 then .ok s
    else do
      let ls := vstLanes m ea
      checkRegionAt (viewRegions s) (core s).ctx (.sp s.cur) .write (ls.map (·.2))
      let t ← raceLanes .write (ls.map (·.2)) s
      .ok (slotStore u.slot (laneStores v.bits ls) t)) s)

/-! ### VLDX and VSTX (R128) -/

/-- The governed lanes of an address register, with their addresses, ascending. -/
def laneAddrs (m : Word) (a : VWord) : List (Nat × Nat) := (lanes m).map (fun i => (i, (lane32 a i).toNat))

/-- The checks of every lane in ascending order, each lane's in R128's order. -/
def checkLanes (k : Acc) : List (Nat × Nat) → State → Except Exc State
  | [], s => .ok s
  | x :: xs, s => do
    let t ← checkLocal .sl k x.2 4 4 s
    if k = .read then checkPoison (core s) x.2 4
    checkLanes k xs t

/-- The tag that VLDX's mod names (R128). -/
def loadXTag (fmt : BitVec 2) : Nat := if fmt = 0 then 0 else if fmt = 1 then 1 else 8

/-- VLDX (R128). -/
def execVldx (u : VU) (p : Pred) (d a : Reg) (la : Bool) (fmt : BitVec 2) (s : State) : Out :=
  .next (issueV u (marksOf a la) (fun s => do
    let x ← rdV (core s) u.slot a
    needTag u (only 8) a x
    let m := selMask (core s) u.slot p
    let t ← checkLanes .read (laneAddrs m x.bits) s
    let mem := viewMem (core s)
    let v := vecOf 32 ((List.range 64).map (fun i =>
      if m.getLsbD i then Memory.readLE mem (lane32 x.bits i).toNat 4 else 0))
    .ok (putV u p d 32 v (BitVec.ofNat 6 (loadXTag fmt)) 0 8 t)) s)

/-- VSTX (R128): of overlapping lanes the higher lane's bytes are kept. -/
def execVstx (u : VU) (p : Pred) (d a : Reg) (la : Bool) (s : State) : Out :=
  .next (issueV u (marksOf a la) (fun s => do
    let x ← rdV (core s) u.slot a
    let v ← rdV (core s) u.slot d
    needTag u (only 8) a x
    let ls := laneAddrs (selMask (core s) u.slot p) x.bits
    let t ← checkLanes .write ls s
    .ok (if ls.isEmpty then t else slotStore u.slot (laneStores v.bits ls) t)) s)

/-! ### Bit planes (R103, R130) -/

/-- Whether a tag is PLANE(w). -/
def isPlane (t : Nat) : Bool := 16 ≤ t && t ≤ 23

/-- The bits of a 256-bit segment. -/
def segBits (sg : Nat) : VWord := BitVec.ofNat 2048 ((2 ^ 256 - 1) * 2 ^ (256 * sg))

/-- VPLN (R130): bit 7 − j of each INT8 element becomes a bit of the segment; the tag is PLANE(8). -/
def execVpln (u : VU) (p : Pred) (d a : Reg) (la : Bool) (sg j : BitVec 3) (s : State) : Out :=
  .next (issueV u (marksOf a la) (fun s => do
    let x ← rdV (core s) u.slot a
    needTag u (only 10) a x
    let v := joinBits 1 ((elemsOf 8 x.bits).map (fun e => e / 2 ^ (7 - j.toNat) % 2))
    let m := segBits sg.toNat &&& laneBits (selMask (core s) u.slot p)
    .ok (putBits u d (BitVec.ofNat 2048 (v * 2 ^ (256 * sg.toNat))) m 0x17 0 4 s)) s)

/-- The bits of an INT8 element that VUPL writes for plane j of w: bit w − 1 − j, or for j = 0 the bits from w − 1 up. -/
def uplBits (w j : Nat) : Nat := if j = 0 then 256 - 2 ^ (w - 1) else 2 ^ (w - 1 - j)

/-- VUPL (R130). -/
def execVupl (u : VU) (p : Pred) (d a : Reg) (la : Bool) (sg j : BitVec 3) (s : State) : Out :=
  .next (issueV u (marksOf a la) (fun s => do
    let x ← rdV (core s) u.slot a
    needTag u isPlane a x
    let w := x.tag.toNat - 15
    if w ≤ j.toNat then .error (illegalOp s)
    else
      let b := uplBits w j.toNat
      let bits := splitBits 1 256 (x.bits.toNat / 2 ^ (256 * sg.toNat))
      let m := vecOf 8 (List.replicate 256 b) &&& laneBits (selMask (core s) u.slot p)
      .ok (putBits u d (vecOf 8 (bits.map (fun e => e * b))) m 0x0A 0 4 s)) s)

/-! ### Packed digits (R105, R106, R131 to R134) -/

/-- The sources of VPACK (R131). -/
def isPackable (t : Nat) : Bool := isI t || isPlane t

/-- The value of an element that VPACK packs: an integer, or a plane's bit. -/
def packElem (t x : Nat) : Int := if isPlane t then x else intElem t x

/-- VPACK (R131). DESIGN CHOICE (log 109): each 32-bit lane of the 64-bit digits of `.D64` is governed by its own bit, as R131 writes
governed lanes; VMULW does the same with DW 3. -/
def execVpack (u : VU) (p : Pred) (d a : Reg) (la : Bool) (g : BitVec 2) (r : Bool) (part : BitVec 2) (s : State) : Out :=
  .next (issueV u (marksOf a la) (fun s => do
    let x ← rdV (core s) u.slot a
    needTag u isPackable a x
    let t := x.tag.toNat
    let w := digitBits g.toNat
    let n := 2048 / w
    let es := elemsOf (elemBits t) x.bits
    if w < elemBits t then .error (tagFault u a x)
    else if es.length < (part.toNat + 1) * n then .error (illegalOp s)
    else
      let seg := ((es.drop (part.toNat * n)).take n).map (packElem t)
      let vs := if r then seg.reverse else seg
      if vs.any (fun v => decide (2 ^ (w - 1) - 1 < v.natAbs)) then .error (exc 0x14 0)
      else .ok (putBits u d (BitVec.ofInt 2048 (packDigits w vs)) (laneBits (selMask (core s) u.slot p)) 0x18 g 4 s)) s)

/-- Whether a tag is PACKED. -/
def isPacked (t : Nat) : Bool := t == 0x18

/-- VMULW (R132): the exact product, its low half in d. -/
def execVmulw (u : VU) (p : Pred) (d a : Reg) (la : Bool) (b : Reg) (lb : Bool) (s : State) : Out :=
  .next (issueV u (marksOf a la ++ marksOf b lb) (fun s => do
    let x ← rdV (core s) u.slot a
    let y ← rdV (core s) u.slot b
    needTag u isPacked a x
    needSame u x b y
    let prod : BitVec 4096 := BitVec.ofInt 4096 (x.bits.toInt * y.bits.toInt)
    let m := laneBits (selMask (core s) u.slot p)
    .ok (putBits u (nextReg d) (fld prod 2048 2048) m 0x18 x.dw 12 (putBits u d (fld prod 0 2048) m 0x18 x.dw 12 s))) s)

/-- VXTR (R133). -/
def execVxtr (u : VU) (p : Pred) (d a : Reg) (la : Bool) (b : Reg) (lb : Bool) (s : State) : Out :=
  .next (issueV u (pairMarks a la ++ marksOf b lb) (fun s => do
    let x ← rdPair u a s
    let k ← rdV (core s) u.slot b
    needTag u isPacked a x.1
    if x.1.dw = 3 then .error (tagFault u a x.1)
    else do
      needSame u x.1 (nextReg a) x.2
      needTag u (only 8) b k
      let g := digitBits x.1.dw.toNat
      let ks := elemsOf 32 k.bits
      if ks.any (fun i => decide (4096 / g ≤ i)) then .error (illegalOp s)
      else
        let prod := x.1.bits.toNat + x.2.bits.toNat * 2 ^ 2048
        .ok (putE u p d 8 (ks.map (fun i => wrapNat 32 (digit g prod i))) 4 s)) s)

/-- The magnitudes of a packed register's digits (R134). -/
def digitMags (g : Nat) (v : VWord) : List Nat := (List.range (2048 / g)).map (fun i => (digit g v.toNat i).natAbs)

/-- The bound of R134: the sum of one side's magnitudes times the greatest of the other's. -/
def guardBound (g : Nat) (x y : VWord) : Nat :=
  (digitMags g x).foldl (· + ·) 0 * (digitMags g y).foldl max 0

/-- VGRD (R134). -/
def execVgrd (u : VU) (p : Pred) (d : BitVec 3) (a : Reg) (la : Bool) (b : Reg) (lb t : Bool) (s : State) : Out :=
  .next (issueV u (marksOf a la ++ marksOf b lb) (fun s => do
    let x ← rdV (core s) u.slot a
    let y ← rdV (core s) u.slot b
    needTag u isPacked a x
    needSame u x b y
    let g := digitBits x.dw.toNat
    let safe := decide (guardBound g x.bits y.bits ≤ 2 ^ (g - 1) - 1)
    if t && !safe then .error (exc 0x14 0)
    else .ok (putM u p d (if safe then BitVec.allOnes 64 else 0) 4 s)) s)

/-! ### The routing histogram (R135, R292) -/

/-- The domain that a core's DMR names at a level from 1 to 4 (R290). -/
def dmrAt (c : Core) (lvl : Nat) : BitVec 16 := fld c.csr.dmr (16 * (lvl - 1)) 16

/-- A group. -/
def groupAt (s : State) (g : BitVec 16) : Group := Map.get s.groups g.toNat {}

/-- The state with a group replaced. -/
def setGroup (g : BitVec 16) (x : Group) (s : State) : State := { s with groups := Map.put s.groups g.toNat x }

/-- Whether a core has issued in four cycles since an increment was made, up to the cycle before this one (R49, R135). -/
def fourIssued (now : Nat) (i : Inc) (c : Core) : Bool :=
  decide (4 ≤ (c.issues.filter (fun t => decide (i.born ≤ t ∧ t < now))).length)

/-- Whether the core that made an increment has issued in four cycles since; one whose kernel no core or image holds has retired
(R135, log 59). -/
def incRipe (s : State) (i : Inc) : Bool :=
  let c := coreAt s i.core
  if holding c && c.node == i.node then fourIssued s.now i c
  else match s.images.find? (fun m => m.core == i.core && m.node == i.node) with
    | some m => fourIssued s.now i m.saved
    | none => true

/-- A counter's replica one higher, modulo 2^32. -/
def bumpCtr (m : Map (BitVec 32)) (i : Inc) : Map (BitVec 32) :=
  Map.put m (256 * i.die + i.ctr) (Map.get m (256 * i.die + i.ctr) 0 + 1)

/-- The increments of a group's counters that every snapshot may contain are in them (R135). -/
def ripen (g : BitVec 16) (s : State) : State :=
  let x := groupAt s g
  setGroup g { x with ctrs := (x.incs.filter (incRipe s)).foldl bumpCtr x.ctrs
                      incs := x.incs.filter (fun i => !incRipe s i) } s

/-- The governed elements' values that VHIST counts (R135). -/
def histValues (u8 : Bool) (m : Word) (v : VWord) : List Nat :=
  let n := if u8 then 8 else 32
  ((List.zip (List.range (2048 / n)) (elemsOf n v)).filter (fun x => m.getLsbD (x.1 * n / 32) && decide (x.2 < 256))).map (·.2)

/-- VHIST (R135). -/
def execVhist (u : VU) (p : Pred) (a : Reg) (lvl : BitVec 3) (u8 : Bool) (s : State) : Out :=
  .next (issueV u [] (fun s => do
    let x ← rdV (core s) u.slot a
    needTag u (only (if u8 then 11 else 8)) a x
    let c := core s
    let g := dmrAt c lvl.toNat
    if g = 0 then .error (illegalOp s)
    else
      let vs := histValues u8 (selMask c u.slot p) x.bits
      if vs.isEmpty then .ok s
      else
        let t := ripen g s
        let y := groupAt t g
        .ok (setGroup g { y with incs := y.incs ++ vs.map (fun v => ⟨s.cur, c.node, s.now, dieNo s.cur, v⟩) } t)) s)

/-! ### Tags (R136) -/

/-- VTAG (R136): the bits under a new tag; in the register form lane 0 of b gives the tag word, checked at issue. -/
def execVtag (u : VU) (p : Pred) (d a : Reg) (la : Bool) (o : Opnd) (s : State) : Out :=
  .next (issueV u (marksOf a la ++ markO o) (fun s => do
    let x ← rdV (core s) u.slot a
    let t : Word ← match o with
      | .lit v => .ok v
      | .reg b _ => do
        let y ← rdV (core s) u.slot b
        .ok ((lane32 y.bits 0).setWidth 64)
    if !tagWordOk t then .error (illegalOp s)
    else .ok (putV u p d (vWidth (fld t 0 6) (fld t 6 2)) x.bits (fld t 0 6) (fld t 6 2) 2 s)) s)

/-- VTGET (R136). -/
def execVtget (u : VU) (p : Pred) (d a : Reg) (la : Bool) (s : State) : Out :=
  .next (issueV u (marksOf a la) (fun s => do
    let x ← rdV (core s) u.slot a
    .ok (putE u p d 8 (List.replicate 64 (x.tag.toNat + x.dw.toNat * 64)) 2 s)) s)

end Sys2Proof.Machine
end

