-- ==== Sys2Proof/Machine/MemoryModel.lean ====
section
/-! DEFINITION. The memory model's instructions: FENCE and FENCEX (R255, R256), ACQ and REL (R257 to R260). -/

namespace Sys2Proof.Machine

open Sys2Proof

/-! ### FENCE and FENCEX (R255, R256) -/

/-- FENCE (R255): class CP and LK operations that follow are held in their channels, CO operations in the engine's queue;
the other classes run in issue, call or queue order already. -/
def fencePath (path : BitVec 3) (c : Core) : Core :=
  match path.toNat with
  | 1 => addHold 0xFF false c
  | 4 => { c with coFence := c.eseq }
  | 5 => addHold 0xFF true c
  | _ => c

/-- FENCE (R255). -/
def execFence (p : Pred) (path _scope : BitVec 3) (s : State) : Out :=
  .next (issue .s p [] (fun s => .ok (updCore (fencePath path) s)) s)

/-- FENCEX (R256): a write that is complete is visible to every later read of every class here (log 21). -/
def execFencex (p : Pred) (_wpath _rpath _scope : BitVec 3) (s : State) : Out := .next (issue .s p [] (fun s => .ok s) s)

/-! ### Requests (R248, R256) -/

/-- A phase word's fields as a request names them (R248). -/
def rMode (w : Word) : BitVec 2 := fld w 0 2
def rPmask (w : Word) : BitVec 6 := fld w 2 6
def rHk (w : Word) : BitVec 2 := fld w 8 2
def rHolder (w : Word) : BitVec 16 := fld w 10 16

/-- The domain ids of a core (R290). -/
def domains (c : Core) : List (BitVec 16) := (List.range 4).map (fun i => dmrAt c (i + 1))

/-- Whether a request of ACQ.W or ACQ.R is legal: only PMASK, and not zero. -/
def acqLegal (w : Word) : Bool := fld w 0 2 == 0 && fld w 8 56 == 0 && rPmask w != 0

/-- Whether a request of ACQ.T is legal: MODE 1 or 2, and PMASK. -/
def acqTLegal (w : Word) : Bool := (rMode w == 1 || rMode w == 2) && fld w 8 56 == 0 && rPmask w != 0

/-- Whether a target of REL is legal (R256). -/
def relLegal (c : Core) (w : Word) : Bool :=
  fld w 26 38 == 0 && rMode w != 3
    && (if rMode w = 0 then rHk w == 0 && rHolder w == 0 else rPmask w != 0)
    && rHk w != 3
    && (if rHk w = 1 then rHolder w != 0 && (domains c).contains (rHolder w) else fld (rHolder w) 8 8 == 0)

/-- The region that ACQ or REL names: its owner or tenant is the running context (NO_RIGHT), and it is HELD or OVERDUE
(EXPIRY). -/
def phaseTarget (s : State) (h : Word) : Except Exc (Nat × Region) :=
  match namedRegion s h with
  | none => .error (noHandle h)
  | some (k, r) =>
    if (if r.subl.isSome then isTenant (core s).ctx r || r.owner == (core s).ctx else r.owner == (core s).ctx) then
      if r.st = .held ∨ r.st = .overdue then .ok (k, r) else .error (exc 0x20 h)
    else .error (noHandle h)

/-- The space that a table entry's bytes lie in. -/
def regionSpace (key : Nat) (r : Region) : Space :=
  match r.kind with
  | .sp => .sp (key / 1024) | .is => .is (key / 1024) | .hbm => .hbm | .cap => .cap

/-- Whether core `u` has an access in flight to a region by a path of some classes: any access, or a write (R258, R259). -/
def regionBusy (s : State) (u key : Nat) (r : Region) (ps : List Path) (writes : Bool) : Bool :=
  ps.any (fun p =>
    let (rd, wr) := inFlight s u p (regionSpace key r) r.base r.size
    wr || (!writes && rd))

/-- The path classes of a mask (R243). -/
def pathsOf (m : BitVec 6) : List Path := [Path.sl, .cp, .mx, .ga, .co, .lk].filter (fun p => m.getLsbD p.code)

/-- The result word of ACQ.W, ACQ.R, ACQ.T and REL (R257). -/
def acqWord (epoch : BitVec 16) (st : Nat) : Word := word (epoch.toNat + st * 2 ^ 16)

/-- The end of an ACQ or REL: its status, and the phase word if it changes (R257). -/
def acqDone (d : Reg) (key : Nat) (r : Region) (st : Nat) (s : State) : State :=
  let s1 := if st = 0 then setRegion key r (keepOld s) else s
  updCore (resX .s d (acqWord (Map.get s1.regions key r).phase.epoch st) 8) s1

/-- An instruction of this group on a region and a request. -/
def acq (p : Pred) (d a : Reg) (la : Bool) (b : Reg) (lb : Bool) (legal : Core → Word → Bool)
    (act : State → Nat → Region → Word → Region × Nat) (s : State) : State :=
  issue .s p (marksOf a la ++ marksOf b lb) (fun s => do
    let h ← rdX (core s) .s a
    let w ← rdX (core s) .s b
    if !legal (core s) w then .error (illegalOp s)
    else do
      let (key, r) ← phaseTarget s h
      let (r1, st) := act s key r w
      .ok (acqDone d key r1 st s)) s

/-- Whether a phase is EXCLUSIVE-WRITE for core `u`. -/
def mine (w : Phase) (u : Nat) : Bool := w.mode == 2 && w.hk == 0 && w.holder == BitVec.ofNat 16 (coreNum u)

/-- Whether a phase is bound to a group. -/
def bound (w : Phase) : Bool := w.mode != 0 && w.hk == 1

/-- ACQ.W on a region (R258). -/
def acqWAct (s : State) (key : Nat) (r : Region) (q : Word) : Region × Nat :=
  let w := r.phase
  let m := rPmask q
  if w.mode = 0 then
    ({ r with phase := { w with mode := 2, hk := 0, holder := BitVec.ofNat 16 (coreNum s.cur), pmask := m, epoch := w.epoch + 1 } }, 0)
  else if mine w s.cur then
    if regionBusy s s.cur key r (pathsOf (w.pmask &&& ~~~m)) false then (r, 2)
    else ({ r with phase := { w with pmask := m } }, 0)
  else (r, 1)

/-- ACQ.R on a region (R258). -/
def acqRAct (s : State) (key : Nat) (r : Region) (q : Word) : Region × Nat :=
  let w := r.phase
  let m := rPmask q
  if w.mode = 0 then ({ r with phase := { w with mode := 1, pmask := m, epoch := w.epoch + 1 } }, 0)
  else if w.mode = 1 ∧ !bound w then ({ r with phase := { w with pmask := w.pmask ||| m } }, 0)
  else if mine w s.cur then
    if regionBusy s s.cur key r (pathsOf 0x3F) true then (r, 2)
    else ({ r with phase := { w with mode := 1, pmask := m, epoch := w.epoch + 1 } }, 0)
  else (r, 1)

/-- Whether R250 would pass an access of core `u` of a kind and class by a phase word, granule tags and accesses in flight
left out (R258). -/
def phaseAdmits (s : State) (w : Phase) (u : Nat) (k : Acc) (p : Path) : Bool :=
  match w.mode.toNat with
  | 0 => true
  | 1 => k == .read && w.pmask.getLsbD p.code && (w.hk != 1 || isMember s w.holder u)
  | _ => w.pmask.getLsbD p.code && (if w.hk = 1 then isMember s w.holder u else mine w u)

/-- ACQ.T on a region (R258). -/
def acqTAct (s : State) (_key : Nat) (r : Region) (q : Word) : Region × Nat :=
  let k : Acc := if rMode q = 1 then .read else .write
  (r, if (pathsOf (rPmask q)).all (phaseAdmits s r.phase s.cur k) then 0 else 4)

/-- Whether core `u` may release a phase (R259). -/
def mayRelease (s : State) (w : Phase) (u : Nat) : Bool :=
  w.mode == 0 || mine w u || (bound w && isMember s w.holder u) || (w.mode == 1 && !bound w)

/-- The die whose granule tags cover a table entry (R251). -/
def tagDie (key : Nat) (r : Region) : Nat := dieNo (tableCore key r)

/-- The granules whose tags a die has reserved (R251). -/
def tagsReserved (s : State) (die : Nat) : Nat :=
  (s.regions.filter (fun x => x.2.st != .free && x.2.tagRes && tagDie x.1 x.2 == die)).foldl
    (fun n x => n + x.2.size / 64) 0

/-- A phase set to a target: the next EPOCH, and granule tags only for a group's region (R259, R260). -/
def setPhase (r : Region) (q : BitVec 26) : Region :=
  { r with
    phase := { mode := fld q 0 2, pmask := fld q 2 6, hk := fld q 8 2, holder := fld q 10 16, epoch := r.phase.epoch + 1 }
    tags := [], tagRes := fld q 8 2 == 1 }

/-- REL on a region (R259). -/
def relAct (s : State) (key : Nat) (r : Region) (q : Word) : Region × Nat :=
  let w := r.phase
  let needs := rHk q == 1 && !r.tagRes
  if !mayRelease s w s.cur then (r, 3)
  else if regionBusy s s.cur key r (pathsOf 0x3F) false then (r, 2)
  else if needs && decide (2 ^ 22 < tagsReserved s (tagDie key r) + r.size / 64) then (r, 5)
  else if bound w then ({ r with phase := { w with pend := some (fld q 0 26) }, tagRes := true }, 0)
  else (setPhase r (fld q 0 26), 0)

/-- ACQ.W (R258). -/
def execAcqW (p : Pred) (d a : Reg) (la : Bool) (b : Reg) (lb : Bool) (s : State) : Out :=
  .next (acq p d a la b lb (fun _ w => acqLegal w) acqWAct s)

/-- ACQ.R (R258). -/
def execAcqR (p : Pred) (d a : Reg) (la : Bool) (b : Reg) (lb : Bool) (s : State) : Out :=
  .next (acq p d a la b lb (fun _ w => acqLegal w) acqRAct s)

/-- ACQ.T (R258). -/
def execAcqT (p : Pred) (d a : Reg) (la : Bool) (b : Reg) (lb : Bool) (s : State) : Out :=
  .next (acq p d a la b lb (fun _ w => acqTLegal w) acqTAct s)

/-- REL (R259). -/
def execRel (p : Pred) (d a : Reg) (la : Bool) (b : Reg) (lb : Bool) (s : State) : Out :=
  .next (acq p d a la b lb relLegal relAct s)

/-- ACQ.Q (R257): the phase word. -/
def execAcqQ (p : Pred) (d a : Reg) (la : Bool) (s : State) : Out :=
  .next (issue .s p (marksOf a la) (fun s => do
    let h ← rdX (core s) .s a
    let (_, r) ← phaseTarget s h
    .ok (updCore (resX .s d (phaseWord r.phase) 8) s)) s)

end Sys2Proof.Machine
end

