-- ==== Sys2Proof/Machine/Group.lean ====
section
/-! DEFINITION. The group (R289 to R295): members and their cores, snapshots of the routing counters, collective sets, and
the delivery of collective faults. -/

namespace Sys2Proof.Machine

open Sys2Proof

/-! ### Members (R289, R291) -/

/-- Whether the core in place is the member, or else its save image holds it (R291). Membership is fixed at placement: what DMR
reads later does not change it (R290). -/
def liveMember (s : State) (m : Nat) : Bool :=
  let c := coreAt s (memberAt m)
  holding c && memberNo (memberAt m) c == m

/-- The image that holds a saved member. -/
def isSavedMember (m : Nat) (i : Image) : Bool := memberNo i.core i.saved == m

/-- A member's core, live or saved. -/
def memberCore (s : State) (m : Nat) : Core :=
  if liveMember s m then coreAt s (memberAt m)
  else match s.images.find? (isSavedMember m) with
    | some i => i.saved
    | none => {}

/-- A member's core changed, live or saved. -/
def updMember (m : Nat) (f : Core → Core) (s : State) : State :=
  if liveMember s m then updCoreAt (memberAt m) f s
  else { s with images := s.images.map (fun i => if isSavedMember m i then { i with saved := f i.saved } else i) }

/-- The members of a group, ascending: a member's place is its rank (R289). -/
def membersOf (s : State) (g : BitVec 16) : List Nat := (groupAt s g).members

/-- The group at a DMR level, as CSNAP, COLL and the barrier instructions check it first: an id, and no break. -/
def groupAtLevel (s : State) (lvl : Nat) : Except Exc (BitVec 16) :=
  let g := dmrAt (core s) lvl
  if g = 0 then .error (illegalOp s)
  else if (groupAt s g).st = .broken then .error (exc 0x28 ((groupAt s g).brokenBy.setWidth 64))
  else .ok g

/-! ### In flight (R294) -/

/-- The COLLs and CSNAPs of a core that are in flight in its die's engine, a saved context's among them. -/
def collFlying (s : State) (g : Nat) : Nat :=
  let n (c : Core) : Nat := (c.colls.filter (fun o => !o.done)).length + c.snaps.length
  n (coreAt s g) + ((s.images.filter (fun i => i.core == g)).map (fun i => n i.saved)).foldl (· + ·) 0

/-- The wait of COLL and CSNAP (R294), cause 8: four are in flight. -/
def collWait (u : CU) (p : Pred) (s : State) : Option Nat :=
  if predOn (core s) u.slot p && decide (4 ≤ collFlying s s.cur) then some 8 else none

/-- An instruction of a copy slot that may wait: the wait, then the body. -/
def issueC (w : Option Nat) (u : CU) (p : Pred) (body : State → Except Exc State) (s : State) : State :=
  match w with
  | some cause => freeze cause s
  | none => issue u.slot p [] body s

/-- A place in the issue order of the collective engine taken (R255). -/
def takeSeq (c : Core) : Core := { c with eseq := c.eseq + 1 }

/-! ### CSNAP (R292, R293) -/

/-- A counter read: the sum of its replicas (R292). -/
def counterSum (x : Group) (v : Nat) : BitVec 32 :=
  (List.range 4).foldl (fun n die => n + Map.get x.ctrs (256 * die + v) 0) 0

/-- The snapshots of a group that higher cores than the acting one have taken in this reference cycle, in ascending core number. -/
def laterSnaps (s : State) (g : BitVec 16) : List (Nat × SnapOp) :=
  ((s.cores.filter (fun x => decide (s.cur < x.1))).map (fun x =>
    (x.2.snaps.filter (fun o => o.g == g && o.born == s.now)).map (fun o => (x.1, o)))).flatten

/-- Whether a snapshot of the acting core may contain an increment (R135): four issue cycles lie between, of the core that made it or
of the one that takes the snapshot (log 59). -/
def ripeHere (s : State) (i : Inc) : Bool := incRipe s i || fourIssued s.now i (core s)

/-- How often increments raise a counter. -/
def incCount (is : List Inc) (v : Nat) : BitVec 32 := BitVec.ofNat 32 (is.filter (fun i => i.ctr == v)).length

/-- The 256 counters after increments, and before them. -/
def addIncs (ws : List (BitVec 32)) (is : List Inc) : List (BitVec 32) :=
  (List.range 256).map (fun v => (ws[v]?).getD 0 + incCount is v)
def subIncs (ws : List (BitVec 32)) (is : List Inc) : List (BitVec 32) :=
  (List.range 256).map (fun v => (ws[v]?).getD 0 - incCount is v)

/-- What a snapshot leaves in the counters that it has read (R293). -/
def leftBy (keep : Bool) (ws : List (BitVec 32)) : List (BitVec 32) := if keep then ws else List.replicate 256 0

/-- Snapshots of higher cores, in their order, behind one that contains `mine` and leaves `ws` in the counters: those snapshots, and
what the last of them leaves. -/
def redone (mine : List Inc) : List (Nat × SnapOp) → List (BitVec 32) → List (Nat × SnapOp) × List (BitVec 32)
  | [], ws => ([], ws)
  | (h, o) :: r, ws =>
    let f := o.fresh.filter (fun i => !mine.contains i)
    let w := addIncs ws f
    let x := redone mine r (leftBy o.keep w)
    ((h, { o with words := w, fresh := f }) :: x.1, x.2)

/-- The snapshots of a group that higher cores have taken in this reference cycle replaced. -/
def putSnaps (g : BitVec 16) (ys : List (Nat × SnapOp)) (s : State) : State :=
  let new (h : Nat) (o : SnapOp) : SnapOp :=
    if o.g == g && o.born == s.now then
      ((ys.find? (fun y => y.1 == h && y.2.seq == o.seq)).map (fun y => y.2)).getD o
    else o
  { s with cores := s.cores.map (fun x =>
      if decide (s.cur < x.1) then (x.1, { x.2 with snaps := x.2.snaps.map (new x.1) }) else x) }

/-- Counters as one replica holds them (R292). -/
def asReplica (ws : List (BitVec 32)) : Map (BitVec 32) :=
  ((List.range 256).zip ws).filter (fun x => x.2 != 0)

/-- A snapshot of the acting core taken in its place among those of its reference cycle (R293): the counters read, the increments that
it is the first to contain, and the state after it. -/
def takeSnap (g : BitVec 16) (keep : Bool) (s : State) : List (BitVec 32) × List Inc × State :=
  let x := groupAt s g
  let later := laterSnaps s g
  let base := match later with
    | [] => (List.range 256).map (counterSum x)
    | (_, o) :: _ => subIncs o.words o.fresh
  let mine := (x.incs ++ (later.map (fun y => y.2.fresh)).flatten).filter (ripeHere s)
  let ws := addIncs base mine
  let (ys, fin) := redone mine later (leftBy keep ws)
  let ctrs := match later with
    | [] => if keep then mine.foldl bumpCtr x.ctrs else []
    | _ => asReplica fin
  (ws, mine, setGroup g { x with ctrs := ctrs, incs := x.incs.filter (fun i => !ripeHere s i) } (putSnaps g ys s))

/-- CSNAP (R293): the counters are sampled, and cleared without `.K`, at issue; the bytes follow 8 copy-engine cycles later. -/
def execCsnap (u : CU) (p : Pred) (lvl : BitVec 2) (a : Reg) (keep : Bool) (s : State) : Out :=
  .next (issueC (collWait u p s) u p (fun s => do
    let g ← groupAtLevel s (lvl.toNat + 1)
    let ad ← rdX (core s) u.slot a
    let t ← checkLocal .co .write ad.toNat 1024 64 s
    let (ws, mine, t1) := takeSnap g keep t
    let o : SnapOp :=
      { g := g, seq := (core s).eseq, after := (core s).coFence, slot := u.slot, addr := ad.toNat
        words := ws, due := s.now + 8 * divisor (core s) u.slot, born := s.now, keep := keep, fresh := mine }
    .ok (updCore (fun c => takeSeq { c with snaps := c.snaps ++ [o] }) (refreshTakes t1))) s)

/-- Whether an operation of class CO of core `u`, which stands as `c`, is held behind a FENCE.CO: one issued before the fence has not
ended, a copy node of the core's context that runs for it among them (R255, R274). -/
def collHeld (s : State) (u : Nat) (c : Core) (after : Nat) : Bool :=
  c.colls.any (fun o => !o.done && decide (o.seq < after)) || c.snaps.any (fun o => o.seq < after)
    || (copyNodesOf s u).any (fun n => n.owner == c.ctx && decide (n.seq < after))

/-- A collective fault (R295): its code and INFO, the issuing slot, and the rank of the member whose access failed. -/
def collExc (e : Exc) (sl : Slot) (rank : Nat) : Exc := { e with fslot := sl.num, defer := true, w3 := word (rank % 2 ^ 16) }

/-- The checks of a collective access, issued in the reference cycle `born`, when it is made: its region, the poison of what it reads, and races (R295). -/
def collCheck (born : Nat) (ctx : BitVec 12) (m : Nat) (k : Acc) (a n : Nat) (s : State) : Except Exc State := do
  checkRegion s.regions ctx (.sp (memberAt m)) k a n
  match (if k.reads then spacePoison s (.sp (memberAt m)) a n else none) with
  | some gr => .error (exc 0x11 (word (2 ^ 63 + 64 * gr)))
  | none => checkMoving born (.sp (memberAt m)) k .co (memberAt m) a n s

/-- The rank of a member (R289). -/
def rankOf (s : State) (g : BitVec 16) (m : Nat) : Nat := (membersOf s g).findIdx (· == m)

/-- The acting core's first CSNAP whose bytes are due. -/
def dueSnap (s : State) : Option SnapOp :=
  (core s).snaps.find? (fun o => decide (o.due ≤ s.now) && !collHeld s s.cur (core s) o.after)

/-- A CSNAP leaves flight. -/
def dropSnap (o : SnapOp) (c : Core) : Core := { c with snaps := c.snaps.filter (fun x => x != o) }

/-- The bytes of a snapshot written, or its deferred fault, for core `m` of a context (R293, R295). -/
def writeSnap (m : Nat) (ctx : BitVec 12) (o : SnapOp) (s : State) : State :=
  match collCheck o.born ctx m .write o.addr 1024 s with
  | .error e =>
    updMember m (fun c => { dropSnap o c with
      collFaults := c.collFaults ++ [⟨o.g, o.seq, collExc e o.slot (rankOf s o.g m)⟩] }) s
  | .ok t =>
    spaceWrite (memberAt m) (.sp (memberAt m)) o.addr ((o.words.map (fun w => leBytes 4 w.toNat)).flatten) (updMember m (dropSnap o) t)

/-! ### Phases and releases (R291, R296) -/

/-- The COLL of a member in a set (R294). -/
def memberOp (s : State) (g : BitVec 16) (k m : Nat) : Option CollOp :=
  (memberCore s m).colls.find? (fun o => o.g == g && o.k == k && !o.done)

/-- The members of a set (R294): those of the group, or as they were when the set began to run. -/
def setMembers (s : State) (g : BitVec 16) (k : Nat) : List Nat :=
  if (groupAt s g).ran.contains k then Map.get (groupAt s g).parts k [] else membersOf s g

/-- Whether every member has issued into a set (R294). -/
def setJoined (s : State) (g : BitVec 16) (k : Nat) : Bool :=
  !(setMembers s g k).isEmpty && (setMembers s g k).all (fun m => (memberOp s g k m).isSome)

/-- The numbers of the sets that some member has issued into and that have not ended. -/
def openSets (s : State) (g : BitVec 16) : List Nat :=
  (((membersOf s g).map (fun m => ((memberCore s m).colls.filter (fun o => o.g == g && !o.done)).map (·.k))).flatten).eraseDups

/-- Whether a release of a group has nothing to wait for (R291): in COMMUNICATE every CSNAP is complete, and every set that
all members have joined. -/
def phaseDone (s : State) (g : BitVec 16) : Bool :=
  (groupAt s g).st != .communicate
    || ((membersOf s g).all (fun m => (memberCore s m).snaps.all (fun o => o.g != g))
        && (openSets s g).all (fun k => !setJoined s g k))

/-- The release cycle T of a RELEASING barrier once the condition of R291 holds (R296). -/
def armRelease (s : State) (b : Barrier) : Barrier :=
  if b.st == .releasing && b.rel.isNone && phaseDone s b.g then { b with rel := some (s.now + 64) } else b

/-- Every RELEASING barrier looked at again. -/
def armReleases (s : State) : State := { s with barriers := s.barriers.map (armRelease s) }

/-- CSNAP_VISIBLE (R293): the bytes of the acting core's next due snapshot. -/
def execCsnapVisible (s : State) : Out :=
  .next (match dueSnap s with
    | none => s
    | some o =>
      if spaceReady s (.sp s.cur) o.addr 1024 then armReleases (writeSnap (myNo s) (core s).ctx o s)
      else spaceWake (.sp s.cur) o.addr 1024 s)

/-! ### COLL (R294) -/

/-- Whether two extents are equal or do not overlap (R294). -/
def extentsFit (a b n : Nat) : Bool := a == b || !overlaps a n b n

/-- COLL (R294). -/
def execColl (u : CU) (p : Pred) (i32 : Bool) (op : BitVec 2) (lvl : BitVec 2) (src dst cnt : Reg) (s : State) : Out :=
  .next (issueC (collWait u p s) u p (fun s => do
    let g ← groupAtLevel s (lvl.toNat + 1)
    let a ← rdX (core s) u.slot src
    let b ← rdX (core s) u.slot dst
    let n ← rdX (core s) u.slot cnt
    if (groupAt s g).st ≠ .communicate then .error (illegalOp s)
    else if n = 0 ∨ 16384 < n.toNat then .error (illegalOp s)
    else if !extentsFit a.toNat b.toNat (4 * n.toNat) then .error (illegalOp s)
    else do
      let t ← checkLocal .co .read a.toNat (4 * n.toNat) 64 s
      let t1 ← checkLocal .co .write b.toNat (4 * n.toNat) 64 t
      let x := groupAt t1 g
      let k := Map.get x.joined (myNo s) 0
      let o : CollOp :=
        { g := g, k := k, seq := (core s).eseq, after := (core s).coFence, slot := u.slot, i32 := i32, op := op, cnt := n.toNat
          src := a.toNat, dst := b.toNat, word := (core s).bun.word, born := s.now }
      .ok (updCore (fun c => takeSeq { c with colls := c.colls ++ [o] })
        (setGroup g { x with joined := Map.put x.joined (myNo s) (k + 1) } (refreshTakes t1)))) s)

/-! ### Sets (R294, R295) -/

/-- A set's operation leaves a core's flight: with a fault, or complete, when it stands until the release (R295). -/
def dropColl (g : BitVec 16) (k : Nat) (f : Option (CollOp → Exc)) (c : Core) : Core :=
  let mine (o : CollOp) : Bool := o.g == g && o.k == k && !o.done
  match f with
  | none => { c with colls := c.colls.map (fun o => if mine o then { o with done := true } else o) }
  | some e => { c with
      colls := c.colls.filter (fun o => !mine o)
      collFaults := c.collFaults ++ (c.colls.filter mine).map (fun o => ⟨g, o.seq, e o⟩) }

/-- The complete operations of a group's phase are forgotten at the release that ends it (R295). -/
def forgetColls (g : BitVec 16) (s : State) : State :=
  (membersOf s g).foldl (fun s m => updMember m (fun c => { c with
    colls := c.colls.filter (fun o => !(o.g == g && o.done)) }) s) s

/-- A set ends on every member that has issued into it. -/
def endSet (g : BitVec 16) (k : Nat) (f : Option (CollOp → Exc)) (s : State) : State :=
  let s1 := (setMembers s g k).foldl (fun s m => updMember m (dropColl g k f) s) s
  armReleases (setGroup g { groupAt s1 g with ran := (groupAt s1 g).ran.filter (· != k) } s1)

/-- The ILLEGAL_OP of R294 for a member's operation: its own slot word, rank 0. -/
def setIllegal (o : CollOp) : Exc := collExc (exc 0x02 (o.word.setWidth 64)) o.slot 0

/-- The operations of a set in rank order, each with its member. -/
def setOps (s : State) (g : BitVec 16) (k : Nat) : List (Nat × CollOp) :=
  (setMembers s g k).filterMap (fun m => (memberOp s g k m).map (fun o => (m, o)))

/-- Whether op, format or count differ within a set. -/
def setDiffers : List (Nat × CollOp) → Bool
  | [] => false
  | (_, o) :: os => os.any (fun x => x.2.op != o.op || x.2.i32 != o.i32 || x.2.cnt != o.cnt)

/-- The accesses of a set checked in rank order; the first failure with its rank (R295). -/
def checkSet (g : BitVec 16) : List (Nat × CollOp) → Nat → State → Except (Exc × Nat) State
  | [], _, s => .ok s
  | (m, o) :: os, rank, s =>
    let ctx := (memberCore s m).ctx
    match (do
      let t ← collCheck o.born ctx m .read o.src (4 * o.cnt) s
      collCheck o.born ctx m .write o.dst (4 * o.cnt) t) with
    | .error e => .error (e, rank)
    | .ok t => checkSet g os (rank + 1) t

/-- Whether every bank that a set touches is FULL (R63). -/
def setReady (os : List (Nat × CollOp)) (s : State) : Bool :=
  os.all (fun x => spaceReady s (.sp (memberAt x.1)) x.2.src (4 * x.2.cnt)
    && spaceReady s (.sp (memberAt x.1)) x.2.dst (4 * x.2.cnt))

/-- The banks of a set that sleep start their wakes (R63). -/
def setWake (os : List (Nat × CollOp)) (s : State) : State :=
  os.foldl (fun s x => spaceWake (.sp (memberAt x.1)) x.2.dst (4 * x.2.cnt)
    (spaceWake (.sp (memberAt x.1)) x.2.src (4 * x.2.cnt) s)) s

/-- COLL_SET_RUN (R294): a set that every member has joined runs once no FENCE.CO holds one of its operations and its banks
are FULL. -/
def execCollSetRun (g : BitVec 16) (k : Nat) (s : State) : Out :=
  .next (
    let os := setOps s g k
    if !setJoined s g k || (groupAt s g).ran.contains k
        || os.any (fun x => collHeld s (memberAt x.1) (memberCore s x.1) x.2.after) then s
    else if setDiffers os then endSet g k (some setIllegal) s
    else if !setReady os s then setWake os s
    else match checkSet g os 0 s with
      | .error (e, rank) => endSet g k (some (fun o => collExc e o.slot rank)) s
      | .ok t => setGroup g { groupAt t g with
          ran := (groupAt t g).ran ++ [k], parts := Map.put (groupAt t g).parts k (membersOf s g) } t)

/-- An element operation of COLL (R294). -/
def collFn (i32 : Bool) (op : BitVec 2) (x y : Nat) : Nat :=
  if i32 then
    let a := sextNat 32 x
    let b := sextNat 32 y
    wrapNat 32 (match op.toNat with | 0 => a + b | 1 => max a b | _ => min a b)
  else match op.toNat with
    | 0 => fBin FVal.add .rne 1 x y
    | 1 => fMaxNum 1 x y
    | _ => fMinNum 1 x y

/-- One level of the tree: neighbours combined, an odd last element carried (R294). -/
def pairUp (f : Nat → Nat → Nat) : List Nat → List Nat
  | [] => []
  | [x] => [x]
  | x :: y :: r => f x y :: pairUp f r

/-- The tree over the ranks (R294); eight levels reduce 256 members. -/
def treeReduce (f : Nat → Nat → Nat) : Nat → List Nat → Nat
  | 0, xs => xs.headD 0
  | fuel + 1, xs => if xs.length ≤ 1 then xs.headD 0 else treeReduce f fuel (pairUp f xs)

/-- The bytes that every member's dst receives (R294). -/
def setResult (s : State) (os : List (Nat × CollOp)) : List Byte :=
  match os with
  | [] => []
  | (_, o) :: _ =>
    let f := collFn o.i32 o.op
    ((List.range o.cnt).map (fun e =>
      leBytes 4 (treeReduce f 9 (os.map (fun x => leNat (spaceRead s (.sp (memberAt x.1)) (x.2.src + 4 * e) 4)))))).flatten

/-- COLL_SET_COMPLETE (R294): the dst of every member of a running set is written, unless an access fails after all. -/
def execCollSetComplete (g : BitVec 16) (k : Nat) (s : State) : Out :=
  .next (
    let os := setOps s g k
    if !(groupAt s g).ran.contains k || !setJoined s g k then s
    else match checkSet g os 0 s with
      | .error (e, rank) => endSet g k (some (fun o => collExc e o.slot rank)) s
      | .ok t =>
        let bs := setResult t os
        endSet g k none (os.foldl (fun s x => spaceWrite (memberAt x.1) (.sp (memberAt x.1)) x.2.dst bs s) t))

/-! ### Delivery (R295) -/

/-- The bundle that a pending collective fault is met by: an instruction of a copy slot, a barrier instruction of a group,
or END. -/
inductive CollMeet where
  | slot (sl : Slot) | barrier (g : BitVec 16) | atEnd
  deriving DecidableEq, Repr

/-- Whether a pending collective fault is met (R295). -/
def meets (m : CollMeet) (f : CollFault) : Bool :=
  match m with
  | .slot sl => f.exc.fslot == sl.num
  | .barrier g => f.g == g
  | .atEnd => true

/-- The earlier issued of two pending faults. -/
def olderFault (x : Option CollFault) (f : CollFault) : Option CollFault :=
  match x with
  | none => some f
  | some y => if f.seq < y.seq then some f else some y

/-- The oldest issued pending collective fault that is met, with those that stay (R295). -/
def pickColl (m : CollMeet) (fs : List CollFault) : Option (CollFault × List CollFault) :=
  ((fs.filter (meets m)).foldl olderFault none).map (fun f => (f, fs.erase f))

end Sys2Proof.Machine
end

