-- ==== Sys2Proof/Machine/Barrier.lean ====
section
/-! DEFINITION. The barrier (R296 to R300): BARM, BARR, BWAIT, BTRY and BALR, arrivals, releases with the change of the
group's phase (R260, R291), and what crosses dies (R297). -/

namespace Sys2Proof.Machine

open Sys2Proof

/-! ### Barriers by name -/

/-- The bound barrier of a group with a number. -/
def barrierAt (s : State) (g : BitVec 16) (b : BitVec 12) : Option Barrier := s.barriers.find? (fun x => x.g == g && x.b == b)

/-- A bound barrier replaced. -/
def putBarrier (x : Barrier) (s : State) : State :=
  { s with barriers := s.barriers.map (fun y => if y.g == x.g && y.b == x.b then x else y) }

/-- The fields of a spec word (R298). -/
def specB (v : Word) : BitVec 12 := fld v 0 12
def specLvl (v : Word) : Nat := (fld v 12 2).toNat + 1
def specCnt (v : Word) : Nat := (fld v 14 9).toNat

/-- Whether a spec word has no reserved bit set (R298). -/
def specLegal (arm : Bool) (v : Word) : Bool := fld v 23 41 == 0 && (arm || fld v 14 9 == 0)

/-- The first checks of every barrier instruction (R298): the spec word, the group, and that neither the group nor the
barrier is BROKEN; a broken barrier's own number is INFO. -/
def barrierGroup (arm : Bool) (v : Word) (s : State) : Except Exc (BitVec 16) :=
  let g := dmrAt (core s) (specLvl v)
  if !specLegal arm v then .error (illegalOp s)
  else if g = 0 then .error (illegalOp s)
  else
    let down := match barrierAt s g (specB v) with | some x => x.st == BSt.broken | none => false
    if down then .error (exc 0x28 ((specB v).setWidth 64))
    else if (groupAt s g).st = GSt.broken then .error (exc 0x28 ((groupAt s g).brokenBy.setWidth 64))
    else .ok g

/-- The bound barrier that a spec word names (R298). -/
def barrierFor (v : Word) (s : State) : Except Exc Barrier := do
  let g ← barrierGroup false v s
  match barrierAt s g (specB v) with
  | none => .error (illegalOp s)
  | some x => .ok x

/-- The result word of BARM and BARR (R298). -/
def barrierWord (ph : BitVec 32) (st : Nat) (first : Bool) : Word := word (ph.toNat + st * 2 ^ 32 + boolNat first * 2 ^ 40)

/-! ### BARM (R298) -/

/-- The die of a group's rank-0 member. -/
def homeDie (s : State) (g : BitVec 16) : Nat := dieNo (memberAt ((membersOf s g).headD 0))

/-- The barriers bound on a die, of 4,096. -/
def boundOn (s : State) (die : Nat) : Nat := (s.barriers.filter (fun x => x.die == die)).length

/-- A barrier just bound (R296). -/
def newBarrier (s : State) (g : BitVec 16) (b : BitVec 12) (count : Nat) (h : BitVec 32) : Barrier :=
  { g := g, b := b, die := homeDie s g, st := .armed, count := count, backing := h, arr := [], last := 0, rel := none
    phase := 0, arrivedAt := [], remote := [], seen := [] }

/-- Whether a handle names a HELD region of 64 bytes or more that the running context owns (R298). -/
def backs (s : State) (h : Word) : Bool :=
  match namedRegion s h with
  | none => false
  | some (_, r) => r.st == .held && r.subl.isNone && r.owner == (core s).ctx && decide (64 ≤ r.size)

/-- BARM (R298). -/
def execBarm (p : Pred) (d a : Reg) (la : Bool) (o : Opnd) (s : State) : Out :=
  .next (issue .s p (marksOf a la ++ markO o) (fun s => do
    let h ← rdX (core s) .s a
    let v ← rdO (core s) .s o
    let g ← barrierGroup true v s
    let n := (membersOf s g).length
    let c := if specCnt v = 0 then n else specCnt v
    let done (st : Nat) (first : Bool) (s : State) : Except Exc State :=
      .ok (updCore (resX .s d (barrierWord (groupAt s g).ph st first) 8) s)
    if !backs s h then .error (exc 0x21 h)
    else if n < c ∨ c = 0 then .error (illegalOp s)
    else match barrierAt s g (specB v) with
      | some x => if x.count = c ∧ x.backing = fld h 0 32 then done 0 false s else .error (illegalOp s)
      | none =>
        if 4096 ≤ boundOn s (homeDie s g) then done 1 false s
        else done 0 true { s with barriers := s.barriers ++ [newBarrier s g (specB v) c (fld h 0 32)] }) s)

/-! ### Arrivals (R296, R297) -/

/-- Whether a core has arrived in the current phase. -/
def hasArrived (x : Barrier) (m : Nat) : Bool := Map.find? x.arrivedAt m == some x.phase

/-- An arrival counted on the home die (R296): the last one sets L and RELEASING. -/
def countArrival (now m : Nat) (x : Barrier) : Barrier :=
  if x.st ≠ .armed then x
  else
    let y := { x with arr := x.arr ++ [m], last := now }
    if y.arr.length = y.count then { y with st := .releasing, rel := none } else y

/-- An arrival of the acting core (R296): at once on the home die, else on its way there (R297). -/
def arriveAt (x : Barrier) (s : State) : State :=
  let y := { x with arrivedAt := Map.put x.arrivedAt (myNo s) x.phase }
  if dieNo s.cur = x.die then armReleases (putBarrier (countArrival s.now (myNo s) y) s)
  else putBarrier { y with remote := y.remote ++ [myNo s] } s

/-- Whether an arrival is the last one of the phase. -/
def isLast (x : Barrier) : Bool := x.arr.length + x.remote.length + 1 == x.count

/-- BARR (R298). -/
def execBarr (p : Pred) (d : Reg) (o : Opnd) (s : State) : Out :=
  .next (issue .s p (markO o) (fun s => do
    let v ← rdO (core s) .s o
    let x ← barrierFor v s
    if hasArrived x (myNo s) then .error (illegalOp s)
    else .ok (updCore (resX .s d (barrierWord (groupAt s x.g).ph 0 (isLast x)) 8) (arriveAt x s))) s)

/-- BARRIER_REMOTE_ARRIVAL (R297): an arrival of the acting core reaches the home die. -/
def execBarrierRemoteArrival (g : BitVec 16) (b : BitVec 12) (s : State) : Out :=
  .next (match barrierAt s g b with
    | none => s
    | some x =>
      match x.remote.find? (fun m => memberAt m == s.cur) with
      | some m => armReleases (putBarrier (countArrival s.now m { x with
          remote := x.remote.erase m, arrivedAt := Map.put x.arrivedAt m x.phase }) s)
      | none => s)

/-! ### Waiting (R299, R300) -/

/-- The core waits on a barrier, FROZEN under cause 9. -/
def waitAt (g : BitVec 16) (b : BitVec 12) (s : State) : State :=
  freeze 9 (updCore (fun c => { c with waitOn := some (g, b) }) s)

/-- The core waits on no barrier. -/
def endWait (c : Core) : Core := { c with waitOn := none }

/-- The barrier of a BWAIT that it may wait on: the checks of R298 pass. -/
def bwaitFor (o : Opnd) (s : State) : Except Exc Barrier := do
  let v ← rdO (core s) .s o
  let x ← barrierFor v s
  if (Map.find? x.arrivedAt (myNo s)).isNone then .error (illegalOp s) else .ok x

/-- The wait of BWAIT (R299): the barrier whose release it waits for. -/
def bwaitWait (p : Pred) (o : Opnd) (s : State) : Option (BitVec 16 × BitVec 12) :=
  if !predOn (core s) .s p then none
  else match bwaitFor o s with
    | .error _ => none
    | .ok x => if released x (myNo s) then none else some (x.g, x.b)

/-- BWAIT (R299). -/
def execBwait (p : Pred) (o : Opnd) (s : State) : Out :=
  .next (match bwaitWait p o s with
    | some (g, b) => waitAt g b s
    | none => issue .s p (markO o) (fun s => do
      let _ ← bwaitFor o s
      .ok s) (updCore endWait s))

/-- BTRY (R299). -/
def execBtry (p : Pred) (d : BitVec 3) (o : Opnd) (s : State) : Out :=
  .next (issue .s p (markO o) (fun s => do
    let v ← rdO (core s) .s o
    let x ← barrierFor v s
    .ok (updCore (resP .s d.toNat (boolWord (released x (myNo s))) 1 1) s)) s)

/-! ### BALR (R299) -/

/-- The barrier that a BALR arrives at: the checks of R298, and every member on one die. -/
def balrFor (o : Opnd) (s : State) : Except Exc Barrier := do
  let v ← rdO (core s) .s o
  let x ← barrierFor v s
  if (membersOf s x.g).any (fun m => dieNo (memberAt m) != dieNo s.cur) then .error (illegalOp s)
  else if hasArrived x (myNo s) then .error (illegalOp s)
  else .ok x

/-- The barrier on which the core's BALR has arrived already: the one its spec word names. -/
def balrPending (o : Opnd) (s : State) : Option (BitVec 16 × BitVec 12) :=
  match (core s).waitOn, rdO (core s) .s o with
  | some (g, b), .ok v => if dmrAt (core s) (specLvl v) = g ∧ specB v = b then some (g, b) else none
  | _, _ => none

/-- What a BALR meets: it arrives at a barrier, waits on after its arrival, or issues (with its effect or a fault). -/
inductive Balr where
  | arrives (x : Barrier) | waits (g : BitVec 16) (b : BitVec 12) | issues
  deriving DecidableEq, Repr

/-- What a BALR meets now (R299). -/
def balrMeets (p : Pred) (o : Opnd) (s : State) : Balr :=
  if !predOn (core s) .s p then .issues
  else match balrPending o s with
    | some (g, b) =>
      match barrierAt s g b with
      | none => .issues
      | some x =>
        if x.st = .broken ∨ (groupAt s g).st = .broken ∨ released x (myNo s) then .issues else .waits g b
    | none => match balrFor o s with
      | .ok x => .arrives x
      | .error _ => .issues

/-- The end of a BALR whose arrival is made (R299, R300): it issues after its release, or faults where the barrier broke. -/
def balrIssue (p : Pred) (o : Opnd) (s : State) : State :=
  match balrPending o s with
  | none => issue .s p (markO o) (fun s => do
    let _ ← balrFor o s
    .ok s) s
  | some _ => issue .s p (markO o) (fun s => do
    let v ← rdO (core s) .s o
    let _ ← barrierFor v s
    .ok s) (updCore endWait s)

/-- BALR (R299): the arrival, the wait, then the issue. -/
def execBalr (p : Pred) (o : Opnd) (s : State) : Out :=
  .next (match balrMeets p o s with
    | .arrives x => waitAt x.g x.b (arriveAt x s)
    | .waits g b => waitAt g b s
    | .issues => balrIssue p o s)

/-! ### Releases (R260, R291, R296) -/

/-- A region bound to a group at the group's phase change (R260): the next EPOCH, or the target of a REL that waits. The old word
and tags `old` keeps stay for the engine accesses that are in flight. -/
def phaseChange (old : List (Nat × Phase × Map GTag) → List (Nat × Phase × Map GTag)) (now : Nat) (g : BitVec 16) (r : Region) :
    Region :=
  if r.st != .free && bound r.phase && r.phase.holder == g then
    let r1 := match r.phase.pend with
      | some q => setPhase r q
      | none => { bumpEpoch r with tags := [] }
    { r1 with was := old ((now, r.phase, r.tags) :: r.was) }
  else r

/-- Whether some engine has work in flight, on a core or for a save image. -/
def enginesBusy (s : State) : Bool := (coresAndImages s).any (fun x => engineBusy x.2)

/-- GROUP_PHASE_CHANGE (R291): the phase count advances, sets start anew, and bound regions change phase. -/
def groupPhase (g : BitVec 16) (s : State) : State :=
  let x := groupAt s g
  let s1 := setGroup g { x with
    ph := x.ph + 1, st := if x.st == .compute then .communicate else .compute, joined := [], ran := [], parts := [] } s
  let old (ws : List (Nat × Phase × Map GTag)) := if enginesBusy s then ws else []
  { s1 with regions := s1.regions.map (fun y => (y.1, phaseChange old s.now g y.2)) }

/-- A barrier after its release at reference cycle `now` (R296): armed again for the next phase, in which the arrivals still on their
way to its home die count when they reach it, and so are arrivals of that phase (R297). -/
def rearmed (now : Nat) (x : Barrier) : Barrier :=
  { x with st := .armed, arr := [], rel := none, phase := x.phase + 1, relAt := some now
           arrivedAt := x.remote.foldl (fun a m => Map.put a m (x.phase + 1)) x.arrivedAt }

/-- The release of a barrier in cycle T (R291, R294, R296): sets that some member has not joined fault, the group's phase
changes, and every waiter is released, to issue in this cycle: a region that they have kept OVERDUE is looked at as the next begins
(R234, R299). A BROKEN group changes phase no more (R291). -/
def releaseBarrier (x : Barrier) (s : State) : State :=
  if (groupAt s x.g).st = .broken then putBarrier (rearmed s.now x) s
  else
    let s1 := forgetColls x.g ((openSets s x.g).foldl (fun s k => endSet x.g k (some setIllegal) s) s)
    putBarrier (rearmed s.now x) (groupPhase x.g s1)

/-- BARRIER_RELEASE (R296): in cycle T; where a set has been joined since, T is counted again (R291). -/
def execBarrierRelease (g : BitVec 16) (b : BitVec 12) (s : State) : Out :=
  .next (match barrierAt s g b with
    | none => s
    | some x =>
      match x.st, x.rel with
      | .releasing, some t =>
        if s.now < t then s
        else if phaseDone s g then releaseBarrier x s
        else putBarrier { x with rel := none } s
      | _, _ => s)

/-- BARRIER_REMOTE_RELEASE (R297): the next release reaches the acting core, of another die. -/
def execBarrierRemoteRelease (g : BitVec 16) (b : BitVec 12) (s : State) : Out :=
  .next (match barrierAt s g b with
    | none => s
    | some x =>
      let n := Map.get x.seen (myNo s) 0
      if dieNo s.cur ≠ x.die ∧ n < x.phase then putBarrier { x with seen := Map.put x.seen (myNo s) (n + 1), relAt := some s.now } s
      else s)

/-! ### Members that leave (R291, R296) -/

/-- Regions that a barrier released in this reference cycle has kept OVERDUE are looked at as the cycle ends (R234, R299). -/
def settleReleased (s : State) : State :=
  if s.barriers.any (fun x => x.relAt == some s.now) then
    settle { s with barriers := s.barriers.map (fun x => { x with relAt := none }) }
  else s

/-- The groups that a member is in (R289, R290). -/
def groupsOf (s : State) (m : Nat) : List (BitVec 16) :=
  (s.groups.filter (fun x => x.2.members.contains m)).map (fun x => BitVec.ofNat 16 x.1)

/-- A group goes FREE (R291): its barriers return to the pool, its members' pending faults over it go with it. -/
def freeGroup (g : BitVec 16) (s : State) : State :=
  { s with groups := Map.del s.groups g.toNat, barriers := s.barriers.filter (fun x => x.g != g) }

/-- A core that retires leaves a group (R291, R296): a barrier of the phase at which it has not arrived breaks, and with its
last member a group of levels 1 to 3 goes FREE. -/
def leaveGroup (m : Nat) (s : State) (g : BitVec 16) : State :=
  let x := groupAt s g
  if g = 0 ∨ x.st = .free ∨ !x.members.contains m then s
  else
    let broken := s.barriers.filter (fun b => b.g == g && b.st == .armed && !hasArrived b m)
    let s1 := broken.foldl (fun s b => breakBarrier b.g b.b s) s
    let y : Group := { groupAt s1 g with members := x.members.filter (· != m), joined := Map.del (groupAt s1 g).joined m }
    if y.members.isEmpty ∧ y.level < 4 then freeGroup g s1 else armReleases (setGroup g y s1)

end Sys2Proof.Machine
end

