-- ==== Sys2Proof/Machine/Bcast.lean ====
section
/-! DEFINITION. The Pleach bus (R224, R225): BCAST, BLATCH and BLTRY, the drive of a waiting block and its landing. -/

namespace Sys2Proof.Machine

open Sys2Proof

/-! ### Buses -/

/-- The key of a bus of a die. -/
def busKey (die : Nat) (bus : BitVec 2) : Nat := 4 * die + bus.toNat

/-- The broadcasts that wait for a bus or are on their way on it. -/
def busQ (s : State) (k : Nat) : List Bcast := Map.get s.buses k []

/-- The state with a bus's broadcasts replaced. -/
def setBusQ (k : Nat) (q : List Bcast) (s : State) : State := { s with buses := Map.put s.buses k q }

/-- The cores of a die that a mask names, ascending (R224). -/
def dieCores (die : Nat) (m : Word) : List Nat := (bitsOf m).map (fun i => 64 * die + i)

/-- Whether a core runs a context (R224). -/
def runsCtx (c : Core) (ctx : BitVec 12) : Bool :=
  c.ctx == ctx && (c.st == .running || c.st == .frozen || c.st == .trapped)

/-- Whether a core's landing buffer has a free entry for a key (R224). -/
def landFree (c : Core) (bus : BitVec 2) (label : BitVec 16) : Bool :=
  c.land.length < 8 && (landEnt c bus label).isNone

/-! ### BCAST (R224) -/

/-- The wait of BCAST (R224): cause 8 while some receiver has no free entry; one that will fault does not wait. -/
def bcastWait (u : CU) (p : Pred) (bus : BitVec 2) (a e : Reg) (s : State) : Option Nat :=
  let c := core s
  let label := getX c u.slot a
  let rs := dieCores (dieNo s.cur) (getX c u.slot e)
  if predOn c u.slot p && fld label 16 48 == 0 && rs.all (fun g => runsCtx (coreAt s g) c.ctx)
      && rs.any (fun g => !landFree (coreAt s g) bus (fld label 0 16)) then some 8
  else none

/-- A reserved entry for a key. -/
def reserve (bus : BitVec 2) (label : BitVec 16) (c : Core) : Core := { c with land := c.land ++ [⟨bus, label, none⟩] }

/-- BCAST (R224): the receivers' entries are reserved, and the block read at issue waits for its bus. DESIGN CHOICE (log 115): NO_RIGHT for
a core of the mask comes after the checks of the block. -/
def execBcast (u : CU) (p : Pred) (bus : BitVec 2) (a b e : Reg) (s : State) : Out :=
  .next (match bcastWait u p bus a e s with
    | some cause => freeze cause s
    | none => issue u.slot p [] (fun s => do
      let label ← rdX (core s) u.slot a
      let ad ← rdX (core s) u.slot b
      let mask ← rdX (core s) u.slot e
      let die := dieNo s.cur
      let rs := dieCores die mask
      if fld label 16 48 != 0 || mask == 0 then .error (illegalOp s)
      else do
        let t ← checkLocal .sl .read ad.toNat 256 64 s
        checkPoison (core s) ad.toNat 256
        match rs.find? (fun g => !runsCtx (coreAt s g) (core s).ctx) with
        | some g => .error (exc 0x21 (word g))
        | none =>
          let l : BitVec 16 := fld label 0 16
          let t1 := rs.foldl (fun s g => updCoreAt g (reserve bus l) s) t
          let m : Bcast := { core := s.cur, ctx := (core s).ctx, label := l, recv := rs, data := Memory.readBytes (viewMem (core s)) ad.toNat 256
                             issued := s.now, lands := none }
          .ok (setBusQ (busKey die bus) (busQ t1 (busKey die bus) ++ [m]) t1)) s)

/-! ### BLATCH and BLTRY (R224, R225) -/

/-- An entry of the landing buffer freed. -/
def dropLand (bus : BitVec 2) (label : BitVec 16) (c : Core) : Core :=
  { c with land := c.land.filter (fun e => !(e.bus == bus && e.label == label)) }

/-- The wait of BLATCH (R224): cause 7 until the entry is present. -/
def blatchWait (u : CU) (p : Pred) (bus : BitVec 2) (a : Reg) (s : State) : Option Nat :=
  let c := core s
  let label := getX c u.slot a
  if predOn c u.slot p && fld label 16 48 == 0 && (landed c bus label).isNone then some 7 else none

/-- The checks of BLATCH and BLTRY: the label, then VST's address checks over all 256 bytes (R224). -/
def latchChecks (u : CU) (a b : Reg) (s : State) : Except Exc State := do
  let label ← rdX (core s) u.slot a
  let ad ← rdX (core s) u.slot b
  if fld label 16 48 != 0 then .error (illegalOp s)
  else checkLocal .sl .write ad.toNat 256 64 s

/-- The block is written and its entry freed (R225). -/
def takeBlock (u : CU) (bus : BitVec 2) (a b : Reg) (d : List Byte) (s : State) : State :=
  let c := core s
  updCore (dropLand bus (fld (getX c u.slot a) 0 16)) (slotStore u.slot (placeBytes (getX c u.slot b).toNat d) s)

/-- BLATCH (R224). -/
def execBlatch (u : CU) (p : Pred) (bus : BitVec 2) (a b : Reg) (s : State) : Out :=
  .next (match blatchWait u p bus a s with
    | some cause => freeze cause s
    | none => issue u.slot p [] (fun s => do
      let t ← latchChecks u a b s
      match landed (core s) bus (getX (core s) u.slot a) with
      | none => .ok t
      | some d => .ok (takeBlock u bus a b d t)) s)

/-- BLTRY (R224): it never freezes; the predicate tells whether the entry was present, and without one nothing is written. -/
def execBltry (u : CU) (p : Pred) (d : BitVec 2) (a b : Reg) (bus : BitVec 2) (s : State) : Out :=
  .next (issue u.slot p [] (fun s => do
    let t ← latchChecks u a b s
    match landed (core s) bus (getX (core s) u.slot a) with
    | none => .ok (updCore (resP u.slot d.toNat 0 1 1) s)
    | some bs => .ok (updCore (resP u.slot d.toNat 1 1 1) (takeBlock u bus a b bs t))) s)

/-! ### The bus (R224) -/

/-- The place of the block that goes next: the earliest issued, of these the lowest core's (R224). -/
def nextBlock (now : Nat) : List Bcast → Nat → Option (Nat × Bcast) → Option (Nat × Bcast)
  | [], _, best => best
  | m :: ms, i, best =>
    let ready := m.lands.isNone && m.issued < now
    let better := match best with
      | none => ready
      | some (_, b) => ready && (m.issued < b.issued || (m.issued == b.issued && m.core < b.core))
    nextBlock now ms (i + 1) (if better then some (i, m) else best)

/-- Whether a bus has driven a block in this reference cycle. -/
def busBusy (now : Nat) (q : List Bcast) : Bool := q.any (fun m => m.lands == some (now + 8))

/-- BCAST_DRIVE (R224): the next waiting block of a bus of the acting core's die is driven, to land 8 cycles later. -/
def execBcastDrive (bus : BitVec 2) (s : State) : Out :=
  let k := busKey (dieNo s.cur) bus
  let q := busQ s k
  .next (if busBusy s.now q then s
    else match nextBlock s.now q 0 none with
      | none => s
      | some (i, m) => setBusQ k (q.set i { m with lands := some (s.now + 8) }) s)

/-- A block fills the entry reserved for it in a core of the sender's context. -/
def fillLand (bus : BitVec 2) (m : Bcast) (c : Core) : Core :=
  if c.ctx ≠ m.ctx then c
  else { c with land := c.land.map (fun e =>
      if e.bus == bus && e.label == m.label && e.data.isNone then { e with data := some m.data } else e) }

/-- A block lands in every receiver's entry, which a saved core's image holds with it (R224, R265). -/
def landBlock (bus : BitVec 2) (m : Bcast) (s : State) : State :=
  let s1 := m.recv.foldl (fun s g => updCoreAt g (fillLand bus m) s) s
  { s1 with images := s1.images.map (fun x =>
      if m.recv.contains x.core then { x with saved := fillLand bus m x.saved } else x) }

/-- BCAST_LANDING (R224): the blocks of a bus whose time has come land. -/
def execBcastLanding (bus : BitVec 2) (s : State) : Out :=
  let k := busKey (dieNo s.cur) bus
  let q := busQ s k
  let due (m : Bcast) : Bool := match m.lands with | some t => t ≤ s.now | none => false
  .next (setBusQ k (q.filter (fun m => !due m)) ((q.filter due).foldl (fun s m => landBlock bus m s) s))

end Sys2Proof.Machine
end

