-- ==== Sys2Proof/Machine/Engine.lean ====
section
/-! DEFINITION. The matrix engine (R140 to R169): its clock, its scratchpad access, the microprogram store with the checks of
an upload, accumulator tiles, deferred faults, and the sixteen micro-operations. -/

namespace Sys2Proof.Machine

open Sys2Proof

/-! ### The engine of the acting core, and its clock (R348) -/

/-- The matrix engine of the acting core. -/
def pme (s : State) : Pme := (core s).pme

/-- The acting core's matrix engine changed. -/
def updPme (f : Pme → Pme) (s : State) : State := updCore (fun c => { c with pme := f c.pme }) s

/-- The first reference cycle at or after `t` that begins an engine cycle at divisor `d` (R348). -/
def alignUp (t d : Nat) : Nat := (t + d - 1) / d * d

/-- The matrix engine's divisor. -/
def mDiv (s : State) : Nat := divisor (core s) .m

/-! ### Deferred faults (R157, R158, R372) -/

/-- Word 3 of a record of the engine (R189). -/
def pmeWord3 (rout uaddr passes ecause : Nat) : Word :=
  word (rout % 2 ^ 8 + uaddr % 2 ^ 11 * 2 ^ 8 + passes % 2 ^ 32 * 2 ^ 19 + ecause * 2 ^ 51)

/-- A fault of the engine as a bundle will deliver it (R158, R189). -/
def deferred (e : Exc) (w3 : Word) : Exc := { e with fslot := 3, defer := true, w3 := w3 }

/-- A fault of an entry of the call queue, pending until a bundle delivers it (R158): it is the one that R157 speaks of, since the
engine has stopped. -/
def pend (e : Exc) (w3 : Word) (p : Pme) : Pme := { p with fault := some (deferred e w3) }

/-- A fault of an MSQL's read, which stops no call: it pends beside the others, in the order in which they arise (R174, log 24). -/
def pendSide (e : Exc) (p : Pme) : Pme := { p with side := p.side ++ [deferred e 0] }

/-- The entry at the head of the call queue ends (R160). -/
def endCall (now : Nat) (p : Pme) : Pme :=
  { p with run := none, mupl := none, lastEnd := now, calls := p.calls.tail
           ended := match p.calls with | k :: _ => k.seq | [] => p.ended }

/-- A fault stops the entry at the head of the call queue; calls behind it are held (R157). -/
def stopCall (e : Exc) (w3 : Word) (s : State) : State :=
  updPme (fun p => { pend e w3 (endCall s.now p) with held := true }) s

/-- The running routine stops on a fault (R157). -/
def stopRoutine (r : Routine) (e : Exc) (s : State) : State := stopCall e (pmeWord3 r.idx r.uaddr r.passes 0) s

/-! ### Scratchpad access of the engine (R157, R167, R252) -/

/-- The reference cycle in which the call at the head of the queue issued. -/
def callBorn (s : State) : Nat := ((pme s).calls.head?.map (·.issued)).getD s.now

/-- The checks of an engine access: NO_RIGHT beyond the scratchpad, check_region, check_race, and poison on a read (R157). -/
def engCheck (p : Path) (k : Acc) (a n : Nat) (s : State) : Except Exc State :=
  if spSize < a + n then .error (exc 0x21 (word (max a spSize)))
  else do
    checkRegion s.regions (core s).ctx (.sp s.cur) k a n
    let t ← checkMoving (callBorn s) (.sp s.cur) k p s.cur a n s
    if k.reads then
      match spacePoison s (.sp s.cur) a n with
      | some g => .error (exc 0x11 (word (2 ^ 63 + 64 * g)))
      | none => .ok t
    else .ok t

/-- The lowest byte of some listed bytes at which check_race fails for the engine: granule by granule (R250). -/
def listedRace (rs : Map Region) (k : Acc) (gs : List (Nat × List Nat)) (s : State) : Option Nat :=
  lowest (fun _ => true) (gs.filterMap (fun g =>
    if (raceAt true rs (.sp s.cur) k .mx s.cur g.1 64 s).isSome then
      lowest (fun b => (raceAt true rs (.sp s.cur) k .mx s.cur b 1 s).isSome) g.2
    else none))

/-- The listed bytes of a granule are read by the engine (R250, R251). -/
def noteListed (rs : Map Region) (s : State) (g : Nat × List Nat) : State :=
  let t := recordTags s rs (.sp s.cur) .read s.cur g.1 64
  if notOpen rs (.sp s.cur) g.1 64 || conflicts t t.cur .mx .read (.sp t.cur) g.1 64 then
    g.2.foldl (fun t b => noteRoutine rs (.sp t.cur) .read .mx t.cur b 1 (noteTake t.cur .mx .read (.sp t.cur) b 1 t)) t
  else t

/-- The checks of an engine read of listed bytes, given granule by granule, in the order of `engCheck` (R157, R167). -/
def engCheckListed (gs : List (Nat × List Nat)) (s : State) : Except Exc State :=
  let rs := regionsSince (callBorn s) s
  let bytes := (gs.map (·.2)).flatten
  match lowest (fun b => decide (spSize ≤ b)) bytes with
  | some b => .error (exc 0x21 (word b))
  | none => do
    checkRegionAt s.regions (core s).ctx (.sp s.cur) .read (gs.filterMap (fun g => lowest (fun _ => true) g.2))
    match listedRace rs .read gs s with
    | some b => .error (exc 0x25 (word b))
    | none =>
      match (gs.map (·.1)).find? (fun a => (spacePoison s (.sp s.cur) a 64).isSome) with
      | some a => .error (exc 0x11 (word (2 ^ 63 + a)))
      | none => .ok (gs.foldl (noteListed rs) s)

/-- Bytes of the acting core's scratchpad. -/
def spBytes (s : State) (a n : Nat) : List Byte := Memory.readBytes (core s).sp.mem a n

/-! ### The microprogram store (R162, R163, R166, R173) -/

/-- The directory entry that an image header gives, with VALID set (R162). -/
def entOf (h0 h1 : Word) : DirEnt :=
  { start := (fld h0 0 11).toNat, len := (fld h0 11 11).toNat, narrow := bit h0 22, valid := true
    creg := fld h0 24 3, cfix := fld h0 32 32, cper := fld h1 0 24, epass := fld h1 24 16 }

/-- Whether an image header passes the checks made when it runs (R166, R372 ECAUSE 2). -/
def headerOk (h0 h1 : Word) : Bool :=
  let e := entOf h0 h1
  !bit h0 23 && fld h0 27 5 == 0 && fld h1 40 24 == 0 && decide (1 ≤ e.len) && decide (e.start + e.len ≤ 1536)

/-- The engine cycles that a micro-operation costs (R164). -/
def uopCost : Instr → Nat
  | .uopNop n => n.toNat
  | .uopMulw => 4
  | .uopDrain _ _ _ _ _ _ => 64
  | .uopFence => 8
  | _ => 0

/-- The registers that a micro-operation steps (R167, R168). -/
def uopSteps : Instr → List (BitVec 3)
  | .uopPlane ra _ _ _ => [ra]
  | .uopBload ra _ _ => [ra]
  | .uopSpidx ra rb _ _ _ => [ra, rb]
  | .uopDrain _ rb _ _ _ _ => [rb]
  | _ => []

/-- Whether the word at an index of a routine is a JNZ with a target (R166); its own reserved fields are checked in its
place. -/
def jnzAt (ws : List Word) (i t : Nat) : Bool :=
  match ws[i]? with
  | some w => fld w 60 4 == 10 && decide ((fld w 43 11).toNat = t)
  | none => false

/-- An open loop in the check of a routine: its END index, and its count, none for the register loop. -/
abbrev OpenLoop := Nat × Option Nat

/-- The cost of `c` cycles inside open loops, as the part that does not depend on the register count and the part per unit
of it (R166). -/
def costIn (c : Nat) (ls : List OpenLoop) : Nat × Nat :=
  let n := ls.foldl (fun n l => match l.2 with | some k => n * k | none => n) c
  if ls.any (fun l => l.2.isNone) then (0, n) else (n, 0)

/-- What the check of a routine has found so far: open loops, the costs, the index and register of the register loop, and
the steps with their indices. -/
structure Scan where
  open' : List OpenLoop := []
  fix : Nat := 0
  per : Nat := 0
  reg : Option (Nat × BitVec 3) := none
  steps : List (Nat × BitVec 3) := []
  deriving DecidableEq, Repr

/-- The check of one micro-operation (R166): nothing where the routine's structure fails at it. -/
def scanOne (ws : List Word) (i : Nat) (u : Instr) (x : Scan) : Option Scan :=
  let y : Scan := { x with steps := x.steps ++ (uopSteps u).map (fun r => (i, r)) }
  match u with
  | .uopLoop ra reg fin cnt =>
    let f := fin.toNat
    let ok := decide (i < f) && jnzAt ws f (i + 1) && decide (x.open'.length < 4) && !(reg && x.reg.isSome)
    if ok then some { y with open' := (f, if reg then none else some cnt.toNat) :: x.open'
                             reg := if reg then some (i, ra) else x.reg }
    else none
  | .uopJnz _ =>
    match x.open' with
    | (f, _) :: ls => if f = i ∧ i + 1 < ws.length then some { y with open' := ls } else none
    | [] => none
  | .uopEnd => if i + 1 = ws.length ∧ x.open' = [] then some y else none
  | _ =>
    let (f, p) := costIn (uopCost u) x.open'
    if i + 1 = ws.length then none else some { y with fix := x.fix + f, per := x.per + p }

/-- The checks of R166 word by word from index `i`: ECAUSE, INFO and UADDR of the first failure (R372), or what was found. -/
def scanCode (h0 : Word) (ws : List Word) : List Word → Nat → Scan → Except (Nat × Word × Nat) Scan
  | [], _, x => .ok x
  | w :: rest, i, x =>
    match decodeUop w with
    | none => .error (0, w, i)
    | some u => match scanOne ws i u x with
      | none => .error (3, h0, i)
      | some y => scanCode h0 ws rest (i + 1) y

/-- The checks of an upload (R166, R372): ECAUSE, INFO and UADDR of a refusal. DESIGN CHOICE (log 105): "no micro-operation steps
CREG" binds a routine that has a register loop; in one that has none, CREG names no count and any register may be stepped. -/
def verifyImage (h0 h1 : Word) (ws : List Word) : Option (Nat × Word × Nat) :=
  let e := entOf h0 h1
  if !headerOk h0 h1 then some (2, h0, 0)
  else match scanCode h0 ws ws 0 {} with
    | .error f => some f
    | .ok x =>
      match x.reg with
      | some (i, ra) =>
        if ra ≠ e.creg then some (3, h0, i)
        else match List.find? (fun t : Nat × BitVec 3 => t.2 == e.creg) x.steps with
          | some t => some (3, h0, t.1)
          | none => if x.fix ≠ e.cfix.toNat ∨ x.per ≠ e.cper.toNat then some (3, h0, ws.length) else none
      | none => if x.fix ≠ e.cfix.toNat ∨ e.cper ≠ 0 then some (3, h0, ws.length) else none

/-- A routine enters the store (R173): its words, its directory entry, and every other entry over those words invalid. -/
def storeRoutine (idx : Nat) (h0 h1 : Word) (ws : List Word) (p : Pme) : Pme :=
  let e := entOf h0 h1
  let dir := p.dir.map (fun d => if d.1 ≠ idx ∧ overlaps d.2.start d.2.len e.start e.len then (d.1, { d.2 with valid := false }) else d)
  { p with code := ((List.range ws.length).zip ws).foldl (fun m x => Map.put m (e.start + x.1) x.2) p.code
           dir := Map.put dir idx e }

/-- The words of an image at an address. -/
def imageWords (m : Memory) (a n : Nat) : List Word := (List.range n).map (fun i => word (Memory.readLE m (a + 16 + 8 * i) 8))

/-- The bytes of an image, its header first (R162, R173). -/
def muplBytes (h0 : Word) : Nat := 16 + 8 * (fld h0 11 11).toNat

/-! ### The running routine (R167, R169) -/

/-- The running routine replaced. -/
def setRun (r : Routine) (p : Pme) : Pme := { p with run := some r }

/-! ### Tiles (R151, R152, R155) -/

/-- A tile; none when it is UNBOUND. -/
def tileAt (p : Pme) (t : Nat) : Option Tile := Map.find? p.tiles t

/-- The status word of a tile (R155). -/
def tileWord (t : Option Tile) : Word :=
  match t with
  | none => 0
  | some x => word (boolNat (x.elems.any (fun e => bit e.2 63)) + boolNat x.sat * 2 + boolNat x.gov * 4 + boolNat x.ufl * 8
      + 16 + x.eacc.toNat * 2 ^ 8 + boolNat x.eauto * 2 ^ 18 + x.passes.toNat * 2 ^ 32)

/-- The physical slots of the acting core in use, those of its saved contexts' tiles among them (R152). -/
def usedSlots (s : State) : List Nat :=
  (pme s).tiles.map (·.2.slot)
    ++ ((s.images.filter (fun m => m.core == s.cur)).map (fun m => m.saved.pme.tiles.map (·.2.slot))).flatten

/-- The partial's exponent (R148, R167), none for a NaN scale. -/
def scaleExp (r : Routine) (sh : BitVec 3) (row col : Nat) : Option Int :=
  let a := ((r.ea[row]?).getD 127).toNat
  let b := ((r.eb[col]?).getD 127).toNat
  if a = 255 ∨ b = 255 then none else some ((a : Int) + b - 254 + sh.toNat)

/-- The exponents of a pass's 4,096 elements. -/
def passExps (r : Routine) (sh : BitVec 3) : List (Option Int) :=
  (List.range 4096).map (fun k => scaleExp r sh (k / 64) (k % 64))

/-- EACC of a tile at its first pass, with EAUTO (R151). -/
def firstEacc (r : Routine) (sh : BitVec 3) : BitVec 10 × Bool :=
  match r.exp with
  | some e => (e, false)
  | none =>
    let least := (passExps r sh).foldl (fun m e => min m (e.getD 261)) 261
    (BitVec.ofInt 10 (clampInt least (-512) 511), true)

/-- The tag of a tile slot from its first write to its release (R88, R91). -/
def accRaw : BitVec 6 := 0x20

/-- The tile bound for a pass (R152): as it is, fresh in the lowest free slot with the tag ACCRAW (R91), or none where there is no
free slot. -/
def bindTile (s : State) (r : Routine) (t : Nat) (sh : BitVec 3) : Option Tile :=
  match tileAt (pme s) t with
  | some x => some x
  | none =>
    match (List.range 32).find? (fun k => !(usedSlots s).contains k) with
    | none => none
    | some k => let (e, auto) := firstEacc r sh; some { slot := k, tag := accRaw, eacc := e, eauto := auto }

/-- A tile replaced. -/
def putTile (t : Nat) (x : Tile) (p : Pme) : Pme := { p with tiles := Map.put p.tiles t x }

/-- An element after a partial is added (R149): the element, and whether the addition was clamped and the partial was lost. -/
def addElem (eacc : Int) (old : Word) (i : Int) (e : Option Int) : Word × Bool × Bool :=
  match e with
  | none => (2 ^ 63, false, false)
  | some e =>
    if bit old 63 then (old, false, false)
    else
      let y : Int := signed (decide (i < 0)) (roundInt 0 (decide (i < 0)) i.natAbs (e - eacc))
      let t := sextNat 63 old.toNat + y
      let lim : Int := 2 ^ 62 - 1
      let v := clampInt t (-lim) lim
      (word (wrapNat 63 v), decide (v ≠ t), decide (i ≠ 0 ∧ y = 0))

/-- A pass added into a tile (R149, R155). -/
def addPass (r : Routine) (sh : BitVec 3) (x : Tile) : Tile :=
  let outs := List.zipWith (fun (k : Nat) (ie : Int × Option Int) => (k, addElem x.eacc.toInt (Map.get x.elems k 0) ie.1 ie.2))
    (List.range 4096) (r.i.zip (passExps r sh))
  { x with
    elems := (outs.filter (fun o => o.2.1 != 0)).map (fun o => (o.1, o.2.1))
    sat := x.sat || outs.any (fun o => o.2.2.1)
    ufl := x.ufl || outs.any (fun o => o.2.2.2)
    passes := if x.passes = 0xFFFFFFFF then x.passes else x.passes + 1 }

/-- Tiles released: one, or every one for 32 (R176). -/
def releaseTiles (t : Nat) (p : Pme) : Pme := { p with tiles := if t = 32 then [] else Map.del p.tiles t }

/-! ### The scale queue (R146, R147, R174) -/

/-- The engine after a pop of its scale queue. -/
def popScale (p : Pme) : Pme := { p with scales := p.scales.tail }

/-- The 64 codes of a scale entry (R146). -/
def scaleCodes (x : BitVec 512) : List Byte := (List.range 64).map (fun m => fld x (8 * m) 8)

/-- Whether an MSQL is outstanding (R146). -/
def outstanding (p : Pme) : Bool := !p.msqls.isEmpty

/-- SCALE_QUEUE_IMBALANCE with QCNT (R185). -/
def imbalance (p : Pme) : Exc := exc 0x15 (word p.scales.length)

/-! ### Running a micro-operation -/

/-- A micro-operation acts on the running routine of the acting core; with none running nothing happens. Where it can go
on, its sequencing follows and its cost passes (R164). -/
def onRoutine (u : Instr) (act : Routine → State → Except Exc (State × Routine)) (s : State) : State :=
  match (pme s).run with
  | none => s
  | some r =>
    match act r s with
    | .error e => stopRoutine r e s
    | .ok (t, r1) =>
      updPme (fun p => { setRun (uopCtl u r1) p with busy := max p.busy s.now + uopCost u * mDiv s }) t

/-- The routine waits one engine cycle at its micro-operation (R147, R168). -/
def waitCycle (r : Routine) (s : State) : State :=
  updPme (fun p => { setRun r p with busy := max p.busy s.now + mDiv s }) s

/-- NOP (R168). -/
def execUopNop (n : BitVec 16) (s : State) : Out := .next (onRoutine (.uopNop n) (fun r s => .ok (s, r)) s)

/-- FENCE (R168): the routine's writes are visible at once already; its cycles pass. -/
def execUopFence (s : State) : Out := .next (onRoutine .uopFence (fun r s => .ok (s, r)) s)

/-- LOOP (R169). -/
def execUopLoop (ra : BitVec 3) (reg : Bool) (fin : BitVec 11) (cnt : BitVec 16) (s : State) : Out :=
  .next (onRoutine (.uopLoop ra reg fin cnt) (fun r s => .ok (s, r)) s)

/-- JNZ (R169). -/
def execUopJnz (target : BitVec 11) (s : State) : Out := .next (onRoutine (.uopJnz target) (fun r s => .ok (s, r)) s)

/-- END (R169): the routine ends and its call-queue entry frees. -/
def execUopEnd (s : State) : Out :=
  .next (match (pme s).run with
    | none => s
    | some _ => updPme (endCall s.now) s)

/-- SETEXP (R168). -/
def execUopSetexp (e : BitVec 10) (auto : Bool) (s : State) : Out :=
  .next (onRoutine (.uopSetexp e auto) (fun r s => .ok (s, { r with exp := if auto then none else some e })) s)

/-- The rows of a plane image (R165). -/
def imageRows (n : Nat) (bs : List Byte) : List Nat := splitBits n 64 (leNat bs)

/-- PLANE (R167): A := the plane image. -/
def execUopPlane (ra : BitVec 3) (pi : BitVec 3) (w : BitVec 4) (step : BitVec 32) (s : State) : Out :=
  .next (onRoutine (.uopPlane ra pi w step) (fun r s => do
    let a := engAddr (reg r ra) + planeBytes r * pi.toNat
    let t ← engCheck .mx .read a (planeBytes r) s
    .ok (t, { r with a := imageRows (digitsN r) (spBytes s a (planeBytes r)) })) s)

/-- An activation at place `q` of a buffer (R165): a byte, or a nibble in narrow mode. -/
def activation (narrow u : Bool) (bs : List Byte) (q : Nat) : Int :=
  if narrow then
    let b := ((bs[q / 2]?).getD 0).toNat
    let x := if q % 2 = 1 then b / 16 else b % 16
    if u then x else sextNat 4 x
  else
    let x := ((bs[q]?).getD 0).toNat
    if u then x else sextNat 8 x

/-- The digits of B, in digit order, from the place of each compact digit in a column of `span` positions (R140, R156):
digit n·j + (n−1−t) holds column j's activation at place `pos t`. -/
def bDigits (narrow u : Bool) (n span : Nat) (pos : Nat → Nat) (bs : List Byte) : List Int :=
  (List.range (64 * n)).map (fun k => activation narrow u bs (span * (k / n) + pos (n - 1 - k % n)))

/-- BLOAD (R167): B := dense activations. -/
def execUopBload (ra : BitVec 3) (u : Bool) (step : BitVec 32) (s : State) : Out :=
  .next (onRoutine (.uopBload ra u step) (fun r s => do
    let a := engAddr (reg r ra)
    let n := digitsN r
    let t ← engCheck .mx .read a (actBytes r n) s
    .ok (t, { r with b := bDigits r.ent.narrow u n n (fun i => i) (spBytes s a (actBytes r n)) })) s)

/-- The listed positions of a column, as bytes from its start: the granules that they lie in, ascending, each with its bytes
(R156, R165). -/
def listedBytes (narrow : Bool) (span : Nat) (ps : List Nat) : List (Nat × List Nat) :=
  let bs := (ps.map (fun q => if narrow then q / 2 else q)).eraseDups
  ((List.range (span / 64 + 1)).map (fun g => (64 * g, bs.filter (fun b => b / 64 == g)))).filter (fun g => !g.2.isEmpty)

/-- The bytes of 64 columns of a span at `ab` that listed positions name. -/
def spidxBytes (narrow : Bool) (ab span : Nat) (ps : List Nat) : List (Nat × List Nat) :=
  let col := if narrow then span / 2 else span
  ((List.range 64).map (fun j => (listedBytes narrow span ps).map (fun g =>
    (ab + col * j + g.1, g.2.map (ab + col * j + ·))))).flatten

/-- SPIDX (R156, R167): B := the activations at listed positions; the checks cover the bytes of the list and those that it names. -/
def execUopSpidx (ra rb : BitVec 3) (nc : BitVec 2) (u : Bool) (step : BitVec 32) (s : State) : Out :=
  .next (onRoutine (.uopSpidx ra rb nc u step) (fun r s => do
    let n := digitsN r
    let la := engAddr (reg r ra)
    let ab := engAddr (reg r rb)
    let span := sparseSpan r nc
    let t ← engCheck .mx .read la n s
    let idx := spBytes s la n
    let pos (i : Nat) : Nat := 128 * (i / sparseN nc) + ((idx[i]?).getD 0).toNat % 128
    let t1 ← engCheckListed (spidxBytes r.ent.narrow ab span ((List.range n).map pos)) t
    .ok (t1, { r with b := bDigits r.ent.narrow u n span pos (spBytes s ab (actBytes r span)) })) s)

/-- Digit n − 1 + n·j of the exact product of a row of A and B (R106, R140), for the 64 columns. -/
def productDigits (g n row : Nat) (b : List Int) : List Int :=
  let p := wrapNat (64 * n * g) (packDigits g ((splitBits 1 n row).map (fun (x : Nat) => (x : Int))) * packDigits g b)
  (List.range 64).map (fun j => digit g p (n - 1 + n * j))

/-- The lowest row of A that fails the guard test against B (R142). -/
def guardRow (r : Routine) : Option Nat :=
  let m := r.b.foldl (fun m x => max m x.natAbs) 0
  (List.range 64).find? (fun k => 128 ≤ popNat (digitsN r) ((r.a[k]?).getD 0) * m)

/-- The ACC that ends the pass at hand: the next one in code order (R157, log 25). -/
def nextAcc (p : Pme) (r : Routine) : Option (BitVec 3 × BitVec 3) :=
  (List.range (r.ent.len - r.uaddr)).findSome? (fun i => match uopAt p { r with uaddr := r.uaddr + i } with
    | .uopAcc ra sh => some (ra, sh)
    | _ => none)

/-- GUARD_OVERFLOW sets GOV in the pass's target tile, and binds it if the pass was its first (R157). -/
def markGuard (r : Routine) (s : State) : State :=
  match nextAcc (pme s) r with
  | none => s
  | some (ra, sh) =>
    let t := (fld (reg r ra) 0 5).toNat
    match bindTile s r t sh with
    | none => s
    | some x => updPme (putTile t { x with gov := true }) s

/-- MULW (R142, R167): D := the product digits; in narrow mode the guard test comes first. -/
def execUopMulw (s : State) : Out :=
  .next (match (pme s).run with
    | none => s
    | some r =>
      match (if r.ent.narrow then guardRow r else none) with
      | some k => stopRoutine r (exc 0x14 (word k)) (markGuard r s)
      | none => onRoutine .uopMulw (fun r s => .ok (s, { r with
          d := (r.a.map (fun row => productDigits (widthG r) (digitsN r) row r.b)).flatten })) s)

/-- XTR (R167). -/
def execUopXtr (z n : Bool) (s : State) : Out :=
  .next (onRoutine (.uopXtr z n) (fun r s => .ok (s, { r with
    i := List.zipWith (fun i d => 2 * (if z then 0 else i) + (if n then -d else d)) r.i r.d })) s)

/-- SCALE (R147, R167): row scales, then column scales; it waits for an outstanding MSQL, and faults where there is none. -/
def execUopScale (s : State) : Out :=
  .next (match (pme s).run with
    | none => s
    | some r =>
      match r.half, (pme s).scales with
      | _, [] =>
        if outstanding (pme s) then waitCycle r s else stopRoutine r (imbalance (pme s)) s
      | false, [x] =>
        let r1 : Routine := { r with ea := scaleCodes x, half := true }
        let s1 := updPme popScale s
        if outstanding (pme s1) then waitCycle r1 s1 else stopRoutine r1 (imbalance (pme s1)) s1
      | true, x :: _ =>
        onRoutine .uopScale (fun r s => .ok (updPme popScale s, { r with eb := scaleCodes x, half := false })) s
      | false, x :: y :: _ =>
        onRoutine .uopScale (fun r s =>
          .ok (updPme (fun p => popScale (popScale p)) s, { r with ea := scaleCodes x, eb := scaleCodes y })) s)

/-- The EPASS of the running routine charged in the reference cycle in which an ACC acts, whether or not it faults (R345). -/
def chargePass (s : State) : State :=
  match (pme s).run with
  | none => s
  | some r => updCore (fun c => { c with
      window := if r.ent.epass = 0 then c.window else c.window ++ [(s.now, r.ent.epass.toNat)] }) s

/-- ACC (R149 to R152, R167, R345): the pass integers are added into a tile, and EPASS is charged. DESIGN CHOICE (log 106): a tile is
bound, and bears L0 rent, from the cycle in which its first pass's ACC acts (R167), not from the pass's start. -/
def execUopAcc (ra : BitVec 3) (sh : BitVec 3) (s : State) : Out :=
  .next (onRoutine (.uopAcc ra sh) (fun r s =>
    let t := (fld (reg r ra) 0 5).toNat
    match bindTile s r t sh with
    | none => .error (exc 0x16 (word t))
    | some x => .ok (updPme (putTile t (addPass r sh x)) s, { r with passes := r.passes + 1 })) (chargePass s))

/-- The format tag of a DRAIN format (R168). -/
def drainTag (fmt : BitVec 2) : Nat := if fmt = 0 then 1 else if fmt = 1 then 2 else if fmt = 2 then 4 else 5

/-- The bits of a drained element (R154). -/
def drainElem (fmt : BitVec 2) (sat : Bool) (x : Option Tile) (mode : Mode) (k : Nat) : Nat :=
  match x with
  | none => 0
  | some x => (floatOf (drainTag fmt)).round mode sat (readAcc (Map.get x.elems k 0).toNat x.eacc.toInt)

/-- DRAIN (R154, R168): the tile's elements converted and written; SR takes one generator step an element (R100). -/
def execUopDrain (ra rb : BitVec 3) (fmt : BitVec 2) (sr sat : Bool) (step : BitVec 32) (s : State) : Out :=
  .next (onRoutine (.uopDrain ra rb fmt sr sat step) (fun r s => do
    let a := engAddr (reg r rb)
    let n := drainSize fmt
    let t ← engCheck .mx .write a (4096 * n) s
    let x := tileAt (pme s) (fld (reg r ra) 0 5).toNat
    let (draws, g) := if sr then genRun 4096 (genAt (core s) 2) else ([], genAt (core s) 2)
    let mode (k : Nat) : Mode := if sr then .sr ((draws[k]?).getD 0) else .rne
    let bs := ((List.range 4096).map (fun k => leBytes n (drainElem fmt sat x (mode k) k))).flatten
    let t1 := spaceWrite s.cur (.sp s.cur) a bs t
    .ok (if sr then updCore (fun c => { c with gens := Map.put c.gens 2 g }) t1 else t1, r)) s)

/-- WAITQ (R168). -/
def execUopWaitq (n : BitVec 7) (s : State) : Out :=
  .next (match (pme s).run with
    | none => s
    | some r =>
      if n.toNat ≤ (pme s).scales.length then onRoutine (.uopWaitq n) (fun r s => .ok (s, r)) s
      else if outstanding (pme s) then waitCycle r s
      else stopRoutine r (imbalance (pme s)) s)

/-- STAT (R168): the status word of a tile is written; with C, its flags SAT, GOV and UFL are then cleared. -/
def execUopStat (ra rb : BitVec 3) (c : Bool) (s : State) : Out :=
  .next (onRoutine (.uopStat ra rb c) (fun r s => do
    let a := engAddr (reg r rb)
    let t := (fld (reg r ra) 0 5).toNat
    let s1 ← engCheck .mx .write a 8 s
    let s2 := spaceWrite s.cur (.sp s.cur) a (leBytes 8 (tileWord (tileAt (pme s) t)).toNat) s1
    let clear (p : Pme) : Pme := match tileAt p t with
      | some x => putTile t { x with sat := false, gov := false, ufl := false } p
      | none => p
    .ok (if c then updPme clear s2 else s2, r)) s)

end Sys2Proof.Machine
end

