-- ==== Sys2Proof/Machine/MatrixSlot.lean ====
section
/-! DEFINITION. The matrix slot (R170 to R178) and the steps of its engine's work stream: starts, uploads, scale reads,
releases and settle points (R160, R161). -/

namespace Sys2Proof.Machine

open Sys2Proof

/-! ### Parameters (R171) -/

/-- MPARM (R171). -/
def execMparm (p : Pred) (d : Reg) (o : Opnd) (s : State) : Out :=
  .next (issue .m p [] (fun s => do
    let y ← rdO (core s) .m o
    .ok (updCore (resX .m d y 1) s)) s)

/-- MADD (R171). -/
def execMadd (p : Pred) (d a : Reg) (o : Opnd) (s : State) : Out :=
  .next (issue .m p [] (fun s => do
    let x ← rdX (core s) .m a
    let y ← rdO (core s) .m o
    .ok (updCore (resX .m d (x + y) 1) s)) s)

/-! ### Calls (R160, R172, R173) -/

/-- The wait of MCALL and MUPL (R28, R172): cause 6 while the call queue is full. -/
def callWait (p : Pred) (s : State) : Option Nat :=
  if predOn (core s) .m p && 2 ≤ (pme s).calls.length then some 6 else none

/-- The parameter registers m0 to m7 as they stand at issue. -/
def params (c : Core) : List Word := (List.range 8).map (fun i => getX c .m (BitVec.ofNat 5 i))

/-- A call-queue entry taken (R28). -/
def addCall (k : CallKind) (s : State) : State :=
  updPme (fun p => { p with seq := p.seq + 1, calls := p.calls ++ [⟨k, params (core s), p.seq + 1, s.now⟩] }) (refreshTakes s)

/-- An instruction of the M slot that may wait: the wait, then the body. -/
def issueM (w : Option Nat) (p : Pred) (body : State → Except Exc State) (s : State) : State :=
  match w with
  | some cause => freeze cause s
  | none => issue .m p [] body s

/-- MCALL (R172). -/
def execMcall (p : Pred) (o : Opnd) (s : State) : Out :=
  .next (issueM (callWait p s) p (fun s => do
    let i ← rdO (core s) .m o
    if 255 < i.toNat then .error (illegalOp s) else .ok (addCall (.call i.toNat) s)) s)

/-- MUPL (R173). -/
def execMupl (p : Pred) (a : Reg) (o : Opnd) (s : State) : Out :=
  .next (issueM (callWait p s) p (fun s => do
    let x ← rdX (core s) .m a
    let i ← rdO (core s) .m o
    if 255 < i.toNat then .error (illegalOp s)
    else do
      let ad := x.toNat
      let t ← checkLocal .mx .read ad 16 16 s
      checkPoison (core s) ad 16
      let h0 := word (Memory.readLE (viewMem (core s)) ad 8)
      let h1 := word (Memory.readLE (viewMem (core s)) (ad + 8) 8)
      let e := entOf h0 h1
      if e.len = 0 ∨ 1536 < e.len ∨ 1536 < e.start + e.len then .error (illegalOp s)
      else do
        let t1 ← checkLocal .mx .read ad (muplBytes h0) 16 t
        .ok (addCall (.mupl i.toNat ad h0 h1) t1)) s)

/-! ### MWAIT (R178) -/

/-- The wait of MWAIT (R178): cause 9 until every call has ended and every MSQL has read its entries. -/
def mwaitWait (p : Pred) (s : State) : Option Nat :=
  let e := pme s
  if predOn (core s) .m p && !(e.calls.isEmpty && e.msqls.all (fun m => m.count ≤ m.read)) then some 9 else none

/-- MWAIT (R178). -/
def execMwait (p : Pred) (s : State) : Out := .next (issueM (mwaitWait p s) p (fun s => .ok s) s)

/-! ### Scales (R174, R175) -/

/-- The entries staged. -/
def stagedCount (p : Pme) : Nat := p.msqls.foldl (fun n m => n + m.stg.length) 0

/-- The entries that outstanding MSQLs have yet to read. -/
def unreadCount (p : Pme) : Nat := p.msqls.foldl (fun n m => n + (m.count - m.read)) 0

/-- The free staging space (R174). -/
def stagingFree (p : Pme) : Nat := 64 - stagedCount p - unreadCount p

/-- The checks of MSQL on its operands (R171, R174). -/
def msqlChecks (a : Reg) (o : Opnd) (s : State) : Except Exc State := do
  let x ← rdX (core s) .m a
  let c ← rdO (core s) .m o
  if c.toNat = 0 ∨ 64 < c.toNat then .error (illegalOp s)
  else checkLocal .mx .read x.toNat (64 * c.toNat) 64 s

/-- Whether MSQL passes its checks and finds no staging space (R174). -/
def msqlFull (p : Pred) (a : Reg) (o : Opnd) (s : State) : Bool :=
  predOn (core s) .m p && (msqlChecks a o s).toBool && stagingFree (pme s) < (rawO (core s) .m o).toNat

/-- The wait of MSQL (R174): cause 6 until staging space frees, while a call may pop the queue. -/
def msqlWait (p : Pred) (a : Reg) (o : Opnd) (s : State) : Option Nat :=
  if msqlFull p a o s && !(pme s).calls.isEmpty then some 6 else none

/-- MSQL (R174). -/
def execMsql (p : Pred) (a : Reg) (o : Opnd) (s : State) : Out :=
  .next (issueM (msqlWait p a o s) p (fun s => do
    let t ← msqlChecks a o s
    let n := (rawO (core s) .m o).toNat
    if stagingFree (pme s) < n then .error (imbalance (pme s))
    else .ok (updPme (fun e => { e with msqls := e.msqls ++ [{ addr := (getX (core s) .m a).toNat, count := n, read := 0, stg := [], issued := s.now }] }) (refreshTakes t))) s)

/-! ### Status (R161, R175, R177) -/

/-- The last call queued or running, if one is (R160, R161). -/
def lastCall (p : Pme) : Option Nat := (p.calls.getLast?).map (fun k => k.seq)

/-- The engine cycle that begins after the issue cycle (R160, R161). -/
def nextCycle (s : State) : Nat := alignUp (s.now + 1) (mDiv s)

/-- A status value on its way (R161). -/
def addSample (k : SampleKind) (r : Nat) (s : State) : State :=
  updPme (fun p => { p with samples := p.samples ++ [⟨k, r, lastCall p, nextCycle s, none, (core s).csr.cyc⟩] }) s

/-- MSQR (R175). -/
def execMsqr (p : Pred) (d : Reg) (clr : Bool) (s : State) : Out :=
  .next (issue .m p [] (fun s => .ok (addSample (.msqr clr) d.toNat s)) s)

/-- MSTAT (R177). -/
def execMstat (p : Pred) (d a : Reg) (s : State) : Out :=
  .next (issue .m p [] (fun s => do
    let x ← rdX (core s) .m a
    .ok (addSample (.mstat (fld x 0 5).toNat) d.toNat s)) s)

/-- MTST (R177); predicate 0 takes no result. -/
def execMtst (p : Pred) (d a : Reg) (e : BitVec 3) (s : State) : Out :=
  .next (issue .m p [] (fun s => do
    let x ← rdX (core s) .m a
    .ok (addSample (.mtst (fld x 0 5).toNat e.toNat) d.toNat s)) s)

/-- ACREL (R176). -/
def execAcrel (p : Pred) (o : Opnd) (s : State) : Out :=
  .next (issue .m p [] (fun s => do
    let t ← rdO (core s) .m o
    if 32 < t.toNat then .error (illegalOp s)
    else .ok (updPme (fun e => { e with
      acrels := e.acrels ++ [⟨t.toNat, (lastCall e).getD 0, nextCycle s, (core s).csr.cyc⟩] }) s)) s)

/-! ### Starts (R160, R172) -/

/-- The reference cycle from which the call at the head may start (R160). -/
def startAt (s : State) (k : Call) : Nat := alignUp (max (k.issued + 1) (pme s).lastEnd) (mDiv s)

/-- Whether some scratchpad bank of a core sleeps. -/
def someAsleep (c : Core) : Bool := c.sp.banks.any (fun b => b.2.st != .full)

/-- The ranges that a call will touch, looked at only while some bank sleeps (R63). -/
def callRanges (s : State) (k : Call) : List (Nat × Nat) :=
  if !someAsleep (core s) then [] else (callAccs (pme s) k).map (fun a => (a.1, a.2.1))

/-- The operand banks of a call that are not FULL start their wakes (R63). -/
def wakeRanges (rs : List (Nat × Nat)) (s : State) : State :=
  rs.foldl (fun s r => if r.1 + r.2 ≤ spSize then updCore (wakeBanks s.now r.1 r.2) s else s) s

/-- The head call starts (R160, R172, R173): operand banks wake first; a routine that is not valid faults; an upload runs
at 64 bytes an engine cycle. -/
def startCall (k : Call) (s : State) : State :=
  let rs := (callRanges s k).filter (fun r => r.1 + r.2 ≤ spSize)
  if rs.any (fun r => !banksFull (core s) r.1 r.2) then wakeRanges rs s
  else match k.kind with
    | .mupl _ _ h0 _ => updPme (fun p => { p with mupl := some (s.now + (muplBytes h0 + 63) / 64 * mDiv s) }) s
    | .call idx =>
      match Map.find? (pme s).dir idx with
      | some e =>
        if e.valid then updPme (fun p => { p with run := some (freshRoutine idx e k), busy := s.now }) s
        else stopCall (exc 0x02 0) (pmeWord3 idx 0 0 1) s
      | none => stopCall (exc 0x02 0) (pmeWord3 idx 0 0 1) s

/-- Whether a core's engine starts calls: it does not while the core loads, saves or is idle (R264, R269). -/
def callsRun (c : Core) : Bool :=
  match c.st with
  | .running => true | .frozen => true | .trapped => true
  | .loading => false | .saving => false | .idle => false | .disabled => false

/-- Whether the engine can start a call now (R157, R160): at the start of one of its cycles, whatever put the call off (R348). -/
def canStart (s : State) : Bool :=
  let p := pme s
  match p.calls with
  | [] => false
  | k :: _ => callsRun (core s) && p.run.isNone && p.mupl.isNone && !p.held && !p.parked && decide (startAt s k ≤ s.now)
      && s.now % mDiv s == 0

/-- ROUTINE_START (R172): the call at the head starts if it can. -/
def execRoutineStart (s : State) : Out :=
  .next (match (pme s).calls with
    | [] => s
    | k :: _ => if canStart s then startCall k s else s)

/-- The end of an upload (R173): its words' region is checked again, and the image is checked and stored, or refused. -/
def finishMupl (idx a : Nat) (h0 h1 : Word) (s : State) : State :=
  let ws := imageWords (core s).sp.mem a (entOf h0 h1).len
  match engCheck .mx .read (muplCode a h0).1 (muplCode a h0).2 s with
  | .error e => stopCall e (pmeWord3 idx 0 0 0) s
  | .ok t =>
    match verifyImage h0 h1 ws with
    | some (ec, info, ua) => stopCall (exc 0x02 info) (pmeWord3 idx ua 0 ec) t
    | none => updPme (fun p => endCall s.now (storeRoutine idx h0 h1 ws p)) t

/-- MUPL_RUN (R173): the running upload completes when its time has come. -/
def execMuplRun (s : State) : Out :=
  .next (match (pme s).mupl, (pme s).calls with
    | some t, k :: _ =>
      if s.now < t then s
      else match k.kind with
        | .mupl idx a h0 h1 => finishMupl idx a h0 h1 s
        | .call _ => s
    | _, _ => s)

/-! ### Scale reads (R174) -/

/-- The reference cycle in which an MSQL reads its next entry (R174): one an engine cycle, after the wakes that its reads have waited
for. -/
def readAt (s : State) (m : Msql) : Nat := alignUp (m.issued + 1) (mDiv s) + m.read * mDiv s + m.delay

/-- Whether an MSQL is to read an entry now. -/
def readDue (s : State) (m : Msql) : Bool := m.read < m.count && readAt s m ≤ s.now

/-- MSQLs whose entries have all entered the queue are no longer outstanding (R146). -/
def pruneMsqls (ms : List Msql) : List Msql := ms.filter (fun m => m.read < m.count || !m.stg.isEmpty)

/-- An MSQL's read stops on a fault (R174): the entries read before stay. -/
def stopRead (i : Nat) (m : Msql) (e : Exc) (s : State) : State :=
  updPme (fun p => pendSide e { p with msqls := pruneMsqls (p.msqls.set i { m with count := m.read }) }) s

/-- An MSQL's read waits for the wake of its bank, which it starts (R63): it comes again in the next engine cycle, and the reads
behind it stay one an engine cycle (log 107). -/
def waitRead (i : Nat) (m : Msql) (a : Nat) (s : State) : State :=
  updPme (fun p => { p with msqls := p.msqls.set i { m with delay := m.delay + (s.now - readAt s m) + mDiv s } })
    (updCore (wakeBanks s.now a 64) s)

/-- An MSQL reads one entry, waits for its bank, or stops on poison or a lapsed region (R63, R174). -/
def readEntry (i : Nat) (m : Msql) (s : State) : State :=
  let a := m.addr + 64 * m.read
  match checkRegion s.regions (core s).ctx (.sp s.cur) .read a 64 with
  | .error e => stopRead i m e s
  | .ok _ =>
    if !banksFull (core s) a 64 then waitRead i m a s
    else match spacePoison s (.sp s.cur) a 64 with
      | some g => stopRead i m (exc 0x11 (word (2 ^ 63 + 64 * g))) s
      | none =>
        let x := BitVec.ofNat 512 (leNat (spBytes s a 64))
        updPme (fun p => { p with msqls := p.msqls.set i { m with read := m.read + 1, stg := m.stg ++ [(x, s.now + mDiv s)] } }) s

/-- MSQL_ENTRY_READ (R174): the first MSQL that is to read an entry now reads it. -/
def execMsqlEntryRead (s : State) : Out :=
  .next (match List.find? (fun x : Nat × Msql => readDue s x.2) ((List.range (pme s).msqls.length).zip (pme s).msqls) with
    | none => s
    | some (i, m) => readEntry i m s)

/-- Whether the oldest MSQL's next staged entry may enter the queue now (R174). -/
def enqueueDue (s : State) : Bool :=
  match (pme s).msqls with
  | m :: _ => match m.stg with
    | (_, t) :: _ => t ≤ s.now && (pme s).scales.length < 64
    | [] => false
  | [] => false

/-- SCALE_ENTRY_ENQUEUE (R174): a staged entry enters the queue. -/
def execScaleEntryEnqueue (s : State) : Out :=
  .next (if !enqueueDue s then s
    else updPme (fun p => match p.msqls with
      | m :: ms => match m.stg with
        | (x, _) :: rest => { p with scales := p.scales ++ [x], msqls := pruneMsqls ({ m with stg := rest } :: ms) }
        | [] => p
      | [] => p) s)

/-! ### Settle points (R160, R161) -/

/-- Whether a release has reached its place in call order (R160). -/
def acrelDue (s : State) (a : Acrel) : Bool := if a.covers = 0 then a.dueAt ≤ s.now else a.covers ≤ (pme s).ended

/-- ACREL_EFFECT (R176): the first release that has reached its place takes effect. -/
def execAcrelEffect (s : State) : Out :=
  .next (match (pme s).acrels.find? (acrelDue s) with
    | none => s
    | some a => updPme (fun p => { releaseTiles a.tile p with acrels := p.acrels.erase a }) s)

/-- Whether a sample has reached its settle point (R161). -/
def sampleDue (s : State) (x : Sample) : Bool :=
  x.value.isNone && (match x.covers with | some q => q ≤ (pme s).ended | none => x.settle ≤ s.now)

/-- The word of MSQR (R175). -/
def msqrWord (p : Pme) : Word := word (p.scales.length + stagedCount p * 2 ^ 8 + p.msqls.length * 2 ^ 16)

/-- What a sample reads. -/
def sampleValue (p : Pme) : SampleKind → Word
  | .mstat t => tileWord (tileAt p t)
  | .mtst t b => boolWord (bit (tileWord (tileAt p t)) b)
  | .msqr _ => msqrWord p

/-- MSQR.CLR discards queued and staged entries and ends every outstanding MSQL (R175). -/
def clearScales (k : SampleKind) (p : Pme) : Pme :=
  match k with
  | .msqr true => { p with scales := [], msqls := [] }
  | _ => p

/-- STATUS_SAMPLE (R161): the first sample at its settle point is taken; it is readable 8 engine cycles later. -/
def execStatusSample (s : State) : Out :=
  .next (match List.find? (fun x : Nat × Sample => sampleDue s x.2) ((List.range (pme s).samples.length).zip (pme s).samples) with
    | none => s
    | some (i, x) => updPme (fun p => clearScales x.kind { p with
        samples := p.samples.set i { x with value := some (sampleValue p x.kind, s.now + 8 * mDiv s) } }) s)

/-- The landing of a sampled value (R161). -/
def sampleLanding (x : Sample) (v : Word) (due : Nat) : Landing :=
  let pr := match x.kind with | .mtst _ _ => true | _ => false
  { emptyLanding with due := due, born := x.born, src := .m, file := .m, isPred := pr, reg := x.reg
                      bits := v.setWidth 2048, mask := if pr then 1 else mask64 }

/-- Whether a sample writes a register: predicate 0 takes no write (R55). -/
def sampleWrites (x : Sample) : Bool :=
  match x.kind with
  | .mtst _ _ => x.reg != 0
  | _ => true

/-- The landings of those sampled values of which `pick` holds, due as `due` gives, with the samples that stay (R161,
R264). -/
def convertSamples (pick : Nat → Bool) (due : Nat → Nat) (c : Core) : Core :=
  let now (x : Sample) : Bool := match x.value with | some (_, t) => pick t | none => false
  let landing (x : Sample) : Landing := match x.value with
    | some (w, t) => sampleLanding x w (due t)
    | none => sampleLanding x 0 0
  { c with
    pend := c.pend ++ ((c.pme.samples.filter now).filter sampleWrites).map landing
    pme := { c.pme with samples := c.pme.samples.filter (fun x => !now x) } }

/-- Samples that have become readable join the landings of the present issue cycle (R161). -/
def landSamples (now : Nat) (c : Core) : Core := convertSamples (fun t => t ≤ now) (fun _ => c.csr.cyc) c

end Sys2Proof.Machine
end

