-- ==== Sys2Proof/Machine/Image.lean ====
section
/-! DEFINITION. The bytes of a save image (R265 to R268): its fields, each at its offset with its width in bytes and its
little-endian value. The control block, the snapshot entries, the vector files and their tags, and the landing buffer lie as R266
to R268 give them; the order within the other blocks is the model's (log 90). Bytes that no field covers are reserved and zero. -/

namespace Sys2Proof.Machine

open Sys2Proof

/-- A field of an image: its offset, its bytes, and its value. -/
abbrev Field := Nat × Nat × Nat

/-- Words of 8 bytes from an offset upward. -/
def wordFields (off : Nat) (ws : List Word) : List Field :=
  (List.range ws.length).zipWith (fun i w => (off + 8 * i, 8, w.toNat)) ws

/-! ### The control block (R267) -/

/-- SEQ: the PC, the delay position, and whether the core was TRAPPED or yielded. -/
def seqWord (i : Image) : Word :=
  let dp := match i.saved.br with | some b => b.dpos | none => 0
  word (i.saved.pc.toNat + dp * 2 ^ 18 + boolNat i.trapped * 2 ^ 20 + boolNat i.yielded * 2 ^ 21)

/-- A loop entry: start and end, then the remaining count. -/
def loopWords (e : LoopEnt) : List Word := [word (e.start.toNat + e.fin.toNat * 2 ^ 32), e.rem.setWidth 64]

/-- The status values that had not been sampled (R269). -/
def unsampled (c : Core) : List Sample := c.pme.samples.filter (fun x => x.value.isNone)

/-- The control block at offset 0. -/
def controlBlock (s : State) (i : Image) : List Field :=
  let c := i.saved
  let csr (n : Nat) : Word := coreCsr s i.core c n
  wordFields 0 [seqWord i, (match c.br with | some b => b.tgt.setWidth 64 | none => 0), csr 0x000, csr 0x011, csr 0x012, csr 0x003,
                csr 0x041 &&& 0x3F, csr 0x030, word c.loops.length]
    ++ wordFields 0x48 ((c.loops.reverse.map loopWords).flatten)
    ++ wordFields 0x88
      [(Map.get c.gens 1 0 : BitVec 32) ++ (Map.get c.gens 0 0 : BitVec 32), (Map.get c.gens 2 0 : BitVec 32).setWidth 64,
       csr 0x001, word (i.snap.length + (unsampled c).length), c.gather.gdone ++ c.gather.giss, c.mack ++ c.mseq, csr 0x004,
       i.node ++ BitVec.ofNat 32 (i.core % 256 * 2 ^ 12 + i.ctx.toNat)]

/-! ### Registers (R265, R266) -/

/-- Whether a register of a banked file lies in a bank that is OFF, and so is skipped. -/
def bankOff (c : Core) (sl : Slot) (r : Nat) : Bool := bankCount sl != 0 && (getBank c sl (bankOf sl r)).st == .off

/-- A data register as the image holds it. -/
def savedX (c : Core) (sl : Slot) (r : Nat) : Word := if bankOff c sl r then 0 else getX c sl (BitVec.ofNat 5 r)

/-- The scalar files, the predicate files, and the liveness and poison bits, at offset 0x200. -/
def regBlock (c : Core) : List Field :=
  let data (sl : Slot) (n : Nat) : List Word := (List.range n).map (savedX c sl)
  let preds (sl : Slot) (n : Nat) : List Word := (List.range n).map (getP c sl)
  let bits (m : Map (BitVec 32)) : List Word := [0, 1, 2].map (fun k => (Map.get m k 0).setWidth 64)
  wordFields 0x200 (data .s 32 ++ data .m 8 ++ data .c0 16 ++ data .c1 16 ++ preds .s 8 ++ preds .v0 8 ++ preds .v1 8
    ++ preds .m 4 ++ preds .c0 4 ++ preds .c1 4 ++ bits c.files.live ++ bits c.files.poison)

/-- The vector registers of a file from an offset, with their tag bytes at another. -/
def vectorBlock (c : Core) (sl : Slot) (off tags : Nat) : List Field :=
  ((List.range 32).map (fun r =>
    if bankOff c sl r then []
    else
      let v := getV c sl (BitVec.ofNat 5 r)
      [(off + 256 * r, 256, v.bits.toNat), (tags + r, 1, v.tag.toNat + v.dw.toNat * 2 ^ 6)])).flatten

/-! ### The engines (R264, R266) -/

/-- The words of a pending fault: its code with its slot, INFO and word 3. -/
def faultWords (e : Option Exc) : List Word :=
  match e with
  | none => [0, 0, 0]
  | some x => [word (x.code + x.fslot * 2 ^ 8 + boolNat x.defer * 2 ^ 16), x.info, x.w3]

/-- The words of a recorded call: its kind and index, an upload's address and header, and the parameter copies. -/
def callWords (k : Call) : List Word :=
  (match k.kind with
    | .call n => [word (1 + n * 2 ^ 8), 0, 0, 0]
    | .mupl n a h0 h1 => [word (2 + n * 2 ^ 8), word a, h0, h1]) ++ k.regs

/-- The trap record, the pending engine faults, the recorded calls and releases, and the counts of the scale queue, at offset
0x600. -/
def matrixBlock (c : Core) (i : Image) : List Field :=
  let rec0 : List Word := match c.trap with
    | none => [0, 0, 0, 0]
    | some t =>
      let r := recordOf i.core c t.exc t.sres t.async
      [r.w0, r.w1, r.w2, r.w3]
  let staged := (c.pme.msqls.map (fun m => m.stg.map (·.1))).flatten
  wordFields 0x600 (rec0 ++ faultWords c.pme.fault ++ [word (c.pme.scales.length + staged.length * 2 ^ 8)]
      ++ (c.pme.calls.map callWords).flatten ++ (c.pme.acrels.take 16).map (fun a => word (1 + a.tile * 2 ^ 8))
      ++ ((c.pme.side.take 5).map (fun e => faultWords (some e))).flatten)
    ++ (List.range c.pme.scales.length).zipWith (fun k x => (0x800 + 64 * k, 64, x.toNat)) c.pme.scales
    ++ (List.range staged.length).zipWith (fun k x => (0x1800 + 64 * k, 64, x.toNat)) staged

/-- A nest level in 10 bytes: the count and the two strides. -/
def levelField (off : Nat) (l : Level) : Field := (off, 10, l.cnt.toNat + l.ds.toNat * 2 ^ 16 + l.ss.toNat * 2 ^ 48)

/-- The words of a queued entry: its direction, guard, monotone sides, size and handles; its bases; and its progress. -/
def entryWords (e : Entry) : List Word :=
  [word (e.dir.code + boolNat e.guarded * 4 + boolNat e.monoD * 8 + boolNat e.monoS * 16 + boolNat e.empty * 32
      + e.size % 2 ^ 16 * 2 ^ 8 + e.src.hnd % 2 ^ 16 * 2 ^ 24 + e.dst.hnd % 2 ^ 16 * 2 ^ 40),
   BitVec.ofInt 64 e.src.base, BitVec.ofInt 64 e.dst.base, word (e.fillDone % 2 ^ 32 + e.srcDone % 2 ^ 32 * 2 ^ 32)]

/-- A channel in 256 bytes: the EQRY items, watermarks and counters, the staging levels, and its entries; then their levels, as far as
the 256 bytes that R266 gives go (log 90). -/
def channelBlock (c : Core) (k : Nat) : List Field :=
  let ch := getChan c k
  let off := 0x2800 + 256 * k
  let es := ch.q.take 4
  let free := off + 112 + 32 * es.length
  let ls := ((es.map (fun e => e.levels)).flatten).take ((off + 256 - free) / 10)
  wordFields off [eqryState c ch, eqryItem ch 1, eqryItem ch 2, ch.wmf, ch.wms, ch.ccs ++ ch.ccf]
    ++ (List.range 6).map (fun n => levelField (off + 48 + 10 * n) (Map.get ch.levels n {}))
    ++ wordFields (off + 112) (es.map entryWords).flatten
    ++ (List.range ls.length).zipWith (fun n l => levelField (free + 10 * n) l) ls

/-- The landing buffer at offset 0x3000: the blocks, then their keys. -/
def landBlockFields (c : Core) : List Field :=
  ((List.range c.land.length).zipWith (fun k (e : LandEnt) =>
    [(0x3000 + 256 * k, 256, leNat (e.data.getD [])),
     (0x3800 + 32 * k, 32, 1 + boolNat e.data.isSome * 2 + e.bus.toNat * 2 ^ 8 + e.label.toNat * 2 ^ 16)]) c.land).flatten

/-! ### Snapshot entries (R268) -/

/-- The 64-bit group in which a value's lowest bit lands. -/
def groupPart (m : VWord) : Nat := ((List.range 32).find? (fun k => fld m (64 * k) 64 != 0#64)).getD 0

/-- The bit of each 32-bit lane of a mask that is written. -/
def lanesOf (m : VWord) : Nat := (List.range 64).foldl (fun n k => n + (if fld m (32 * k) 32 = 0#32 then 0 else 2 ^ k)) 0

/-- An entry of a result in flight: an own result or an arrival, whole or one word, and under a mask where only some lanes are
written. -/
def resultEntry (l : Landing) : Word × Nat × Nat :=
  let vec := isV l.file && !l.isPred
  let whole := vec && (!l.arrival || l.mask == BitVec.allOnes 2048)
  let part := if vec && !whole then groupPart l.mask else 0
  let lanes := if l.isPred then l.mask.toNat % 2 ^ 64 else lanesOf l.mask
  let masked := if l.isPred then isV l.file && l.mask != mask64 else whole && l.mask != BitVec.allOnes 2048
  let bits := l.bits &&& l.mask
  (word (l.due + boolNat l.arrival * 2 ^ 6 + l.file.num * 2 ^ 8 + boolNat l.isPred * 2 ^ 11 + l.reg * 2 ^ 12 + part * 2 ^ 17
      + boolNat whole * 2 ^ 22 + l.tag.toNat * 2 ^ 23 + l.dw.toNat * 2 ^ 29 + boolNat masked * 2 ^ 31 + l.src.num * 2 ^ 32
      + l.born % 2 ^ 6 * 2 ^ 35),
   if masked then lanes else 0, if whole then bits.toNat else (bits >>> (64 * part)).toNat % 2 ^ 64)

/-- An entry of a status value that restored calls cover (KIND 2): its payload is the tile number. -/
def sampleEntry (cyc : Nat) (x : Sample) : Word × Nat × Nat :=
  let (part, tile, pr) := match x.kind with
    | .mstat t => (0, t, false)
    | .mtst t _ => (1, t, true)
    | .msqr _ => (2, 0, false)
  (word (2 * 2 ^ 6 + Slot.num .m * 2 ^ 8 + boolNat pr * 2 ^ 11 + x.reg * 2 ^ 12 + part * 2 ^ 17 + Slot.num .m * 2 ^ 32
    + (cyc - x.born) % 2 ^ 6 * 2 ^ 35), 0, tile)

/-- The snapshot entries at offset 0x8000, each in a slot of 288 bytes: header, mask word, payload. -/
def snapBlock (i : Image) : List Field :=
  let es := i.snap.map resultEntry ++ (unsampled i.saved).map (sampleEntry i.saved.csr.cyc)
  ((List.range es.length).zipWith (fun k (e : Word × Nat × Nat) =>
    [(0x8000 + 288 * k, 8, e.1.toNat), (0x8008 + 288 * k, 8, e.2.1), (0x8010 + 288 * k, 256, e.2.2)]) es).flatten

/-! ### The image -/

/-- The fields of a save image (R266). -/
def imageFields (s : State) (i : Image) : List Field :=
  let c := i.saved
  controlBlock s i ++ regBlock c ++ matrixBlock c i ++ ((List.range 8).map (channelBlock c)).flatten ++ landBlockFields c
    ++ vectorBlock c .v0 0x4000 0x3F00 ++ vectorBlock c .v1 0x6000 0x3F20 ++ snapBlock i

/-- A save image written in HBM at its base (R264 step 6, R266). -/
def writeImage (i : Image) (s : State) : State :=
  let m := Memory.zero s.dram.hbm i.base imageBytes
  { s with dram := { s.dram with hbm := (imageFields s i).foldl (fun m f => Memory.writeLE m (i.base + f.1) f.2.1 f.2.2) m } }

end Sys2Proof.Machine
end

