-- ==== Sys2Proof/Machine/Context.lean ====
section
/-! DEFINITION. The context (R261 to R272): its states, CTXSW and CTXCTL, saving a core into an image and restoring it, and
the end of a context (R263). -/

namespace Sys2Proof.Machine

open Sys2Proof

/-! ### Cores that a context leaves -/

/-- What stays on a core that goes IDLE after its context has left it: the scratchpad, the instruction store with its
residency entries, the grant, and the energy window. DESIGN CHOICE (log 111): a trap record in its latch is dropped. -/
def vacated (c : Core) : Core :=
  { st := .idle, istore := c.istore, sp := c.sp, resid := c.resid, window := c.window
    csr := { grant := c.csr.grant } }

/-- The save images of a context, and those being written (R266, R271). -/
def ctxImages (s : State) (id : BitVec 12) : Nat :=
  (s.images.filter (fun i => i.ctx == id)).length
    + (s.cores.filter (fun x => x.1 < 256 && x.2.st == .saving && x.2.ctx == id)).length

/-- The state of a context after its cores or images have changed (R262). -/
def ctxSettle (id : BitVec 12) (s : State) : State :=
  let x := ctxAt s id
  let held := !(holders s id).isEmpty
  match x.st with
  | .live => if held then setCtx s id { x with st := .active } else s
  | .parked => if held then setCtx s id { x with st := .active } else s
  | .active => if held then s
    else setCtx s id { x with st := if s.images.any (fun i => i.ctx == id) then .parked else .live }
  | .free => s
  | .ending => s

/-! ### The end of a context (R262, R263) -/

/-- Whether a core reads an image back (R269). -/
def readBack (s : State) (i : Image) : Bool :=
  let c := coreAt s i.core
  c.st == .loading && c.restore && c.ctx == i.ctx && c.node == i.node

/-- CTXCTL.END, orderly (R262): no further placement, and save images are discarded, but for one that a core is reading back: its
kernel runs on to its END. -/
def endOrderly (id : BitVec 12) (s : State) : State :=
  let s1 := setCtx s id { ctxAt s id with st := .ending }
  settle (dropImages (fun i => i.ctx == id && !readBack s i) s1)

/-- CTXCTL.END (R262). -/
def endCtx (id : BitVec 12) (kill : Bool) (s : State) : State := if kill then settle (killCtx id s) else endOrderly id s

/-- Step 1 of R263 for one core: its channel entries are dropped as by ECAN. -/
def dropEntries (s : State) (g : Nat) : State :=
  let back := s.cur
  let s1 := (List.range 8).foldl (fun s k => cancelChan k s) { s with cur := g }
  { s1 with cur := back }

/-- The cores, IDLE by now, that the ended context has left. -/
def leftCores (s : State) (id : BitVec 12) : List Nat :=
  (s.cores.filter (fun x => x.1 < 256 && !holding x.2 && x.2.ctx == id)).map (·.1)

/-- Step 2 of R263: the sublets of the context's regions, and its own tenancies. -/
def endSublets (id : BitVec 12) (s : State) : State :=
  ((s.regions.filter (fun x => x.2.st != .free && (match x.2.subl with
      | some b => b.tenant == id || x.2.owner == id
      | none => false))).map (·.1)).foldl (fun s k => freeSublet k s) s

/-- Step 4 of R263: every region of the context goes to SCRUBBED with the refund of VACATE. -/
def endRegions (id : BitVec 12) (s : State) : State :=
  ((s.regions.filter (fun x => x.2.st != .free && x.2.st != .scrubbed && x.2.subl.isNone && x.2.owner == id)).map (·.1)).foldl
    (fun s k => scrub k (vacateRefund s (Map.get s.regions k {})) s) s

/-- The nodes of the context become FREE (R275). -/
def endNodes (id : BitVec 12) (s : State) : State :=
  { s with nodes := s.nodes.map (fun x => if x.2.st != .free && x.2.owner == id then (x.1, freeNode x.2) else x) }

/-- The groups of the context go FREE (R291). -/
def endGroups (id : BitVec 12) (s : State) : State :=
  ((s.groups.filter (fun x => x.2.owner == id)).map (·.1)).foldl (fun s g => freeGroup (BitVec.ofNat 16 g) s) s

/-- The oldest mirrored granule of a core leaves, with its address, for the mirror peer of the context whose page it lies in, while
that peer takes granules (R342, R343). -/
def sendGranule (g : Nat) (s : State) : State :=
  let c := coreAt s g
  match c.mirrorQ with
  | [] => s
  | (id, a, bs) :: rest =>
    match (ctxAt s id).mirror with
    | none => setCoreAt s g { c with mirrorQ := rest }
    | some p =>
      if mirrorUp s (ctxAt s id) then
        toPeer p.toNat (mirrorMsg id a bs) (setCoreAt s g { c with mirrorQ := rest, unacked := c.unacked ++ [id] })
      else if mirrorLive s (ctxAt s id) then s
      else setCoreAt s g { c with mirrorQ := rest }

/-- What a core still has to mirror leaves before its context does (R342, log 33). -/
def flushMirror (s : State) (g : Nat) : State := (coreAt s g).mirrorQ.foldl (fun s _ => sendGranule g s) s

/-- The final account (R263, R337): the context's last ALW. -/
def sendFinal (id : BitVec 12) (s : State) : State :=
  sendHost { type := 0x05, ctx := id, payload := leBytes 8 (BitVec.ofInt 64 (ctxAt s id).alw).toNat } s

/-- CONTEXT_FREE (R262, R263): an ENDING context that no core holds is ended, in the order of R263. -/
def freeContext (id : BitVec 12) (s : State) : State :=
  if (ctxAt s id).st ≠ .ending ∨ !(holders s id).isEmpty then s
  else
    let s1 := (leftCores s id).foldl dropEntries ((leftCores s id).foldl flushMirror s)
    let s2 := endRegions id (endSublets id s1)
    let s3 := (leftCores s2 id).foldl (fun s g => updCoreAt g (fun c => if c.st = .idle then vacated c else c) s) s2
    let s4 := endGroups id (endNodes id { dropImages (fun i => i.ctx == id) s3 with
      queues := s3.queues.filter (fun q => q.2.owner != id)
      pxi := s3.pxi.filter (fun e => e.ctx != id) })
    settle (setCtx (sendFinal id (freeTables id s4)) id {})

/-- CONTEXT_FREE (R263). -/
def execContextFree (ctx : BitVec 12) (s : State) : Out := .next (freeContext ctx s)

/-! ### Saving a core (R264) -/

/-- The reference cycles until `t`, in issue cycles of the matrix engine's delay (R264): whole engine cycles. -/
def restCycles (d now t : Nat) : Nat := (t - now + d - 1) / d * d

/-- A save begins at a bundle boundary (R264, R349): after a CLKDIV drain and after the rest of a split bundle; a TRAPPED core is saved
where it stands (R198). Values sampled already keep the rest of their delay. -/
def beginSave (now : Nat) (w : SaveBy) (c : Core) : Core :=
  if c.trap.isNone && (c.drain.isSome || c.resume.isSome) then { c with save := some w }
  else
    let d := c.csr.mdiv.toNat + 1
    let c1 := convertSamples (fun _ => true) (fun t => c.csr.cyc + restCycles d now t) c
    { c1 with st := .saving, save := some w, stall := 0, bun := if c.trap.isSome then c.bun else {} }

/-- CTXSW (R270): the core saves once its bundle has committed. -/
def execCtxsw (p : Pred) (s : State) : Out :=
  .next (issue .s p [] (fun s =>
    if isCtrl s.cur then .error (illegalOp s)
    else .ok (updCore (fun c => { c with bun := { c.bun with yields := true } }) s)) s)

/-- Whether what a save waits for has ended (R264): the running routine, the MSQL reads, samples at their settle points,
the landings reserved for the core, and wakes. -/
def saveReady (s : State) : Bool :=
  let c := core s
  c.pme.run.isNone && c.pme.mupl.isNone && c.pme.msqls.all (fun m => m.count ≤ m.read)
    && !c.pme.samples.any (fun x => x.value.isNone && (x.covers.isNone || sampleDue s x)) && c.land.all (fun e => e.data.isSome)
    && c.files.banks.all (fun b => b.2.st != .waking)

/-- A snapshot entry (R268): its due time counted from the first resumed bundle, and its age. -/
def toEntry (cyc : Nat) (l : Landing) : Landing := { l with due := l.due - cyc, born := cyc - l.born }

/-- A snapshot entry back in flight at the issue cycle of the first resumed bundle (R269). -/
def fromEntry (cyc : Nat) (l : Landing) : Landing := { l with due := cyc + l.due, born := cyc - l.born }

/-- The image of a core (R264 to R268), placed at `base` in HBM: values sampled since issue stopped keep their whole delay.
DESIGN CHOICE (log 111): a trap record in the core's latch is no part of it. -/
def imageOf (base g : Nat) (c : Core) : Image :=
  let c1 := convertSamples (fun _ => true) (fun _ => c.csr.cyc + 8 * (c.csr.mdiv.toNat + 1)) c
  { base := base, core := g, ctx := c.ctx, node := c.node, yielded := c.save == some .yield, trapped := c.trap.isSome
    saved := { c1 with pend := [], latched := none, sp := {}, istore := [], resid := [], window := [] }
    snap := c1.pend.map (toEntry c.csr.cyc) }

/-- A node whose kernel has been saved is READY again (R275); a further core saved meanwhile changes nothing (R278). -/
def readyNode (id : BitVec 32) (s : State) : State :=
  match nodeOf s id with
  | none => s
  | some (k, n) =>
    if n.st = .ready then s else setNode k { n with st := .ready, ready := s.now, fresh := true, starved := false } s

/-- Event 0x49 (R271, R373): it carries the saved core's number. -/
def savedEvent (g : Nat) (ctx : BitVec 12) (s : State) : State :=
  postRecord (clusterNo g) (eventRecord 0x49 false g ctx 0) s

/-- The snapshots of a core that is saved are written (R264: its operations in the collective engine run on). -/
def flushSnaps (s : State) : State :=
  (core s).snaps.foldl (fun s o => writeSnap (myNo s) (core s).ctx o s) s

/-- SAVE_COMPLETE (R264): the image is written and the core goes IDLE. -/
def completeSave (s0 : State) : State :=
  if (core s0).st ≠ .saving ∨ (core s0).stop ∨ !saveReady s0 then s0
  else
    let s := flushMirror (armReleases (flushSnaps s0)) s0.cur
    let c := core s
    let i := imageOf (newBase s .hbm imageBytes) s.cur c
    let s1 := readyNode c.node (writeImage i { setCore (draw s).2 (vacated c) with images := s.images ++ [i] })
    let s2 := if c.save = some .handler then savedEvent s.cur c.ctx s1 else s1
    ctxSettle c.ctx s2

/-- SAVE_COMPLETE (R264). -/
def execSaveComplete (s : State) : Out := .next (completeSave s)

/-! ### Restoring a core (R269) -/

/-- The image that a restore of core `g` reads back. -/
def imageFor (s : State) (g : Nat) (id : BitVec 12) : Option Image := s.images.find? (fun i => i.core == g && i.ctx == id)

/-- A restore begins (R269): the core is LOADING. -/
def beginRestore (g : Nat) (i : Image) (s : State) : State :=
  ctxSettle i.ctx (updCoreAt g (fun c => { c with st := .loading, restore := true, ctx := i.ctx, node := i.node }) s)

/-- The core as its image restores it (R269); its calls restart when it is RUNNING. -/
def restored (i : Image) (c : Core) : Core :=
  { i.saved with
    st := if i.trapped then .trapped else .running
    sp := c.sp, istore := c.istore, resid := c.resid, window := c.window
    csr := { i.saved.csr with grant := c.csr.grant }
    pend := i.snap.map (fromEntry i.saved.csr.cyc), pme := { i.saved.pme with parked := i.trapped }
    save := c.save, restore := false, alwAgain := true }

/-- The record of a core that resumes TRAPPED enters the trap queue again (R269). -/
def requeueTrap (s : State) : State :=
  match (core s).trap with
  | none => s
  | some t => postFault s.cur (recordOf s.cur (core s) t.exc t.sres t.async) s

/-- A node with no image left that waits is RUNNING again once its cores resume (R275). -/
def resumedNode (id : BitVec 32) (s : State) : State :=
  match nodeOf s id with
  | none => s
  | some (k, n) => if n.st = .ready ∧ !s.images.any (fun i => i.node == id) then setNode k { n with st := .running } s else s

/-- RESTORE_COMPLETE (R269): the image is read back and released. -/
def completeRestore (s : State) : State :=
  let c := core s
  if c.st ≠ .loading ∨ !c.restore then s
  else match s.images.find? (fun i => i.core == s.cur && i.ctx == c.ctx && i.node == c.node) with
    | none => s
    | some i =>
      let s1 := dropImages (· == i) (setCore (noteReads .hbm i.base imageBytes s) (restored i c))
      resumedNode i.node (if i.trapped then requeueTrap s1 else s1)

/-- RESTORE_COMPLETE (R269). -/
def execRestoreComplete (s : State) : Out := .next (completeRestore s)

/-! ### CTXCTL (R271) -/

/-- The result word of CTXCTL (R271). -/
def ctxWord (st : Nat) : Word := word (st * 2 ^ 32)

/-- An operation of CTXCTL: the two operands, whether their reserved bits are zero, the status, and the effect when it is
OK. PRIV at decode on a compute core comes before it (R42, R271). -/
def ctxctl (p : Pred) (d a b : Reg) (legal : Word → Word → Bool) (st : State → Word → Word → Nat)
    (act : State → Word → Word → State) (s : State) : State :=
  if !isCtrl s.cur then privFault s
  else issue .s p [] (fun s => do
    let x ← rdX (core s) .s a
    let y ← rdX (core s) .s b
    if !legal x y then .error (illegalOp s)
    else
      let k := st s x y
      .ok (updCore (resX .s d (ctxWord k) 8) (if k = 0 then act s x y else s))) s

/-- The context id of an operand. -/
def idOf (x : Word) : BitVec 12 := fld x 0 12

/-- The status of an operation on a context by id (R271): it must not be FREE, nor ENDING. -/
def idStatus (s : State) (x : Word) : Nat :=
  match (ctxAt s (idOf x)).st with
  | .free => 1 | .ending => 2 | .live => 0 | .active => 0 | .parked => 0

/-- A context made by CTXCTL.NEW (R261, R262); its key is drawn at once. -/
def newCtx (id : BitVec 12) (htlen : Nat) (tier : BitVec 2) (ceil : BitVec 8) (alw : Int) (s : State) : State :=
  { setCtx s id { st := .live, alw := alw, tier := tier, ceil := ceil, htlen := htlen, key := Config.ctxKey s.ctr } with
    ctr := s.ctr + 1 }

/-- The status of NEW (R271, R354): an id that is not FREE or is reserved, or a negative allowance. -/
def newStatus (s : State) (id : BitVec 12) (alw : Word) : Nat :=
  if (ctxAt s id).st ≠ .free ∨ id = 0xFFF then 1 else if alw.msb then 4 else 0

/-- A grant: the allowance saturates at 64 bits (R271); checks see it from the next reference cycle on (R272). -/
def grantCtx (id : BitVec 12) (g : Int) (s : State) : State :=
  let x := ctxAt s id
  let y := satAlw (x.alw + g)
  setCtx s id { x with alw := y, granted := some (s.now, y - alwSeen s id) }

/-- CTXCTL.NEW (R271). -/
def execCtxctlNew (p : Pred) (d a b : Reg) (s : State) : Out :=
  .next (ctxctl p d a b (fun x _ => fld x 12 4 == 0 && fld x 42 22 == 0) (fun s x y => newStatus s (idOf x) y)
    (fun s x y => newCtx (idOf x) ((fld x 16 16).toNat + 1) (fld x 32 2) (fld x 34 8) y.toInt s) s)

/-- CTXCTL.GRANT (R271). -/
def execCtxctlGrant (p : Pred) (d a b : Reg) (s : State) : Out :=
  .next (ctxctl p d a b (fun x _ => fld x 12 52 == 0) (fun s x _ => idStatus s x)
    (fun s x y => grantCtx (idOf x) y.toInt s) s)

/-- The compute core that an operand names in the acting core's cluster. -/
def clusterCore (s : State) (x : Word) : Nat := 8 * clusterNo s.cur + (fld x 0 3).toNat

/-- The status of SAVE (R271): the core must be RUNNING, FROZEN or TRAPPED, its context not ENDING, and HBM have space. -/
def saveStatus (s : State) (x : Word) : Nat :=
  let c := coreAt s (clusterCore s x)
  if c.st ≠ .running ∧ c.st ≠ .frozen ∧ c.st ≠ .trapped then 3
  else if (ctxAt s c.ctx).st = .ending then 2
  else if hbmCapacity s < hbmUsed s + imageBytes then 5
  else 0

/-- CTXCTL.SAVE (R271). -/
def execCtxctlSave (p : Pred) (d a b : Reg) (s : State) : Out :=
  .next (ctxctl p d a b (fun x y => fld x 3 61 == 0 && y == 0) (fun s x _ => saveStatus s x)
    (fun s x _ => updCoreAt (clusterCore s x) (beginSave s.now .handler) s) s)

/-- The status of RESUME (R271). -/
def resumeStatus (s : State) (x y : Word) : Nat :=
  let k := idStatus s y
  let g := clusterCore s x
  if k ≠ 0 then k
  else if (coreAt s g).st ≠ .idle then 3
  else if alwSeen s (idOf y) < 0 then 4
  else if (imageFor s g (idOf y)).isNone then 6
  else 0

/-- CTXCTL.RESUME (R271). -/
def execCtxctlResume (p : Pred) (d a b : Reg) (s : State) : Out :=
  .next (ctxctl p d a b (fun x y => fld x 3 61 == 0 && fld y 12 52 == 0) resumeStatus
    (fun s x y => match imageFor s (clusterCore s x) (idOf y) with
      | some i => beginRestore (clusterCore s x) i s
      | none => s) s)

/-- CTXCTL.SETTIER (R271). -/
def execCtxctlSettier (p : Pred) (d a b : Reg) (s : State) : Out :=
  .next (ctxctl p d a b (fun x y => fld x 12 52 == 0 && fld y 10 54 == 0) (fun s x _ => idStatus s x)
    (fun s x y => setCtx s (idOf x) { ctxAt s (idOf x) with tier := fld y 0 2, ceil := fld y 2 8 }) s)

/-- CTXCTL.ROOT (R271). -/
def execCtxctlRoot (p : Pred) (d a b : Reg) (s : State) : Out :=
  .next (ctxctl p d a b (fun x y => fld x 12 52 == 0 && fld y 0 14 == 0 && fld y 56 8 == 0) (fun s x _ => idStatus s x)
    (fun s x y => setRoot (idOf x) (fld y 0 56) s) s)

/-- CTXCTL.END (R271). -/
def execCtxctlEnd (p : Pred) (d a b : Reg) (s : State) : Out :=
  .next (ctxctl p d a b (fun x y => fld x 12 52 == 0 && fld y 1 63 == 0) (fun s x _ => idStatus s x)
    (fun s x y => endCtx (idOf x) (bit y 0) s) s)

/-- The item word of QUERY (R271): item 0 in HND, item 1 the allowance. -/
def queryWord (s : State) (x y : Word) : Word :=
  let id := idOf x
  let c := ctxAt s id
  if c.st = .free then ctxWord 1
  else if bit y 0 then BitVec.ofInt 64 c.alw
  else word (c.st.code + c.tier.toNat * 2 ^ 3 + c.ceil.toNat * 2 ^ 5 + (holders s id).length * 2 ^ 13
    + ctxImages s id % 2 ^ 9 * 2 ^ 22)

/-- CTXCTL.QUERY (R271). -/
def execCtxctlQuery (p : Pred) (d a b : Reg) (s : State) : Out :=
  .next (if !isCtrl s.cur then privFault s
    else issue .s p [] (fun s => do
      let x ← rdX (core s) .s a
      let y ← rdX (core s) .s b
      if fld x 12 52 ≠ 0 ∨ fld y 1 63 ≠ 0 then .error (illegalOp s)
      else .ok (updCore (resX .s d (queryWord s x y) 8) s)) s)

end Sys2Proof.Machine
end

