-- ==== Sys2Proof/Machine/Dram.lean ====
section
/-! DEFINITION. HBM4E and the capacity tier (R324 to R335): refresh slots and RFWAIT, hot mode with shares, rebuilt lines,
die map-out, and CXL links that go down. -/

namespace Sys2Proof.Machine

open Sys2Proof

/-- A stack's record. -/
def stackAt (s : State) (k : Nat) : Stack := Map.get s.dram.stks k {}

/-- A stack's record replaced. -/
def setStack (k : Nat) (x : Stack) (s : State) : State := { s with dram := { s.dram with stks := Map.put s.dram.stks k x } }

/-- The cluster that takes a stack's events (R330, R332, R333): cluster 0 of its die. -/
def stackCluster (k : Nat) : Nat := 8 * (k / 2)

/-! ### RFWAIT (R327) -/

/-- Whether a slot number is too far ahead (R327). -/
def slotTooFar (s : State) (v : Word) : Bool := decide (s.dram.slot + 2 ^ 24 < v.toNat)

/-- The wait of RFWAIT (R327), cause 9: until SLOT reaches the operand. -/
def rfwaitWait (p : Pred) (o : Opnd) (s : State) : Option Nat :=
  match rdO (core s) .s o with
  | .error _ => none
  | .ok v => if predOn (core s) .s p && !slotTooFar s v && decide (s.dram.slot < v.toNat) then some 9 else none

/-- RFWAIT (R327). -/
def execRfwait (p : Pred) (o : Opnd) (s : State) : Out :=
  .next (match rfwaitWait p o s with
    | some cause => freeze cause s
    | none => issue .s p (markO o) (fun s => do
      let v ← rdO (core s) .s o
      if slotTooFar s v then .error (illegalOp s) else .ok s) s)

/-! ### Refresh slots (R325, R326) -/

/-- The bank group of a bank (R324). -/
def bankGroup (b : Nat) : Nat := b / 4

/-- A pseudo-channel's owed banks after a refresh slot that schedules a bank (R326). -/
def refreshStep (bank : Nat) (waits : Bool) (ow : Owed) : Owed :=
  if ow.length = 8 then []
  else if waits then ow ++ [bank]
  else match ow.find? (fun b => bankGroup b != bankGroup bank) with
    | some b => ow.erase b
    | none => ow

/-- The bank scheduled in refresh slot `k` of a pseudo-channel (R325). -/
def scheduledBank (k pc : Nat) : Nat := (k + 8 * (pc % 2)) % 16

/-- A stack at the start of slot `n` (R325, R326): its mode changes, and in a refresh slot each pseudo-channel takes its
turn; `waits` lists those with a read waiting on the scheduled bank, as 2·channel + pseudo-channel. -/
def refreshStack (n : Nat) (waits : List Nat) (x : Stack) : Stack :=
  let y := { x with hot := x.hotNext }
  if !y.hot && n % 2 != 0 then y
  else
    let k := if y.hot then n else n / 2
    { y with owed := (List.range 64).foldl (fun m pc =>
        let ow := refreshStep (scheduledBank k pc) (waits.contains pc) (Map.get m pc [])
        if ow.isEmpty then Map.del m pc else Map.put m pc ow) y.owed }

/-- The reference cycle at which slot `n` begins (R325). -/
def slotStart (e n : Nat) : Nat := e + 366 * n

/-- The slot that begins next: slot 0 at E (R325). -/
def nextSlot (s : State) : Nat := if s.dram.begun then s.dram.slot + 1 else 0

/-- REFRESH_SLOT (R325, R326): the next slot begins when its time has come; `waiting` lists the stacks and pseudo-channels
with a read that waits on the scheduled bank. -/
def execRefreshSlot (waiting : List (Nat × Nat)) (s : State) : Out :=
  .next (match s.dram.epoch with
    | none => s
    | some e =>
      let n := nextSlot s
      if s.now < slotStart e n then s
      else
        let s1 : State := { s with dram := { s.dram with slot := n, begun := true } }
        (List.range 8).foldl (fun s k =>
          setStack k (refreshStack n ((waiting.filter (fun w => w.1 == k)).map (·.2)) (stackAt s k)) s) s1)

/-! ### Hot mode and shares (R328, R330) -/

/-- A context's share of a stack, in 256ths of 3.1 TB/s (R330). -/
def shareOf (x : Ctx) (k : Nat) : Nat := Map.get x.shares k 0

/-- The bandwidth of a stack that shares count against, in MB/s: half of it in QUICKSET (R330, R353). -/
def stackMBs (s : State) : Nat := if s.dev.st = .quickset then 1550000 else 3100000

/-- The bandwidth withdrawn from a share in hot mode, in MB/s: (256 − 160)/256 of it; a fraction goes to either side (R330,
log 40). -/
def withdrawn (s : State) (share : Nat) : Nat :=
  let n := share * stackMBs s * 96
  n / 65536 + (if n % 65536 ≠ 0 ∧ Config.freeBit s.ctr then 1 else 0)

/-- SHORTFALL (R330): event 0x4D to a context whose share of a stack is cut, or restored. -/
def shortfall (k : Nat) (hot : Bool) (id : BitVec 12) (share : Nat) (s : State) : State :=
  if share = 0 then s
  else
    let f := if hot then 160 else 256
    let w := if hot then withdrawn s share else 0
    { postEvent (stackCluster k) 0x4D id (word (k + boolNat hot * 8 + f * 2 ^ 4 + w % 2 ^ 32 * 2 ^ 16)) s with ctr := s.ctr + 1 }

/-- SHORTFALL to every context with a share of a stack. -/
def shortfallAll (k : Nat) (hot : Bool) (s : State) : State :=
  s.ctxs.foldl (fun s x => if x.2.st = .free then s else shortfall k hot (BitVec.ofNat 12 x.1) (shareOf x.2 k) s) s

/-- HOT_MODE_ENTER (R325, R328, R330): the mode changes at the next slot boundary. -/
def execHotModeEnter (stack : BitVec 3) (s : State) : Out :=
  let k := stack.toNat
  .next (if (stackAt s k).hotNext then s else shortfallAll k true (setStack k { stackAt s k with hotNext := true } s))

/-- HOT_MODE_EXIT (R325, R328, R330). -/
def execHotModeExit (stack : BitVec 3) (s : State) : Out :=
  let k := stack.toNat
  .next (if !(stackAt s k).hotNext then s else shortfallAll k false (setStack k { stackAt s k with hotNext := false } s))

/-- The shares of a stack that contexts other than one hold. -/
def otherShares (s : State) (id : BitVec 12) (k : Nat) : Nat :=
  (s.ctxs.filter (fun x => x.1 != id.toNat && x.2.st != .free)).foldl (fun n x => n + shareOf x.2 k) 0

/-- A share assigned (R330): refused where the shares of the stack would sum above 256; a share that hot mode cuts is told. -/
def assignShare (ctx : BitVec 12) (stack : BitVec 3) (share : BitVec 9) (s : State) : Option State :=
  let k := stack.toNat
  if (ctxAt s ctx).st = .free ∨ 256 < otherShares s ctx k + share.toNat then none
  else
    let x := ctxAt s ctx
    let s1 := setCtx s ctx { x with shares := Map.put x.shares k share.toNat }
    some (if (stackAt s k).hotNext then shortfall k true ctx share.toNat s1 else s1)

/-- SHARE_ASSIGN (R330). -/
def execShareAssign (ctx : BitVec 12) (stack : BitVec 3) (share : BitVec 9) (s : State) : Out :=
  admin (assignShare ctx stack share) s

/-- LATENCY_RECORD_CLEAR (R331). -/
def execLatencyRecordClear (stack : BitVec 3) (chan : BitVec 5) (s : State) : Out :=
  .next { s with dram := { s.dram with lat := Map.del s.dram.lat (32 * stack.toNat + chan.toNat) } }

/-! ### Rebuild (R332) -/

/-- The event CORRECTED of a line of HBM (R332). -/
def corrected (line code : Nat) (s : State) : State :=
  postEvent (stackCluster (Config.lineStack (64 * line)).toNat) 0x4E 0 (word (64 * line + code * 2 ^ 62)) s

/-- LINE_REBUILD (R332, R335): a line of HBM is rebuilt, or marked poisoned where neither source can; event 0x4E tells which. A line
that a CXL device returns poisoned is poisoned in the capacity tier (log 95). -/
def execLineRebuild (pa : BitVec 56) (src : RebuildSource) (s : State) : Out :=
  let line := pa.toNat / 64
  .next (match src with
    | .none => corrected line 2 { s with dram := { s.dram with hbmPoison := Map.put s.dram.hbmPoison line true } }
    | .parity => corrected line 0 s
    | .cleanCopy => corrected line 1 s
    | .cxl => { s with dram := { s.dram with capPoison := Map.put s.dram.capPoison line true } })

/-! ### Map-out (R333, R334) -/

/-- DIE_MAP_OUT (R333): Coppice begins to remove a die in service; RENT.HBM finds no space and the prefix index is rebuilt
until it ends. -/
def execDieMapOut (stack : BitVec 3) (die : BitVec 4) (s : State) : Out :=
  let x := stackAt s stack.toNat
  .next (if x.mapping.isSome ∨ !x.dies.getLsbD die.toNat then s
    else
      let s1 := setStack stack.toNat { x with mapping := some die } s
      { s1 with dev := { s1.dev with pxReady := false } })

/-- Where neither HBM nor the capacity tier holds all that is rented, pages that Coppice cannot keep go ABSENT, whichever they are
(R308, R333, log 47). -/
def losePages (s : State) : State :=
  if spillBytes s ≤ capFree s then s
  else
    let ps := (allLeaves s).filter (fun x => pteTIER x.2.2 == 0)
    let hit := ((List.range ps.length).zip ps).filter (fun x => Config.freeBit (s.ctr + x.1))
    { clearLeaves (hit.map (·.2)) s with ctr := s.ctr + ps.length }

/-- MAP_OUT_COMPLETE (R333, R334): the die leaves the capacity word, what HBM no longer holds lies in the capacity tier, and event
0x4F is sent. -/
def execMapOutComplete (stack : BitVec 3) (die : BitVec 4) (s : State) : Out :=
  let k := stack.toNat
  let x := stackAt s k
  .next (if x.mapping ≠ some die then s
    else
      let s1 := setStack k { x with mapping := none, dies := x.dies &&& ~~~(1#16 <<< die.toNat) } s
      let s2 : State := { s1 with dev := { s1.dev with
        pxReady := s1.dev.st == .service && !s1.dram.stks.any (fun y => y.2.mapping.isSome) } }
      postEvent (stackCluster k) 0x4F 0 (word (k + die.toNat * 2 ^ 4)) (losePages s2))

/-! ### CXL links (R335) -/

/-- The first of a list of regions whose sizes make up a number of bytes. -/
def coverBytes : List (Nat × Region) → Nat → List (Nat × Region)
  | [], _ => []
  | x :: xs, n => if n = 0 then [] else x :: coverBytes xs (n - x.2.size)

/-- The HBM regions with bytes of the remainder that lies on a link (R333): whichever they are, enough to hold it (log 47). -/
def spilledOn (s : State) (link : Nat) : List (Nat × Region) :=
  let n := ((spillOn s).filter (fun y => y.1 == link)).foldl (fun n y => n + y.2) 0
  let rs := (regionsOf s .hbm).filter (fun x => x.2.st != .scrubbed)
  let drawn := (List.range rs.length).zip rs
  let hit := (drawn.filter (fun x => Config.freeBit (s.ctr + x.1))).map (·.2)
  let rest := (drawn.filter (fun x => !Config.freeBit (s.ctr + x.1))).map (·.2)
  if n = 0 then [] else hit ++ coverBytes rest (n - hit.foldl (fun n x => n + x.2.size) 0)

/-- CXL_LINK_DOWN (R335): every region with bytes on the link's device goes to SCRUBBED with the refund of VACATE. The event goes to
cluster 0 of the die that owns the link, which R335 does not say (log 73). -/
def execCxlLinkDown (link : BitVec 4) (s : State) : Out :=
  let s1 : State := { s with dram := { s.dram with linkDown := s.dram.linkDown ||| (1#16 <<< link.toNat) } }
  let hit := (regionsOf s1 .cap).filter (fun x => x.2.st != .scrubbed && x.2.links.contains link.toNat)
  let s2 := (hit ++ spilledOn s link.toNat).foldl (fun s x => scrub x.1 (vacateRefund s x.2) s) s1
  .next (if s.dram.linkDown.getLsbD link.toNat then s
    else { postEvent (8 * (link.toNat / 4)) 0x4F 0 (word (7 + link.toNat * 2 ^ 8 + 2 ^ 12)) s2 with ctr := s2.ctr + s.regions.length })

end Sys2Proof.Machine
end

