-- ==== Sys2Proof/Machine/Gather.lean ====
section
/-! DEFINITION. The gather engine (R304 to R321): GATH, SCAT, KVAPP, the prefix instructions, GWAIT, and the elements that the
engine performs. -/

namespace Sys2Proof.Machine

open Sys2Proof

/-! ### Issue (R310) -/

/-- The wait of a gather-class operation (R310), cause 8: the queue holds 8 operations. -/
def gatherWait (u : CU) (p : Pred) (s : State) : Option Nat :=
  if predOn (core s) u.slot p && decide (8 ≤ (core s).gather.q.length) then some 8 else none

/-- The checks of a local extent at issue (R310), in the order of R75; an extent of no byte is not checked. -/
def gaIssue (k : Acc) (a n align : Nat) (s : State) : Except Exc State := if n = 0 then .ok s else checkLocal .ga k a n align s

/-- An operation joins the queue with its sequence number, which lands one copy-engine cycle later (R310). -/
def enqueue (u : CU) (t : BitVec 4) (o : GOp) (s : State) : State :=
  updCore (fun c =>
    let q := c.gather
    let n := q.giss + 1
    resX u.slot (t.setWidth 5) (n.setWidth 64) 1
      { c with gather := { q with giss := n, q := q.q ++ [{ o with slot := u.slot, seq := n, born := s.now }] } }) (refreshTakes s)

/-- GATH, GATH.ADD and SCAT at issue (R311). -/
def gatherIssue (k : GKind) (u : CU) (p : Pred) (t : BitVec 4) (pp l d : Reg) (s : State) : State :=
  issueC (gatherWait u p s) u p (fun s => do
    let base ← rdX (core s) u.slot pp
    let ds ← rdX (core s) u.slot (pp + 1)
    let list ← rdX (core s) u.slot l
    let n ← rdX (core s) u.slot (l + 1)
    let loc ← rdX (core s) u.slot d
    let size := (fld ds 0 13).toNat
    let addf := k == .gath true
    if size = 0 ∨ 65536 < n.toNat ∨ 2 ^ 56 ≤ base.toNat ∨ fld ds 14 2 ≠ 0 ∨ fld ds 48 16 ≠ 0 then .error (illegalOp s)
    else if addf ∧ (size % 4 ≠ 0 ∨ loc.toNat % 4 ≠ 0) then .error (illegalOp s)
    else do
      let ext := if addf then size else n.toNat * size
      let t1 ← gaIssue .read list.toNat (4 * n.toNat) 4 s
      let t2 ← gaIssue (if k == .scat then .read else .write) loc.toNat ext 1 t1
      .ok (enqueue u t { kind := k, slot := u.slot, seq := 0, base := base.toNat, size := size, stride := (fld ds 16 32).toNat
                         list := list.toNat, n := n.toNat, loc := loc.toNat, alt := bit ds 13 } t2)) s

/-- GATH and GATH.ADD (R311). -/
def execGath (u : CU) (p : Pred) (addf : Bool) (t : BitVec 4) (pp l d : Reg) (s : State) : Out :=
  .next (gatherIssue (.gath addf) u p t pp l d s)

/-- SCAT (R311). -/
def execScat (u : CU) (p : Pred) (t : BitVec 4) (pp l d : Reg) (s : State) : Out := .next (gatherIssue .scat u p t pp l d s)

/-- KVAPP at issue (R317). -/
def execKvapp (u : CU) (p : Pred) (nr : Bool) (t : BitVec 4) (pp sr : Reg) (s : State) : Out :=
  .next (issueC (gatherWait u p s) u p (fun s => do
    let blk ← rdX (core s) u.slot pp
    let sh ← rdX (core s) u.slot (pp + 1)
    let src ← rdX (core s) u.slot sr
    let freq ← rdX (core s) u.slot (sr + 1)
    let d := (fld sh 32 11).toNat
    let bf := bit sh 43
    if blk.toNat % 65536 ≠ 0 ∨ 2 ^ 56 ≤ blk.toNat ∨ d < 2 ∨ d % 2 ≠ 0 ∨ 2048 < d * kvBytes bf ∨ fld sh 44 20 ≠ 0 then
      .error (illegalOp s)
    else do
      let t1 ← gaIssue .read src.toNat (8 * d) 4 s
      let t2 ← if nr then Except.ok t1 else gaIssue .read freq.toNat (2 * d) 4 t1
      .ok (enqueue u t { kind := .kvapp nr, slot := u.slot, seq := 0, base := blk.toNat, n := d, loc := src.toNat
                         loc2 := freq.toNat, alt := bf, pos := (fld sh 0 32).toNat
                         rds := if nr then [(src.toNat, 8 * d)] else [(src.toNat, 8 * d), (freq.toNat, 2 * d)] } t2)) s)

/-- PXLOOK, PXINS and PXDROP at issue (R320): PXINS with a negative allowance faults. -/
def pxIssue (k : GKind) (u : CU) (p : Pred) (t : BitVec 4) (r : Reg) (s : State) : State :=
  issueC (gatherWait u p s) u p (fun s => do
    let a ← rdX (core s) u.slot r
    if k = .pxins ∧ myAlw s < 0 then .error (exc 0x22 (BitVec.ofInt 64 (myAlw s)))
    else do
      let t1 ← gaIssue .write a.toNat 80 16 s
      .ok (enqueue u t { kind := k, slot := u.slot, seq := 0, loc := a.toNat, rds := [(a.toNat, 72)]
                         wrs := [(a.toNat + 72, 8)] } t1)) s

/-- PXLOOK (R320). -/
def execPxlook (u : CU) (p : Pred) (t : BitVec 4) (r : Reg) (s : State) : Out := .next (pxIssue .pxlook u p t r s)

/-- PXINS (R320). -/
def execPxins (u : CU) (p : Pred) (t : BitVec 4) (r : Reg) (s : State) : Out := .next (pxIssue .pxins u p t r s)

/-- PXDROP (R320). -/
def execPxdrop (u : CU) (p : Pred) (t : BitVec 4) (r : Reg) (s : State) : Out := .next (pxIssue .pxdrop u p t r s)

/-! ### GWAIT (R314) -/

/-- Whether a ticket lies ahead of GISS (R314). -/
def ticketAhead (q : Gather) (v : Word) : Bool := decide (2 ^ 31 ≤ (q.giss - fld v 0 32).toNat)

/-- The wait of GWAIT with a ticket (R314), cause 9. -/
def gwaitWait (u : CU) (p : Pred) (a : Reg) (s : State) : Option Nat :=
  let q := (core s).gather
  let v := getX (core s) u.slot a
  if predOn (core s) u.slot p && !ticketAhead q v && decide (2 ^ 31 ≤ (q.gdone - fld v 0 32).toNat) then some 9 else none

/-- The wait of GWAIT.ALL (R314), cause 9. -/
def gwaitAllWait (u : CU) (p : Pred) (s : State) : Option Nat :=
  if predOn (core s) u.slot p && (core s).gather.gdone != (core s).gather.giss then some 9 else none

/-- GWAIT with a ticket (R314). -/
def execGwait (u : CU) (p : Pred) (a : Reg) (s : State) : Out :=
  .next (issueC (gwaitWait u p a s) u p (fun s => do
    let v ← rdX (core s) u.slot a
    if ticketAhead (core s).gather v then .error (illegalOp s) else .ok s) s)

/-- GWAIT.ALL (R314). -/
def execGwaitAll (u : CU) (p : Pred) (s : State) : Out := .next (issueC (gwaitAllWait u p s) u p (fun s => .ok s) s)

/-- Bytes written, in the mode of the page that maps them (R309). -/
def writePiece (s : State) (w : Piece) : State :=
  spaceWrite s.cur w.sp w.addr w.bytes (stampLines w.mode w.sp w.addr w.bytes.length s)

/-- Granules written, in order. -/
def writeAll (ws : List Piece) (s : State) : State := ws.foldl writePiece s

/-- The granules that the element in flight has still to write are written (R314). -/
def finishElem (s : State) : State :=
  match (core s).gather.q with
  | [] => s
  | o :: _ => writeAll o.rest s

/-- The queue after GWAIT.CAN (R314): its operations dropped, a pending fault discarded, GDONE at GISS. -/
def cancelQueue (q : Gather) : Gather := { giss := q.giss, gdone := q.giss }

/-- GWAIT.CAN (R314): the element in flight completes first. -/
def execGwaitCan (u : CU) (p : Pred) (s : State) : Out :=
  .next (issue u.slot p [] (fun s => .ok (updCore (fun c => { c with gather := cancelQueue c.gather }) (finishElem s))) s)

/-! ### Accesses of an element (R306, R311, R313) -/

/-- What an element comes to: the state after its reads with what it writes, a fault, or a wait for banks or a peer. -/
inductive Elem where
  | done (s : State) (ws : List Piece)
  | fault (e : Exc)
  | waits (s : State)
  deriving DecidableEq, Repr

/-- The reference cycle in which the operation at the head of the queue issued. -/
def gopBorn (s : State) : Nat := ((core s).gather.q.head?.map (·.born)).getD s.now

/-- The checks of a local access of an element (R313): region, poison of what it reads, race. -/
def gaLocal (k : Acc) (a n : Nat) (s : State) : Except Exc State := do
  checkRegion s.regions (core s).ctx (.sp s.cur) k a n
  match (if k.reads then spacePoison s (.sp s.cur) a n else none) with
  | some g => .error (exc 0x11 (word (2 ^ 63 + 64 * g)))
  | none => checkMoving (gopBorn s) (.sp s.cur) k .ga s.cur a n s

/-- The checks of the element that GATH.ADD adds to: a write, whose old bytes are read (R311, R313). -/
def gaAdd (a n : Nat) (s : State) : Except Exc State :=
  match gaLocal .write a n s with
  | .error e => .error e
  | .ok t => match spacePoison s (.sp s.cur) a n with
    | some g => .error (exc 0x11 (word (2 ^ 63 + 64 * g)))
    | none => .ok t

/-- A fault at a physical address, named by its virtual address (R313). -/
def atVa (pa va : Nat) (e : Exc) : Exc := { e with info := word (e.info.toNat - pa + va) }

/-- The reads of a page walk in HBM counted (R304, R331): the translation buffer's contents are not given, and every translation is
taken to walk (log 26). -/
def noteWalk (s : State) (x : Ctx) (va : Nat) (t : State) : State :=
  (walkReads s.dram.hbm va 4 1 (rootOf x)).foldl (fun t a => noteReads .hbm a 8 t) t

/-- One piece of a global access (R306, R341): its translation, right, peer, region, race and poison. -/
def gaPiece (k : Acc) (va n : Nat) (s : State) : Except Exc (Space × Nat × State) :=
  match translate s (myCtx s) va with
  | none => .error (exc 0x24 (word va))
  | some (e, pa0) =>
    if !(if k.writes then pteWR e else pteRD e) then .error (exc 0x21 (word va))
    else
      let (sp, pa) := leafSpace e pa0
      match sp with
      | .peer p => match peerFault false s p pa n k.writes with
        | some code => .error (exc code (if code = 0x3E then 0 else word va))
        | none => .ok (sp, pa, noteWalk s (myCtx s) va s)
      | _ =>
        match checkRegion s.regions (core s).ctx sp k pa n with
        | .error e => .error (atVa pa va e)
        | .ok _ =>
          match checkMoving (gopBorn s) sp k .ga s.cur pa n s with
          | .error e => .error (atVa pa va e)
          | .ok t =>
            match (if k.reads then spacePoison s sp pa n else none) with
            | some g => .error (exc 0x11 (word (2 ^ 63 + (max pa (64 * g) - pa + va))))
            | none => .ok (sp, pa, noteWalk s (myCtx s) va t)

/-- Every piece of a global access, checked before any byte moves (R311, R317). -/
def gaGlobal (k : Acc) : List (Nat × Nat) → State → Except Exc (List (Space × Nat × Nat) × State)
  | [], s => .ok ([], s)
  | (va, n) :: rest, s => do
    let (sp, pa, t) ← gaPiece k va n s
    let (ps, t1) ← gaGlobal k rest t
    .ok ((sp, pa, n) :: ps, t1)

/-- The modes of the pieces of a virtual range (R309). -/
def modesOf (s : State) (va n : Nat) : List (Option LineKey) := (pieces va n).map (fun p => leafMode s (myCtx s) p.1)

/-- The bytes of pieces, in order, each read in its mode. -/
def readPieces (s : State) (ps : List (Space × Nat × Nat)) (ms : List (Option LineKey)) : List Byte :=
  (List.zipWith (fun r m => viewRead s m r.1 r.2.1 r.2.2) ps ms).flatten

/-- Bytes for places, in order, each with its mode. -/
def splitPieces : List (Space × Nat × Nat) → List (Option LineKey) → List Byte → List Piece
  | (sp, a, n) :: rest, m :: ms, bs => { sp := sp, addr := a, mode := m, bytes := bs.take n } :: splitPieces rest ms (bs.drop n)
  | _, _, _ => []

/-- Bytes cut at the bounds of granules; the first argument bounds their number. -/
def cutPiece : Nat → Piece → List Piece
  | 0, _ => []
  | fuel + 1, w =>
    if w.bytes.isEmpty then []
    else
      let k := 64 - w.addr % 64
      { w with bytes := w.bytes.take k } :: cutPiece fuel { w with addr := w.addr + k, bytes := w.bytes.drop k }

/-- Pieces cut at the bounds of granules (R310). -/
def cutPieces (ws : List Piece) : List Piece := (ws.map (fun w => cutPiece (w.bytes.length / 64 + 2) w)).flatten

/-- A local range of the acting core. -/
def here (s : State) (a n : Nat) : Space × Nat × Nat := (.sp s.cur, a, n)

/-- An access that has passed its checks: it waits, or reads, by `act`, and has what it writes. -/
def access (s0 : State) (rs : List (Space × Nat × Nat)) (ws : List Piece) (act : State → State) : Except Exc State → Elem
  | .error e => .fault e
  | .ok t => if allReady s0 rs then .done (act t) ws else .waits (wakeAll rs s0)

/-! ### GATH and SCAT (R311, R312) -/

/-- A 4-byte word of a list of bytes. -/
def word4 (bs : List Byte) (j : Nat) : Nat := leNat ((bs.drop (4 * j)).take 4)

/-- GATH.ADD: the words of an element added to the old ones (R95, R311). -/
def addWords (int : Bool) (old new : List Byte) : List Byte :=
  ((List.range (old.length / 4)).map (fun j =>
    let x := word4 old j
    let y := word4 new j
    leBytes 4 (if int then (x + y) % 2 ^ 32 else fp32.round .rne false ((fp32.read x).add (fp32.read y))))).flatten

/-- Element `o.prog` of a GATH or SCAT (R311). -/
def gatherElem (o : GOp) (s : State) : Elem :=
  let i := o.prog
  let la := o.list + 4 * i
  match gaLocal .read la 4 s with
  | .error e => .fault e
  | .ok t =>
    if !allReady s [here s la 4] then .waits (wakeAll [here s la 4] s)
    else
      let v := o.base + Memory.readLE (core s).sp.mem la 4 * o.stride
      if 2 ^ 56 < v + o.size then .fault (exc 0x21 (word v))
      else
        match o.kind with
        | .scat =>
          let src := o.loc + i * o.size
          match gaLocal .read src o.size t with
          | .error e => .fault e
          | .ok t1 =>
            match gaGlobal .write (pieces v o.size) t1 with
            | .error e => .fault e
            | .ok (ps, t2) =>
              access s (here s src o.size :: ps) (splitPieces ps (modesOf s v o.size) (spaceRead s (.sp s.cur) src o.size)) id (.ok t2)
        | _ =>
          let addf := o.kind == .gath true
          let dst := if addf then o.loc else o.loc + i * o.size
          match gaGlobal .read (pieces v o.size) t with
          | .error e => .fault e
          | .ok (ps, t1) =>
            let new := readPieces s ps (modesOf s v o.size)
            let bs := if addf then addWords o.alt (spaceRead s (.sp s.cur) dst o.size) new else new
            access s (here s dst o.size :: ps) [{ sp := .sp s.cur, addr := dst, bytes := bs }] (fun t => ps.foldl (fun t r => noteReads r.1 r.2.1 r.2.2 t) t)
              (if addf then gaAdd dst o.size t1 else gaLocal .write dst o.size t1)

/-! ### KVAPP (R316 to R318) -/

/-- 2^96 ÷ 2π, rounded (R318). -/
def turnQ : Nat := 12609553696233175933233255924

/-- π/2 in units of 2^−80. -/
def halfPi : Nat := 1898976236818169290393997

/-- The sums of the even and of the odd terms of the exponential series at an angle in units of 2^−80, their signs those of
the cosine and the sine: `t` is the term at hand, of degree `k`. -/
def turnSeries (x : Nat) : (fuel k : Nat) → Nat → Int → Int → Int × Int
  | 0, _, _, c, s => (c, s)
  | fuel + 1, k, t, c, s =>
    let v := signed (k / 2 % 2 == 1) t
    let (c1, s1) := if k % 2 = 0 then (c + v, s) else (c, s + v)
    turnSeries x fuel (k + 1) (t * x / 2 ^ 80 / (k + 1)) c1 s1

/-- The cosine and the sine of a 48-bit turn fraction, in units of 2^−80 (R318). -/
def turnCosSin (f : Nat) : Int × Int :=
  let x := f % 2 ^ 46 * halfPi / 2 ^ 46
  let (c, s) := turnSeries x 32 0 (2 ^ 80) 0 0
  match f / 2 ^ 46 % 4 with
  | 0 => (c, s)
  | 1 => (-s, c)
  | 2 => (-c, -s)
  | _ => (s, -c)

/-- A value in units of 2^−80. -/
def ofUnits (v : Int) : FVal := .fin (decide (v < 0)) v.natAbs (-80)

/-- Whether an FP32 pattern lies near a real in units of 2^−80: within 2^−20 of it and at most 1 in magnitude, and within 1.5 ulp
of its correctly rounded value (R318). -/
def nearTurn (v : Int) (x : Nat) : Bool :=
  match fp32.read x, fp32.read (fp32.round .rne false (ofUnits v)) with
  | .fin n m e, .fin n1 m1 e1 =>
    let w := signed n (shiftTo (-200) m e)
    decide (-200 ≤ e) && decide (w.natAbs ≤ 2 ^ 200) && decide ((w - v * 2 ^ 120).natAbs ≤ 2 ^ 180)
      && decide (2 * (w - signed n1 (shiftTo (-200) m1 e1)).natAbs ≤ 3 * shiftTo (-200) 1 e1)
  | _, _ => false

/-- A value of C or S (R318), a function of the turn fraction alone: the device's own where it lies in the bounds that the rule
gives, which leaves it free there (log 8). -/
def turnValue (v : Int) (free : BitVec 32) : Nat :=
  if nearTurn v free.toNat then free.toNat else fp32.round .rne false (ofUnits v)

/-- The 48-bit turn fraction of pos · |ω| (R318). -/
def turnFrac (pos m : Nat) (e : Int) : Nat :=
  let n := pos * m * turnQ
  if 96 ≤ e then 0
  else
    let k := (96 - e).toNat
    n % 2 ^ k * 2 ^ 48 / 2 ^ k

/-- The rotary generator (R318): the cosine and the sine for a position and a frequency. -/
def rot (pos : Nat) (w : FVal) : FVal × FVal :=
  match w with
  | .nan => (.nan, .nan)
  | .inf _ => (.nan, .nan)
  | .fin neg m e =>
    let f0 := turnFrac pos m e
    let f := if neg then (2 ^ 48 - f0) % 2 ^ 48 else f0
    if f = 0 then (.fin false 1 0, .fin false 0 0)
    else
      let (c, s) := turnCosSin f
      (fp32.read (turnValue c (Config.rotC (BitVec.ofNat 48 f))),
       fp32.read (turnValue s (Config.rotS (BitVec.ofNat 48 f))))

/-- A pair of elements rotated (R317): exact, then one FP32 rounding each. -/
def rotatePair (c s x y : FVal) : Nat × Nat :=
  (fp32.round .rne false ((x.mul c).add (y.mul s).neg), fp32.round .rne false ((x.mul s).add (y.mul c)))

/-- An element in the block's format (R317). -/
def kvElem (bf : Bool) (x : Nat) : List Byte := leBytes (kvBytes bf) (convert 1 (if bf then 2 else 1) .rne false 0 x)

/-- The K vector of a KVAPP in the block's format (R317). -/
def kvKeys (o : GOp) (nr : Bool) (src freq : List Byte) : List Byte :=
  ((List.range (o.n / 2)).map (fun q =>
    let x := word4 src (2 * q)
    let y := word4 src (2 * q + 1)
    let (x1, y1) := if nr then (x, y)
      else
        let (c, s) := rot o.pos (fp32.read (word4 freq q))
        rotatePair c s (fp32.read x) (fp32.read y)
    kvElem o.alt x1 ++ kvElem o.alt y1)).flatten

/-- The V vector of a KVAPP in the block's format (R317). -/
def kvValues (o : GOp) (src : List Byte) : List Byte :=
  ((List.range o.n).map (fun j => kvElem o.alt (word4 src (o.n + j)))).flatten

/-- A KVAPP in the engine (R317): both slot ranges are translated and checked before any write. -/
def kvElement (o : GOp) (nr : Bool) (s : State) : Elem :=
  let len := o.n * kvBytes o.alt
  let ka := o.base + 2048 * (o.pos % 16)
  let checks : Except Exc (List (Space × Nat × Nat) × List (Space × Nat × Nat) × State) := do
    let t ← gaLocal .read o.loc (8 * o.n) s
    let t1 ← if nr then Except.ok t else gaLocal .read o.loc2 (2 * o.n) t
    let (ks, t2) ← gaGlobal .write (pieces ka len) t1
    let (vs, t3) ← gaGlobal .write (pieces (ka + 32768) len) t2
    .ok (ks, vs, t3)
  match checks with
  | .error e => .fault e
  | .ok (ks, vs, t) =>
    let src := spaceRead s (.sp s.cur) o.loc (8 * o.n)
    let freq := if nr then [] else spaceRead s (.sp s.cur) o.loc2 (2 * o.n)
    let mine := here s o.loc (8 * o.n) :: (if nr then [] else [here s o.loc2 (2 * o.n)])
    access s (mine ++ ks ++ vs) (splitPieces ks (modesOf s ka len) (kvKeys o nr src freq)
      ++ splitPieces vs (modesOf s (ka + 32768) len) (kvValues o src)) id (.ok t)

/-! ### The prefix index (R319 to R321) -/

/-- CRC-32C over one byte, bit by bit (R319). -/
def crcByte : Nat → Nat → Nat
  | 0, c => c
  | n + 1, c => crcByte n (if c % 2 = 1 then (c / 2) ^^^ 0x82F63B78 else c / 2)

/-- CRC-32C of bytes in address order (R319). -/
def crc32c (bs : List Byte) : Nat := (bs.foldl (fun c b => crcByte 8 (c ^^^ b.toNat)) 0xFFFFFFFF) ^^^ 0xFFFFFFFF

/-- The bucket of a tag (R319). -/
def bucketOf (tag : List Byte) : Nat := crc32c tag % 2 ^ 18

/-- The entry that a tag matches for a context (R319). -/
def pxMatch (s : State) (ctx : BitVec 12) (tag : List Byte) : Option PxEnt := s.pxi.find? (fun e => e.ctx == ctx && e.tag == tag)

/-- The result word of a prefix operation (R320). -/
def pxWord (blk : BitVec 32) (st : Nat) : Nat := blk.toNat + st * 2 ^ 32

/-- The effect of a prefix operation on the index, and its result word (R320). -/
def pxAct (k : GKind) (ctx : BitVec 12) (tag : List Byte) (blk : BitVec 32) (s : State) : State × Nat :=
  match k, pxMatch s ctx tag with
  | .pxlook, some e => (s, pxWord e.blk 0)
  | .pxlook, none => (s, pxWord 0 1)
  | .pxins, some e => (s, pxWord e.blk 2)
  | .pxins, none =>
    if 4 ≤ (s.pxi.filter (fun e => bucketOf e.tag == bucketOf tag)).length then (s, pxWord 0 3)
    else ({ s with pxi := s.pxi ++ [⟨ctx, tag, blk⟩] }, pxWord blk 0)
  | _, some e => if e.blk = blk then ({ s with pxi := s.pxi.erase e }, pxWord e.blk 0) else (s, pxWord e.blk 4)
  | _, none => (s, pxWord 0 1)

/-- Whether the index can serve (R319, R320, R353). -/
def pxServes (s : State) : Bool := s.dev.pxReady && s.dev.st != .quickset

/-- A prefix operation in the engine (R320): bytes 0 to 71 are read, and RES is written last. -/
def pxElement (o : GOp) (s : State) : Elem :=
  if !pxServes s then .fault (exc 0x2A 5)
  else
    let bs := spaceRead s (.sp s.cur) o.loc 72
    let act (t : State) : State × Nat := pxAct o.kind (core s).ctx (bs.take 68) (BitVec.ofNat 32 (leNat (bs.drop 68))) t
    access s [here s o.loc 80] [{ sp := .sp s.cur, addr := o.loc + 72, bytes := leBytes 8 (act s).2 }] (fun t => (act t).1) (do
      let t ← gaLocal .read o.loc 72 s
      gaLocal .write (o.loc + 72) 8 t)

/-! ### The engine's steps (R310, R312, R313) -/

/-- The number of elements of an operation. -/
def gopCount (o : GOp) : Nat :=
  match o.kind with
  | .gath _ => o.n
  | .scat => o.n
  | _ => 1

/-- The element of an operation at its progress P. -/
def gopElem (o : GOp) (s : State) : Elem :=
  match o.kind with
  | .gath _ => gatherElem o s
  | .scat => gatherElem o s
  | .kvapp nr => kvElement o nr s
  | _ => pxElement o s

/-- The operation's place among the gather opcodes (R313). -/
def GKind.code : GKind → Nat
  | .gath _ => 0 | .scat => 1 | .kvapp _ => 3 | .pxlook => 4 | .pxins => 5 | .pxdrop => 6

/-- The head of the acting core's queue changed. -/
def setHead (o : GOp) (s : State) : State := updCore (fun c => { c with gather := { c.gather with q := c.gather.q.set 0 o } }) s

/-- Engine work of the acting core goes on for the context that it belongs to (R264): that of a save image which `pick`
chooses, else the core's own. A saved context's work acts in the core's place, on its scratchpad. -/
def onImage (pick : Image → Bool) (f : State → State) (s : State) : State :=
  match s.images.find? (fun i => i.core == s.cur && pick i) with
  | none => f s
  | some i =>
    let live := core s
    let s2 := f (setCore s { i.saved with sp := live.sp, istore := live.istore })
    let c2 := core s2
    { setCore s2 { live with sp := c2.sp } with
      images := s2.images.map (fun j => if j = i then { i with saved := { c2 with sp := {}, istore := [] } } else j) }

/-- A gather operation goes on (R264, R310): that of a save image whose queue is not empty first. -/
def onGather (f : State → State) (s : State) : State := onImage (fun i => !i.saved.gather.q.isEmpty) f s

/-- The acting core with its gather queue as the engine works on it: that of a save image first. -/
def gatherView (s : State) : State :=
  match s.images.find? (fun i => i.core == s.cur && !i.saved.gather.q.isEmpty) with
  | none => s
  | some i => setCore s { i.saved with sp := (core s).sp, istore := (core s).istore }

/-- A granule of the element at P is written; with the last one the element is done, and P advances (R312). -/
def putGranule (o : GOp) (w : Piece) (rest : List Piece) (s : State) : State :=
  setHead { o with rest := rest, prog := if rest.isEmpty then o.prog + 1 else o.prog } (writePiece s w)

/-- A turn of a queue that the engine serves (R310): its head operation's next element is checked and read as its first granule is
written, and each further granule is written in a turn of its own. -/
def granuleTurn (s : State) : State :=
  match (core s).gather.q with
  | [] => s
  | o :: _ =>
    match o.rest with
    | w :: rest => putGranule o w rest s
    | [] =>
      match gopElem o s with
      | .fault _ => s
      | .waits t => t
      | .done t ws => match cutPieces ws with
        | [] => setHead { o with prog := o.prog + 1 } t
        | w :: rest => putGranule o w rest t

/-- Whether an operation has an element to perform. -/
def gopOpen (o : GOp) : Bool := !o.rest.isEmpty || decide (o.prog < gopCount o)

/-- Whether an operation is one of the prefix index, which takes them in the order of R321. -/
def isPrefix (o : GOp) : Bool :=
  match o.kind with
  | .gath _ => false | .scat => false | .kvapp _ => false | .pxlook => true | .pxins => true | .pxdrop => true

/-- Whether the engine has a granule of the queue of core `g` to move in the work for core `me`. -/
def queueGoes (s : State) (me g : Nat) : Bool :=
  let q := (core (gatherView { s with cur := g })).gather
  q.fault.isNone && q.q.head?.any (fun o => o.started && gopOpen o && (g == me || !isPrefix o))

/-- The queue of a die that has the next turn: the first behind the one served last that has a granule to move (R310). -/
def nextQueue (s : State) (me : Nat) : Option Nat :=
  let d := dieNo me
  let last := Map.get s.turns d (64 * d + 63)
  ((List.range 64).map (fun i => 64 * d + (last + 1 + i) % 64)).find? (queueGoes s me)

/-- The engine of the acting core's die serves the queue whose turn it is with one granule (R310). -/
def dieTurn (s : State) : State :=
  match nextQueue s s.cur with
  | none => s
  | some g => { onGather granuleTurn { s with cur := g, turns := Map.put s.turns (dieNo s.cur) g } with cur := s.cur }

/-- The turns of the die's engine until the acting core's head operation has no element left, or its next one faults or waits. -/
def runElems : Nat → State → Elem × State
  | 0, s => (.waits s, s)
  | fuel + 1, s =>
    let v := gatherView s
    match (core v).gather.q with
    | [] => (.done s [], s)
    | o :: _ =>
      if !gopOpen o then (.done s [], s)
      else match (if o.rest.isEmpty then gopElem o v else .done v []) with
        | .fault e => (.fault e, s)
        | .waits _ => (.waits (onGather granuleTurn s), s)
        | .done _ _ => runElems fuel (dieTurn s)

/-- The most turns that one step looks at. -/
def turnFuel : Nat := 2 ^ 48

/-- The operation at the head of the acting core's gather queue, where the queue goes on: it is not FAULTED. -/
def headOp (s : State) : Option GOp :=
  let q := (core (gatherView s)).gather
  if q.fault.isSome then none else q.q.head?

/-- The head operation starts; where it has started, the engine has a turn (R310, log 1). -/
def startOp (s : State) : State :=
  match headOp s with
  | none => s
  | some o => if o.started then dieTurn s else onGather (setHead { o with started := true }) s

/-- GATHER_OP_START (R310). -/
def execGatherOpStart (s : State) : Out := .next (startOp s)

/-- The head operation leaves the queue, complete: GDONE increments (R310). -/
def popOp (s : State) : State :=
  updCore (fun c => { c with gather := { c.gather with q := c.gather.q.tail, gdone := c.gather.gdone + 1 } }) s

/-- The head operation performs what is left of it and completes, while the engine goes on with the other queues of its die (R310). -/
def completeOp (s : State) : State :=
  match headOp s with
  | none => s
  | some o =>
    if !o.started then s
    else match runElems turnFuel s with
      | (.done t _, _) => onGather popOp t
      | (.fault _, t) => t
      | (.waits t, _) => t

/-- GATHER_OP_COMPLETE (R310). -/
def execGatherOpComplete (s : State) : Out := .next (completeOp s)

/-- The queue is FAULTED at its head operation's element (R313). -/
def markFault (e : Exc) (s : State) : State :=
  match (core s).gather.q with
  | [] => s
  | x :: _ =>
    let f : Exc := { e with fslot := x.slot.num, defer := true, w3 := word (x.prog % 2 ^ 32 + x.kind.code * 2 ^ 32) }
    updCore (fun c => { c with gather := { c.gather with fault := some f, told := false } }) s

/-- An element faults (R313): those below P stand, and the queue is FAULTED. -/
def faultOp (s : State) : State :=
  match headOp s with
  | none => s
  | some o =>
    if !o.started then s
    else match runElems turnFuel s with
      | (.fault e, t) => onGather (markFault e) t
      | (.done _ _, _) => s
      | (.waits _, _) => s

/-- GATHER_ELEMENT_FAULT (R313). -/
def execGatherElementFault (s : State) : Out := .next (faultOp s)

end Sys2Proof.Machine
end

