-- ==== Sys2Proof/Machine/Queue.lean ====
section
/-! DEFINITION. The queue (R273 to R279, R287): message queues with QPUT and QTAKE, graph nodes with GNEW, GDEP and GARM, and
LAUNCH. -/

namespace Sys2Proof.Machine

open Sys2Proof

/-! ### Message queues (R273) -/

/-- The number of messages that a queue holds (R273). -/
def queueCount (q : MQueue) : Nat := (q.tail - q.head).toNat

/-- Where a queue's storage begins: the base of its region while the region still holds its bytes (log 31). -/
def queueBase (s : State) (q : MQueue) : Option Nat :=
  match regionOf s.regions q.region with
  | none => none
  | some (_, r) => if r.st = .scrubbed then none else some r.base

/-- A queue replaced. -/
def setQueue (qid : Nat) (q : MQueue) (s : State) : State := { s with queues := Map.put s.queues qid q }

/-- A message appended to a queue, which ends the wait of its waiters (R273, R275), by `write`; nothing where the queue is full. -/
def putMsg (write : Nat → List Byte → State → State) (qid : Nat) (q : MQueue) (msg : List Byte) (s : State) : Option State :=
  match queueBase s q with
  | none => none
  | some base =>
    if q.slots ≤ queueCount q then none
    else some (wakeQueue qid (setQueue qid { q with tail := q.tail + 1 }
      (write (base + 64 * (q.tail.toNat % q.slots)) msg s)))

/-- A message on an outbound queue leaves as it takes effect (R273, R337). -/
def sendMsg (qid : Nat) (q : MQueue) (msg : List Byte) (s : State) : State :=
  wakeQueue qid (setQueue qid { q with head := q.head + 1, tail := q.tail + 1 }
    (sendHost { type := 0x01, ctx := q.owner, queue := BitVec.ofNat 16 qid, payload := msg } s))

/-- Where the message at the head of a queue lies, if it holds one (R273). -/
def headPlace (s : State) (q : MQueue) : Option Nat :=
  if queueCount q = 0 then none else (queueBase s q).map (fun base => base + 64 * (q.head.toNat % q.slots))

/-- The message at the head of a queue (R273). -/
def headMsg (s : State) (q : MQueue) : Option (List Byte) := (headPlace s q).map (fun a => Memory.readBytes s.dram.hbm a 64)

/-- The read of that message counted (R331). -/
def noteHead (q : MQueue) (s : State) : State :=
  match headPlace s q with
  | some a => noteReads .hbm a 64 s
  | none => s

/-- The result word of the queue instructions (R279): VAL, ST and CLAMP. -/
def queueWord (val st : Nat) (clamp : Bool) : Word := word (val % 2 ^ 32 + st * 2 ^ 32 + boolNat clamp * 2 ^ 40)

/-- The queue that a register names, for a context and an operation that the direction `bad` forbids: else QUEUE (R279). -/
def queueFor (s : State) (x : Word) (bad : BitVec 2) : Except Exc (Nat × MQueue) :=
  let qid := (fld x 0 16).toNat
  match Map.find? s.queues qid with
  | none => .error (exc 0x29 (word qid))
  | some q => if qid = 0 ∨ q.owner ≠ (core s).ctx ∨ q.dir = bad then .error (exc 0x29 (word qid)) else .ok (qid, q)

/-- A slot access of 64 bytes, aligned (R75). -/
def check64 (k : Acc) (a : Nat) (s : State) : Except Exc State := checkLocal .sl k a 64 64 s

/-- 64 bytes of scratchpad read by the S slot (R75, R51). -/
def read64 (a : Nat) (s : State) : Except Exc (List Byte × State) := do
  let t ← check64 .read a s
  checkPoison (core s) a 64
  .ok (Memory.readBytes (viewMem (core s)) a 64, t)

/-- QPUT (R279): the result lands after 32 issue cycles. -/
def execQput (p : Pred) (d a : Reg) (la : Bool) (b : Reg) (lb : Bool) (s : State) : Out :=
  .next (issue .s p (marksOf a la ++ marksOf b lb) (fun s => do
    let x ← rdX (core s) .s a
    let y ← rdX (core s) .s b
    let (qid, q) ← queueFor s x 0
    let (msg, t) ← read64 y.toNat s
    let t1 := keepOld t
    let (st, t2) := if q.dir = 1 then (0, sendMsg qid q msg t1)
      else match putMsg (spaceWrite s.cur .hbm) qid q msg t1 with
        | none => (1, t)
        | some t2 => (0, t2)
    .ok (updCore (resX .s d (queueWord 0 st false) 32) t2)) s)

/-- Whether a node of a context can become the waiter of a queue (R279): a BUILT event node with W = 0 that names it. -/
def canWait (s : State) (ctx : BitVec 12) (qid : Nat) (id : BitVec 32) : Bool :=
  match nodeOf s id with
  | none => false
  | some (_, n) => n.owner == ctx && n.st == .built && n.kind == .event && !bit ((n.desc[0]?).getD 0) 0
      && (fld ((n.desc[0]?).getD 0) 1 16).toNat == qid

/-- QTAKE and QTAKE.W (R279): the result lands after 32 issue cycles. -/
def execQtake (p : Pred) (d a : Reg) (la : Bool) (b : Reg) (lb : Bool) (w : Bool) (s : State) : Out :=
  .next (issue .s p (marksOf a la ++ marksOf b lb) (fun s => do
    let x ← rdX (core s) .s a
    let y ← rdX (core s) .s b
    let (qid, q) ← queueFor s x 1
    if fld x 48 16 ≠ 0 then .error (illegalOp s)
    else do
      let t ← check64 .write y.toNat s
      let res (v : Word) (s : State) : Except Exc State := .ok (updCore (resX .s d v 32) s)
      match headMsg s q with
      | some msg =>
        let t1 := setQueue qid { q with head := q.head + 1 } (slotStore .s (placeBytes y.toNat msg) (noteHead q t))
        res (queueWord (queueCount q - 1) 0 false) t1
      | none =>
        if !w then res (queueWord 0 2 false) s
        else if q.waiter.isSome || !canWait s (core s).ctx qid (fld x 16 32) then res (queueWord 0 3 false) s
        else res (queueWord 0 2 false) (setQueue qid { q with waiter := some (fld x 16 32) } s)) s)

/-! ### Nodes (R274, R275, R279, R282) -/

/-- The words of a descriptor's 64 bytes. -/
def descWords (bs : List Byte) : List Word := (List.range 8).map (fun i => word (leNat ((bs.drop (8 * i)).take 8)))

/-- Whether the words of a descriptor from `i` on are zero. -/
def zeroFrom (ws : List Word) (i : Nat) : Bool := (ws.drop i).all (· == 0)

/-- The rent term of a kernel descriptor (R282). -/
def descTerm (ws : List Word) : Nat :=
  let t := (fld (descWord ws 2) 32 20).toNat
  if t = 0 then 2 ^ 20 else t

/-- The shape of a kernel descriptor (R282): cores per cluster, clusters per die, dies. -/
def descShape (ws : List Word) : Nat × Nat × Nat :=
  ((fld (descWord ws 3) 0 4).toNat, (fld (descWord ws 3) 4 4).toNat, (fld (descWord ws 3) 8 3).toNat)

/-- Whether a kernel descriptor has every field in its range and no reserved bit set (R282). -/
def kernelDescOk (ws : List Word) : Bool :=
  let (nc, nl, nd) := descShape ws
  fld (descWord ws 0) 16 48 == 0 && fld (descWord ws 1) 0 6 == 0 && (fld (descWord ws 2) 52 3).toNat ≤ 4
    && fld (descWord ws 2) 56 8 == 0 && fld (descWord ws 3) 27 37 == 0
    && decide (1 ≤ nc ∧ nc ≤ 8 ∧ 1 ≤ nl ∧ nl ≤ 8 ∧ 1 ≤ nd ∧ nd ≤ 4)

/-- Whether a copy descriptor has every field in its range and no reserved bit set (R274). -/
def copyDescOk (ws : List Word) : Bool :=
  fld (descWord ws 0) 16 48 == 0 && decide (1 ≤ (descWord ws 4).toNat ∧ (descWord ws 4).toNat ≤ 2 ^ 40) && zeroFrom ws 5

/-- Whether an event descriptor has every field in its range and no reserved bit set (R274). -/
def eventDescOk (ws : List Word) : Bool :=
  fld (descWord ws 0) 17 47 == 0 && zeroFrom ws 3
    && (!bit (descWord ws 0) 0 || ((descWord ws 1).toNat % 8 == 0 && decide ((descWord ws 1).toNat + 8 ≤ spSize)))

/-- The kind that GNEW's mod names; 3 is illegal at decode. -/
def kindOf (k : BitVec 2) : NKind :=
  match k.toNat with
  | 0 => .kernel
  | 1 => .copy
  | _ => .event

/-- Whether a descriptor of a kind is legal (R274, R282, log 32). -/
def descOk (k : NKind) (ws : List Word) : Bool :=
  match k with
  | .kernel => kernelDescOk ws
  | .copy => copyDescOk ws
  | .event => eventDescOk ws

/-- Whether QUICKSET turns a launch away (R353): a kernel of more than one die. -/
def tooWide (s : State) (k : NKind) (ws : List Word) : Bool :=
  s.dev.st == .quickset && k == .kernel && decide (1 < (descShape ws).2.2)

/-- Whether an entry of the launch queue is FREE. -/
def nodeFree (s : State) (key : Nat) : Bool :=
  match Map.find? s.nodes key with
  | none => true
  | some n => n.st == .free

/-- A node made by GNEW (R274, R275, R279): BUILT, with no predecessor, and its priority no higher than the context's CEIL. -/
def newNode (key : Nat) (k : NKind) (ws : List Word) (fl : Word) (s : State) : Node :=
  let pr := fld fl 0 8
  let ceil := (myCtx s).ceil
  { gen := (Map.get s.nodes key {}).gen, st := .built, kind := k, owner := (core s).ctx
    prio := if ceil < pr then ceil else pr, skip := bit fl 8, pre := bit fl 9, home := s.cur, desc := ws }

/-- GNEW up to its result word (R279): the state with the new node, its key if there is one, and the word. -/
def gnew (k : NKind) (a b : Reg) (s : State) : Except Exc (State × Option Nat × Word) := do
  let x ← rdX (core s) .s a
  let fl ← rdX (core s) .s b
  if fld fl 10 54 ≠ 0 then .error (illegalOp s)
  else do
    let (bs, t) ← read64 x.toNat s
    let ws := descWords bs
    if !descOk k ws then .error (illegalOp s)
    else if tooWide s k ws then .ok (t, none, queueWord 0 6 false)
    else match pickFree s (nodeFree s) 0 65536 with
      | none => .ok (t, none, queueWord 0 1 false)
      | some key =>
        let n := newNode key k ws fl s
        .ok ((draw (setNode key n t)).2, some key,
          queueWord (nodeId key n).toNat 0 (decide ((myCtx s).ceil < fld fl 0 8)))

/-- GNEW (R279): the result lands after 16 issue cycles. -/
def execGnew (p : Pred) (d a : Reg) (la : Bool) (b : Reg) (lb : Bool) (k : BitVec 2) (s : State) : Out :=
  .next (issue .s p (marksOf a la ++ marksOf b lb) (fun s => do
    let (t, _, w) ← gnew (kindOf k) a b s
    .ok (updCore (resX .s d w 16) t)) s)

/-- The node of the running context that a register names; one of another context reads as stale (R279). -/
def myNode (s : State) (x : Word) : Option (Nat × Node) :=
  match nodeOf s (fld x 0 32) with
  | none => none
  | some (k, n) => if n.owner = (core s).ctx then some (k, n) else none

/-- The status of GDEP, and the keys of its nodes when it is OK (R279). -/
def gdepStatus (s : State) (x y : Word) : Nat × Nat × Nat :=
  match myNode s y with
  | none => (5, 0, 0)
  | some (kb, m) =>
    if m.st ≠ .built then (5, 0, 0)
    else match myNode s x with
      | none => (4, 0, 0)
      | some (ka, n) => if m.cnt = 65535 ∨ n.succ.length = 64 then (6, 0, 0) else (0, ka, kb)

/-- An edge from one node to another (R275). -/
def addEdge (ka kb : Nat) (s : State) : State :=
  let m := Map.get s.nodes kb {}
  let s1 := setNode kb { m with cnt := m.cnt + 1 } s
  let n := Map.get s1.nodes ka {}
  setNode ka { n with succ := n.succ ++ [nodeId kb m] } s1

/-- GDEP (R279). -/
def execGdep (p : Pred) (d a : Reg) (la : Bool) (b : Reg) (lb : Bool) (s : State) : Out :=
  .next (issue .s p (marksOf a la ++ marksOf b lb) (fun s => do
    let x ← rdX (core s) .s a
    let y ← rdX (core s) .s b
    let (st, ka, kb) := gdepStatus s x y
    .ok (updCore (resX .s d (queueWord 0 st false) 16) (if st = 0 then addEdge ka kb s else s))) s)

/-- GARM (R275, R279). -/
def execGarm (p : Pred) (d a : Reg) (la : Bool) (s : State) : Out :=
  .next (issue .s p (marksOf a la) (fun s => do
    let x ← rdX (core s) .s a
    let (st, t) := match myNode s x with
      | none => (5, s)
      | some (k, n) => if n.st = .built then (0, armNode k n (keepOld s)) else (5, s)
    .ok (updCore (resX .s d (queueWord 0 st false) 16) t)) s)

/-- LAUNCH (R287): GNEW.0, then GARM. -/
def execLaunch (p : Pred) (d a : Reg) (la : Bool) (b : Reg) (lb : Bool) (s : State) : Out :=
  .next (issue .s p (marksOf a la ++ marksOf b lb) (fun s => do
    let (t, k, w) ← gnew .kernel a b s
    let t1 := match k with
      | none => t
      | some key => armNode key (Map.get t.nodes key {}) t
    .ok (updCore (resX .s d w 16) t1)) s)

/-! ### The driver's part (R273, R337) -/

/-- A queue made at the driver's request (R273): 2^`logSlots` slots over an HBM region of its owner that holds them. -/
def createQueue (qid : BitVec 16) (ctx : BitVec 12) (dir : BitVec 2) (logSlots : BitVec 5) (region : BitVec 32)
    (s : State) : Option State :=
  match regionOf s.regions region with
  | none => none
  | some (_, r) =>
    if qid = 0 ∨ (Map.find? s.queues qid.toNat).isSome ∨ (ctxAt s ctx).st = .free ∨ dir = 3 ∨ 16 < logSlots.toNat
        ∨ r.owner ≠ ctx ∨ r.subl.isSome ∨ r.kind ≠ .hbm ∨ r.size < 64 * 2 ^ logSlots.toNat then none
    else some (setQueue qid.toNat { owner := ctx, dir := dir, region := region, slots := 2 ^ logSlots.toNat } s)

/-- QUEUE_CREATE (R273). -/
def execQueueCreate (qid : BitVec 16) (ctx : BitVec 12) (dir : BitVec 2) (logSlots : BitVec 5) (region : BitVec 32)
    (s : State) : Out := admin (createQueue qid ctx dir logSlots region) s

end Sys2Proof.Machine
end

