-- ==== Sys2Proof/Machine/Kernel.lean ====
section
/-! DEFINITION. The kernel (R276 to R288): the image and its checks, the choice of cores, placement, dispatch with
pre-emption, retirement, and copy nodes. -/

namespace Sys2Proof.Machine

open Sys2Proof

/-! ### The image (R280, R281) -/

/-- A part of an image that a later step reads (R283): the ranges of HBM that it reads, and what stands there, or nothing where
it lies beyond the handle's length (R205). -/
structure Part (α : Type) where
  src : List (Nat × Nat)
  val : Option α
  deriving DecidableEq, Repr

/-- An overlay of an image (R281): its record, and its words with their begin bits. -/
structure Overlay where
  ibase : Nat
  nw : Nat
  res : Bool
  rtag : BitVec 32
  words : Part (List (IWord × Bool))
  deriving DecidableEq, Repr

/-- A routine of an image in the format of MUPL (R173, R281): its directory index, its header and its code. -/
structure KRoutine where
  idx : Nat
  code : Part (Word × Word × List Word)
  deriving DecidableEq, Repr

/-- A kernel image that has passed step 1 of R283: `src` are the ranges that the step has read. -/
structure KImage where
  entry : BitVec 18
  carve : Nat
  litLen : Nat
  lit : Part (List Byte)
  ovls : List Overlay
  routs : List KRoutine
  src : List (Nat × Nat)
  deriving DecidableEq, Repr

/-- The results of a function over a list, or nothing where it fails on some element. -/
def mapAll {α β : Type} (f : α → Option β) : List α → Option (List β)
  | [] => some []
  | x :: xs =>
    match f x, mapAll f xs with
    | some y, some ys => some (y :: ys)
    | _, _ => none

/-- The words of 8 bytes each of a list of bytes. -/
def wordsOf (n : Nat) (bs : List Byte) : List Word := (List.range n).map (fun i => word (leNat ((bs.drop (8 * i)).take 8)))

/-- The image reader of a descriptor (R282, R283 step 1, R205): where the image lies in HBM, and the bytes at an offset of it,
through IHND of KIND 0 with RD, within its length. -/
def imageReader (s : State) (x : Ctx) (ws : List Word) : Option (Nat × (Nat → Nat → Option (List Byte))) :=
  match handleEnt x (fld (descWord ws 0) 0 16).toNat with
  | none => none
  | some e =>
    if hKIND e ≠ 0 ∨ !hRD e then none
    else
      let io := (descWord ws 1).toNat
      some (hBASE e + io,
        fun off n => if hLEN e < io + off + n then none else some (Memory.readBytes s.dram.hbm (hBASE e + io + off) n))

/-- Whether an image header is legal (R280). -/
def headerLegal (h : List Word) : Bool :=
  let w0 := descWord h 0
  let w1 := descWord h 1
  fld w0 0 8 == 1 && decide (1 ≤ (fld w0 8 8).toNat ∧ (fld w0 8 8).toNat ≤ 16) && fld w0 24 8 == 0
    && (fld w0 32 2 == 0 && fld w0 50 14 == 0)
    && decide ((fld w1 0 7).toNat ≤ 64) && fld w1 7 25 == 0
    && (fld w1 32 6 == 0 && decide ((fld w1 32 32).toNat ≤ 65536))
    && fld (descWord h 2) 0 6 == 0 && fld (descWord h 3) 0 6 == 0 && fld (descWord h 4) 0 6 == 0 && zeroFrom h 5

/-- An overlay record checked (R281); `b` is where the image lies. -/
def readOverlay (b : Nat) (rd : Nat → Nat → Option (List Byte)) (r : List Word) : Option Overlay :=
  let w0 := descWord r 0
  let ib := (fld w0 0 18).toNat
  let nw := (fld w0 18 17).toNat
  let wo := (descWord r 1).toNat
  let mo := (descWord r 2).toNat
  if ib % 4 ≠ 0 ∨ nw = 0 ∨ 65536 < nw ∨ 65536 < ib / 4 + nw ∨ fld w0 36 28 ≠ 0 ∨ wo % 64 ≠ 0
      ∨ mo % 64 ≠ 0 ∨ fld (descWord r 3) 32 32 ≠ 0 then none
  else
    let words := match rd wo (4 * nw), rd mo ((nw + 7) / 8) with
      | some bs, some mp => some ((List.range nw).map (fun i =>
          (BitVec.ofNat 32 (leNat ((bs.drop (4 * i)).take 4)), ((mp[i / 8]?).getD 0).getLsbD (i % 8))))
      | _, _ => none
    some { ibase := ib, nw := nw, res := bit w0 35, rtag := fld (descWord r 3) 0 32
           words := ⟨[(b + wo, 4 * nw), (b + mo, (nw + 7) / 8)], words⟩ }

/-- The bytes of a routine's code as its header gives them; a length that R173 refuses is left to step 4. -/
def codeBytes (h0 h1 : Word) : Nat := if 1536 < (entOf h0 h1).len then 0 else 8 * (entOf h0 h1).len

/-- A routine record checked (R281). -/
def readRoutine (b : Nat) (rd : Nat → Nat → Option (List Byte)) (r : List Word) : Option KRoutine :=
  let off := (descWord r 1).toNat
  if fld (descWord r 0) 8 56 ≠ 0 ∨ off % 64 ≠ 0 then none
  else
    let code : Part (Word × Word × List Word) := match rd off 16 with
      | none => ⟨[(b + off, 16)], none⟩
      | some hb =>
        let hs := wordsOf 2 hb
        let n := codeBytes (descWord hs 0) (descWord hs 1)
        ⟨[(b + off, 16 + n)], (rd (off + 16) n).map (fun bs => (descWord hs 0, descWord hs 1, wordsOf (n / 8) bs))⟩
    some { idx := (fld (descWord r 0) 0 8).toNat, code := code }

/-- Whether some instruction-store word lies in two overlays (R281). -/
def overlaysMeet : List Overlay → Bool
  | [] => false
  | o :: os => os.any (fun x => overlaps o.ibase (4 * o.nw) x.ibase (4 * x.nw)) || overlaysMeet os

/-- The literal block of an image (R280): nothing is read where it has no byte. -/
def readLit (b : Nat) (rd : Nat → Nat → Option (List Byte)) (off n : Nat) : Part (List Byte) :=
  if n = 0 then ⟨[], some []⟩ else ⟨[(b + off, n)], rd off n⟩

/-- The image that a descriptor names: its header and records, read and checked (R283 step 1). -/
def readImage (s : State) (x : Ctx) (ws : List Word) : Option KImage :=
  match imageReader s x ws with
  | none => none
  | some (b, rd) =>
    match rd 0 64 with
    | none => none
    | some hb =>
      let h := wordsOf 8 hb
      if !headerLegal h then none
      else
        let no := (fld (descWord h 0) 8 8).toNat
        let nr := (fld (descWord h 0) 16 8).toNat
        let oo := (descWord h 3).toNat
        let ro := (descWord h 4).toNat
        let ln := (fld (descWord h 1) 32 32).toNat
        let recs (off size n : Nat) : Option (List (List Word)) :=
          mapAll (fun i => (rd (off + size * i) size).map (wordsOf (size / 8))) (List.range n)
        match recs oo 32 no, recs ro 16 nr with
        | some os, some rs =>
          match mapAll (readOverlay b rd) os, mapAll (readRoutine b rd) rs with
          | some ovls, some routs =>
            if overlaysMeet ovls then none
            else some { entry := fld (descWord h 0) 32 18, carve := 4096 * (fld (descWord h 1) 0 7).toNat, litLen := ln
                        lit := readLit b rd (descWord h 2).toNat ln, ovls := ovls, routs := routs
                        src := [(b, 64), (b + oo, 32 * no), (b + ro, 16 * nr)] }
          | _, _ => none
        | _, _ => none

/-! ### The choice of cores (R282, R283) -/

/-- The sublists of `n` elements, in the order of their places. -/
def choose {α : Type} : Nat → List α → List (List α)
  | 0, _ => [[]]
  | _ + 1, [] => []
  | n + 1, x :: xs => (choose n xs).map (x :: ·) ++ choose (n + 1) xs

/-- Whether one list of core numbers is smaller than another at the first place where they differ. -/
def lexLess : List Nat → List Nat → Bool
  | a :: as, b :: bs => decide (a < b) || (a == b && lexLess as bs)
  | _, _ => false

/-- A choice of cores with the number of them that hold every resident overlay. -/
abbrev Choice := Nat × List Nat

/-- Whether a choice is better than another (R283). -/
def betterChoice (a b : Choice) : Bool := decide (b.1 < a.1) || (a.1 == b.1 && lexLess a.2 b.2)

/-- The best of some choices. -/
def bestChoice : List Choice → Option Choice
  | [] => none
  | c :: cs =>
    match bestChoice cs with
    | none => some c
    | some d => if betterChoice d c then some d else some c

/-- Choices put together. -/
def joinChoices (cs : List Choice) : Choice := (cs.foldl (fun n c => n + c.1) 0, (cs.map (·.2)).flatten)

/-- The best choice of `n` cores of a cluster, of those free (R283). -/
def clusterChoice (free holds : Nat → Bool) (n k : Nat) : Option Choice :=
  let gs := ((List.range 8).map (8 * k + ·)).filter free
  bestChoice ((choose n gs).map (fun c => ((c.filter holds).length, c)))

/-- The best choice of `nl` clusters of a die with `nc` cores each. -/
def dieChoice (free holds : Nat → Bool) (nc nl die : Nat) : Option Choice :=
  let cs := ((List.range 8).map (8 * die + ·)).filterMap (clusterChoice free holds nc)
  bestChoice ((choose nl cs).map joinChoices)

/-- The cores that a shape takes among the free ones, ascending: their place is their rank (R282, R283). -/
def chooseCores (free holds : Nat → Bool) (shape : Nat × Nat × Nat) : Option (List Nat) :=
  let (nc, nl, nd) := shape
  let ds := (List.range 4).filterMap (dieChoice free holds nc nl)
  (bestChoice ((choose nd ds).map joinChoices)).map (·.2)

/-- Whether every word of an overlay's range is valid on a core. -/
def wordsValid (c : Core) (ibase nw : Nat) : Bool :=
  (c.istore.filter (fun x => decide (ibase / 4 ≤ x.1 ∧ x.1 < ibase / 4 + nw))).length == nw

/-- Whether a residency entry is that of an overlay for a context (R284). -/
def matchesOverlay (id : BitVec 12) (o : Overlay) (r : Resident) : Bool :=
  r.ctx == id && r.rtag == o.rtag && r.ibase.toNat == o.ibase && r.nw == o.nw

/-- Whether a core holds an entry of the context for every resident overlay (R283). -/
def holdsAll (s : State) (id : BitVec 12) (ovls : List Overlay) (g : Nat) : Bool :=
  (ovls.filter (·.res)).all (fun o => (coreAt s g).resid.any (matchesOverlay id o))

/-- Whether a core is free for a kernel (R283): IDLE, or among those that are being freed for it. -/
def freeCore (s : State) (extra : List Nat) (g : Nat) : Bool := (coreAt s g).st == .idle || extra.contains g

/-- The images of a node's saved cores (R269). -/
def nodeImages (s : State) (id : BitVec 32) : List Image := s.images.filter (fun i => i.node == id)

/-- The cores that a kernel node would take, if `extra` were free as well: those of its images, or a fresh choice. -/
def fit (s : State) (extra : List Nat) (key : Nat) (n : Node) : Option (List Nat) :=
  let is := (nodeImages s (nodeId key n)).map (·.core)
  if !n.cores.isEmpty then (if !is.isEmpty && is.all (freeCore s extra) then some is else none)
  else
    let ovls := match readImage s (ctxAt s n.owner) n.desc with
      | some i => i.ovls
      | none => []
    chooseCores (freeCore s extra) (holdsAll s n.owner ovls) (descShape n.desc)

/-! ### Placement (R283, R284) -/

/-- A launch region (R283 step 2, R284): rented for TERM ticks on a core, or nothing where RENT would not be OK. -/
def rentLaunch (kind : RKind) (owner : BitVec 12) (g base size term : Nat) (s : State) : Option (BitVec 32 × State) :=
  let charge := size * kind.rate * term
  if alwSeen s owner < charge ∨ rangeTaken s kind g base size then none
  else match freeEntryOf s kind g with
    | none => none
    | some key =>
      let r : Region :=
        { kind := kind, st := .held, owner := owner, place := base, base := base, size := size, pu := s.tick + term
          phase := freshPhase g, term := some term }
      let s1 := enterRegion key r (addAlw owner (-(charge : Nat)) (draw s).2)
      some (handleOf key (Map.get s1.regions key {}), s1)

/-- Overlays in ascending order. -/
def byBase : List Overlay → List Overlay
  | [] => []
  | o :: os => insertAt o (byBase os)
where
  /-- An overlay at its place. -/
  insertAt (o : Overlay) : List Overlay → List Overlay
    | [] => [o]
    | x :: xs => if o.ibase ≤ x.ibase then o :: x :: xs else x :: insertAt o xs

/-- The spans of the IS regions (R283 step 2): overlays rounded out to 64 bytes, joined where they overlap or meet. -/
def spansOf : List Overlay → List (Nat × Nat)
  | [] => []
  | o :: os =>
    let lo := o.ibase / 64 * 64
    let hi := roundUp 64 (o.ibase + 4 * o.nw)
    match spansOf os with
    | [] => [(lo, hi)]
    | (a, b) :: rest => if a ≤ hi then (lo, max hi b) :: rest else (lo, hi) :: (a, b) :: rest

/-- The base of the region of the literal block and the carve-out (R283 step 2). -/
def litBase (i : KImage) : Nat := spSize - i.carve - i.litLen

/-- The regions that a core rents at launch (R283 step 2). -/
def launchSpans (i : KImage) : List (RKind × Nat × Nat) :=
  (spansOf (byBase (i.ovls.filter (fun o => !o.res)))).map (fun x => (RKind.is, x.1, x.2 - x.1))
    ++ (if i.carve = 0 ∧ i.litLen = 0 then [] else [(RKind.sp, litBase i, i.carve + i.litLen)])

/-- Step 2 of R283 on a core: the handles rented so far, and whether it failed. -/
def rentAll (owner : BitVec 12) (g term : Nat) : List (RKind × Nat × Nat) → List (BitVec 32) → State → Bool × List (BitVec 32) × State
  | [], hs, s => (true, hs, s)
  | (k, base, size) :: rest, hs, s =>
    match rentLaunch k owner g base size term s with
    | none => (false, hs, s)
    | some (h, s1) => rentAll owner g term rest (hs ++ [h]) s1

/-- Whether a resident overlay lies in an IS region that the context holds and rented itself (R284). -/
def residentHeld (s : State) (owner : BitVec 12) (g : Nat) (o : Overlay) : Bool :=
  s.regions.any (fun x => x.2.kind == .is && x.2.subl.isNone && x.1 / 1024 == g && x.2.owner == owner && x.2.term.isNone
    && x.2.st == .held && decide (x.2.base ≤ o.ibase ∧ o.ibase + 4 * o.nw ≤ x.2.base + x.2.size))

/-- The words of an overlay loaded with their tag bits (R29, R283 step 3). -/
def loadWords (base : Nat) (words : List (IWord × Bool)) (c : Core) : Core :=
  let ws := (List.range words.length).zip words
  { c with istore := ws.foldl (fun m x => Map.put m (base / 4 + x.1) ⟨x.2.1, x.2.2⟩) c.istore }

/-- The latest mark of a residency list. -/
def lastUse (rs : List Resident) : Nat := rs.foldl (fun n r => max n r.used) 0

/-- The entries with the least recently matched one dropped. -/
def dropOldest (rs : List Resident) : List Resident :=
  match rs.find? (fun r => rs.all (fun x => decide (r.used ≤ x.used))) with
  | some r => rs.erase r
  | none => rs

/-- The residency entry of an overlay written, or marked as matched (R284). -/
def noteResident (id : BitVec 12) (o : Overlay) (c : Core) : Core :=
  let others := c.resid.filter (fun r => !matchesOverlay id o r)
  let kept := if others.length < 8 then others else dropOldest others
  { c with resid := kept ++
      [{ ctx := id, rtag := o.rtag, ibase := BitVec.ofNat 18 o.ibase, nw := o.nw, used := lastUse c.resid + 1 }] }

/-- Whether a resident overlay's load is skipped: the core holds its entry, and every word of it is valid (R284). -/
def loadSkipped (id : BitVec 12) (o : Overlay) (c : Core) : Bool :=
  o.res && c.resid.any (matchesOverlay id o) && wordsValid c o.ibase o.nw

/-- The ranges of HBM that a part of an image is read from, counted as read (R331). -/
def noteSrc (src : List (Nat × Nat)) (s : State) : State := src.foldl (fun s x => noteReads .hbm x.1 x.2 s) s

/-- Step 3 of R283 for one overlay of core `g`: loaded, unless its words are there (R284); nothing where its words lie beyond the
handle. -/
def loadOverlay (id : BitVec 12) (g : Nat) (o : Overlay) (s : State) : Option State :=
  if loadSkipped id o (coreAt s g) then some (updCoreAt g (noteResident id o) s)
  else o.words.val.map (fun ws =>
    updCoreAt g (fun c => let d := loadWords o.ibase ws c; if o.res then noteResident id o d else d) (noteSrc o.words.src s))

/-- Step 3 of R283 on a core. -/
def loadOverlays (id : BitVec 12) (g : Nat) : List Overlay → State → Option State
  | [], s => some s
  | o :: os, s => (loadOverlay id g o s).bind (loadOverlays id g os)

/-- The microprogram store after step 4 (R283), or nothing where a routine is refused (R166, R173) or lies beyond the handle. -/
def loadRoutines : List KRoutine → Pme → Option Pme
  | [], p => some p
  | r :: rs, p =>
    match r.code.val with
    | none => none
    | some (h0, h1, ws) =>
      if 1536 < (entOf h0 h1).len then none
      else match verifyImage h0 h1 ws with
        | some _ => none
        | none => loadRoutines rs (storeRoutine r.idx h0 h1 ws p)

/-- The parameters that a core receives in s1 upward (R283 step 6). -/
def launchParms (ws : List Word) (rank : Nat) : List Word :=
  (List.range (fld (descWord ws 2) 52 3).toNat).map (fun i => descWord ws (4 + i)) ++ (if bit (descWord ws 2) 55 then [word rank] else [])

/-- The register files at launch (R57, R283 step 6): the parameters live, every other register dead, and banks that hold
none OFF. -/
def launchFiles (ps : List Word) : Files :=
  let live := (List.range ps.length).foldl (fun m i => m ||| (1#32 <<< (i + 1))) 0
  { x := ((List.range ps.length).zip ps).map (fun x => (x.1 + 1, x.2))
    live := if ps.isEmpty then [] else [(0, live)]
    banks := if ps.isEmpty then [] else [(0, { st := .full })] }

/-- A generator's seed (R100, R283 step 6). -/
def launchSeed (ws : List Word) (g slot : Nat) : BitVec 32 :=
  let x := fld (descWord ws 2) 0 32 ^^^ BitVec.ofNat 32 (256 * g + slot)
  if x = 0 then 1 else x

/-- The core as placement sets it up (R283 steps 4 to 6); what no step names stands as after reset (log 34). `ov` is the handle of
its overflow area (R64), and `twin` tells it apart from the kernels saved on it (R290). -/
def launchCore (node : BitVec 32) (n : Node) (i : KImage) (p : Pme) (quick : Bool) (g rank : Nat) (dmr : Word) (ov : BitVec 16)
    (twin : Nat) (c : Core) : Core :=
  let d : BitVec 2 := if quick then 3 else 0
  { vacated c with
    st := .loading, ctx := n.owner, node := node, pc := i.entry, pme := p, twin := twin
    files := launchFiles (launchParms n.desc rank)
    gens := [(0, launchSeed n.desc g 1), (1, launchSeed n.desc g 2), (2, launchSeed n.desc g 3)]
    csr := { grant := c.csr.grant, dmr := dmr, carve := BitVec.ofNat 21 (spSize - i.carve), ovpHnd := ov, vdiv := d, mdiv := d
             cdiv := d } }

/-- The number that tells a kernel placed on a core apart from those saved there (R290). -/
def freeTwin (s : State) (g : Nat) : Nat :=
  let used := (s.images.filter (fun i => i.core == g)).map (fun i => i.saved.twin)
  ((List.range (used.length + 1)).find? (fun k => !used.contains k)).getD 0

/-- The overflow area that Holly pins for a core at launch under a handle of its own (R64): its index, the area's region, and the
state; none where HBM or the handle table has no place for it. The area's size and its handle's index are the device's, and no
rent is drawn for it (log 88). -/
def pinOverflow (owner : BitVec 12) (g : Nat) (s : State) : BitVec 16 × List (BitVec 32) × State :=
  let size := 64 * Config.overflowGranules
  let x := ctxAt s owner
  match (List.range x.htlen).find? (fun i => !slotBad x i), freeEntryOf s .hbm g with
  | some k, some key =>
    if size = 0 || !hbmRoom s size then (0, [], s)
    else
      let base := newBase s .hbm size
      let r : Region :=
        { kind := .hbm, st := .held, owner := owner, place := k, base := base, size := size, pu := 2 ^ 64, phase := freshPhase g
          term := some 0 }
      let s1 := enterRegion key r (draw s).2
      let h := handleOf key (Map.get s1.regions key {})
      let y := ctxAt s1 owner
      (BitVec.ofNat 16 k, [h], setCtx s1 owner { y with handles := Map.put y.handles k (rentEntry .hbm h size base) })
  | _, _ => (0, [], s)

/-- The handles of overflow areas leave the handle table with their regions (R64). -/
def unpin (owner : BitVec 12) (hs : List (BitVec 32)) (s : State) : State :=
  let pins := hs.filter (fun h => (regionOf s.regions h).any (fun x => x.2.term == some 0))
  if pins.isEmpty then s
  else
    let x := ctxAt s owner
    setCtx s owner { x with handles := x.handles.filter (fun e => !pins.contains (fld e.2.w0 16 32)) }

/-- A core joins a group of a level, which comes to be with its first member (R289, R291). -/
def joinGroup (lvl : Nat) (owner : BitVec 12) (m : Nat) (id : BitVec 16) (s : State) : State :=
  if id = 0 then s
  else
    let x := groupAt s id
    let y : Group := if x.st = .free then { st := .compute, level := lvl, owner := owner } else x
    let before (z : Nat) : Bool := decide (memberAt z < memberAt m) || (memberAt z == memberAt m && decide (z < m))
    let others := y.members.filter (· != m)
    setGroup id { y with members := others.filter before ++ [m] ++ others.filter (fun z => !before z) } s

/-- A domain id that no live group has, whichever the device takes (R289, log 15); 0 where the pool is empty. -/
def freshDomain (s : State) : BitVec 16 × State :=
  match pickFree s (fun k => k ≠ 0 && (Map.find? s.groups k).isNone) 0 65536 with
  | none => (0, s)
  | some k => (BitVec.ofNat 16 k, (draw s).2)

/-- The level-4 domain of a descriptor (R282, R289): one that is the owner's, or that comes to be with its first member (log
35). -/
def outerOf (s : State) (n : Node) : BitVec 16 :=
  let id := fld (descWord n.desc 3) 11 16
  let x := groupAt s id
  if x.st ≠ .free ∧ (x.level ≠ 4 ∨ x.owner ≠ n.owner) then 0 else id

/-- The level-1 and level-2 ids of a placement, drawn one for each cluster and each die of it. -/
def drawIds (part : Nat → Nat) : List Nat → List (Nat × BitVec 16) → (Nat → BitVec 16 → State → State) → State →
    List (Nat × BitVec 16) × State
  | [], ids, _, s => (ids, s)
  | g :: gs, ids, join, s =>
    match List.find? (fun x : Nat × BitVec 16 => x.1 == part g) ids with
    | some x => drawIds part gs ids join (join g x.2 s)
    | none =>
      let (id, s1) := freshDomain s
      drawIds part gs (ids ++ [(part g, id)]) join (join g id s1)

/-- The id of a part of a placement. -/
def idFor (ids : List (Nat × BitVec 16)) (k : Nat) : BitVec 16 :=
  match List.find? (fun x : Nat × BitVec 16 => x.1 == k) ids with
  | some x => x.2
  | none => 0

/-- The groups of a placement joined, and the DMR of a core of it (R283, R289, R290). -/
def joinAll (n : Node) (cores : List Nat) (s : State) : (Nat → Word) × State :=
  let no (g : Nat) : Nat := g + 512 * freeTwin s g
  let join (lvl g : Nat) : BitVec 16 → State → State := joinGroup lvl n.owner (no g)
  let (l1, s1) := drawIds clusterNo cores [] (join 1) s
  let (l2, s2) := drawIds dieNo cores [] (join 2) s1
  let (l3, s3) := drawIds (fun _ => 0) cores [] (join 3) s2
  let l4 := outerOf s3 n
  (fun g => l4 ++ idFor l3 0 ++ idFor l2 (dieNo g) ++ idFor l1 (clusterNo g),
   cores.foldl (fun s g => join 4 g l4 s) s3)

/-- Steps 2 to 5 of R283 on one core: the step that failed (0 for none), the regions rented, and the microprogram store. A part
of the image that lies beyond its handle fails the step that reads it (log 36). -/
def loadCore (n : Node) (i : KImage) (g : Nat) (s : State) : Nat × List (BitVec 32) × Pme × State :=
  let (ok, hs, s1) := rentAll n.owner g (descTerm n.desc) (launchSpans i) [] s
  if !ok then (2, hs, {}, s1)
  else if !(i.ovls.filter (·.res)).all (residentHeld s1 n.owner g) then (3, hs, {}, s1)
  else match loadOverlays n.owner g i.ovls s1 with
    | none => (3, hs, {}, s1)
    | some s2 =>
      match loadRoutines i.routs {} with
      | none => (4, hs, {}, s2)
      | some p =>
        match i.lit.val with
        | none => (5, hs, {}, s2)
        | some lit =>
          (0, hs, p, updCoreAt g (fun c => { c with sp := spWrite c.sp (placeBytes (litBase i) lit) })
            (noteSrc ((i.routs.map (fun r => r.code.src)).flatten ++ i.lit.src) s2))

/-- Steps 2 to 5 on each chosen core in turn (log 36). -/
def loadCores (n : Node) (i : KImage) : List Nat → List (BitVec 32) → State → Nat × List (BitVec 32) × Pme × State
  | [], hs, s => (0, hs, {}, s)
  | [g], hs, s =>
    let (st, h1, p, s1) := loadCore n i g s
    (st, hs ++ h1, p, s1)
  | g :: gs, hs, s =>
    let (st, h1, p, s1) := loadCore n i g s
    if st ≠ 0 then (st, hs ++ h1, p, s1) else loadCores n i gs (hs ++ h1) s1

/-- The place of the next placement among all (R276, R277). -/
def nextOrder (s : State) : Nat := s.nodes.foldl (fun n x => max n (x.2.order + 1)) 0

/-- Launch regions vacated with refund (R238, R283, R286). -/
def vacateAll (hs : List (BitVec 32)) (s : State) : State :=
  hs.foldl (fun s h => match regionOf s.regions h with
    | none => s
    | some (k, r) => if r.st = .scrubbed then s else scrub k (vacateRefund s r) s) s

/-- A node goes DONE with an event that carries its id, in the cluster of the core that created it (R275, R283). -/
def failNode (key code info : Nat) (n : Node) (s : State) : State :=
  complete key (postEvent (clusterNo n.home) code n.owner (word ((nodeId key n).toNat + info)) s)

/-- LAUNCH_FAIL (R283): everything the launch rented is vacated with refund, and the node goes DONE with event 0x4C. -/
def launchFail (key step : Nat) (n : Node) (hs : List (BitVec 32)) (s : State) : State :=
  failNode key 0x4C (step * 2 ^ 32) n (vacateAll hs s)

/-- Step 6 of R283 on the chosen cores in rank order, with the overflow area of each (R64); the regions of those areas. -/
def setUpCores (id : BitVec 32) (n : Node) (i : KImage) (p : Pme) (dmr : Nat → Word) : List (Nat × Nat) → State →
    List (BitVec 32) × State
  | [], s => ([], s)
  | (rank, g) :: gs, s =>
    let (ov, pins, s1) := pinOverflow n.owner g s
    let s2 := updCoreAt g (launchCore id n i p (s.dev.st == .quickset) g rank (dmr g) ov (freeTwin s g)) s1
    let (rest, s3) := setUpCores id n i p dmr gs s2
    (pins ++ rest, s3)

/-- A kernel node placed on its cores (R283): they are LOADING until LOAD_COMPLETE, or the launch fails. -/
def placeFresh (key : Nat) (n : Node) (cores : List Nat) (s : State) : State :=
  match readImage s (ctxAt s n.owner) n.desc with
  | none => launchFail key 1 n [] s
  | some i =>
    let (st, hs, p, s1) := loadCores n i cores [] (noteSrc i.src s)
    if st ≠ 0 then launchFail key st n hs s1
    else
      let (dmr, s2) := joinAll n cores s1
      let (pins, s3) := setUpCores (nodeId key n) n i p dmr ((List.range cores.length).zip cores) s2
      let n1 : Node :=
        { n with st := .running, cores := cores, left := cores, regions := hs ++ pins, placedAt := s.now
                 order := nextOrder s, fresh := false }
      ctxSettle n.owner (setNode key n1 s3)

/-- A kernel whose cores were saved is resumed from its images (R269, R275). -/
def placeSaved (key : Nat) (n : Node) (s : State) : State :=
  (nodeImages s (nodeId key n)).foldl (fun s i => beginRestore i.core i s)
    (setNode key { n with st := .running, placedAt := s.now, order := nextOrder s, fresh := false } s)

/-! ### Copy nodes (R274, R275) -/

/-- The sides of a copy node and its length (R274). -/
def copySides (s : State) (n : Node) : Side × Side × Nat := nodeSides (ctxAt s n.owner) n

/-- Whether the handles of a copy node pass the check of R205. -/
def copyHandlesOk (s : State) (n : Node) : Bool :=
  let x := ctxAt s n.owner
  let (a, b, len) := copySides s n
  (checkHandle x (descWord n.desc 0) a Level.ss [] len false 0).isOk && (checkHandle x (descWord n.desc 2) b Level.ds [] len true 0).isOk

/-- Whether an access of a copy node is refused: a lost peer, a region that is not held, poison, or a race of class CO for
the core that created the node, under the phase in which the node was placed (R231, R250, R260, R341). -/
def nodeSideBad (s : State) (n : Node) (sd : Side) (k : Acc) (len : Nat) : Bool :=
  let sp := sideSpace n.home sd
  let a := sideAddr sd sd.base.toNat
  let lapsed := match regionOf s.regions sd.region with
    | none => true
    | some (_, r) => r.st != .held && r.st != .overdue
  lapsed || (sd.kind == 2 && (peerFault true s sd.unit.toNat a len k.writes).isSome)
    || (k == .read && (spacePoison s sp a len).isSome)
    || (raceAt true (regionsSince n.placedAt s) sp k .co n.home a len s).isSome

/-- Whether a running copy node meets a fault now. -/
def copyNodeBad (s : State) (n : Node) : Bool :=
  let (a, b, len) := copySides s n
  nodeSideBad s n a .read len || nodeSideBad s n b .write len

/-- The core that created a copy node, while it stands, live or saved, in the context that owns the node. -/
def creator (s : State) (n : Node) : Option Core :=
  let c := coreAt s n.home
  if holding c && c.ctx == n.owner then some c
  else (s.images.find? (fun i => i.core == n.home && i.ctx == n.owner)).map (·.saved)

/-- Whether a FENCE.CO of its creator holds a copy node (R255). -/
def copyHeld (s : State) (n : Node) : Bool := (creator s n).any (fun c => collHeld s n.home c n.after)

/-- The bytes that a copy node writes (R274): while its creator runs in the owner's context, mirrored granules count for that core
(R342, log 93). -/
def nodeWrite (n : Node) (sp : Space) (a : Nat) (bs : List Byte) (s : State) : State :=
  let c := coreAt s n.home
  match sp with
  | .hbm => if holding c && c.ctx == n.owner then spaceWrite n.home sp a bs s else storeHbm a bs s
  | _ => spaceWrite n.home sp a bs s

/-- An access of a copy node takes effect: its tags are recorded under the phase in which it was placed, and it is noted against the
other paths of its creator's core (R250, R251, R260). -/
def noteNode (n : Node) (k : Acc) (sp : Space) (a len : Nat) (s : State) : State :=
  noteTake n.home .co k sp a len (recordTags s (regionsSince n.placedAt s) sp k n.home a len)

/-- A running copy node's bytes moved, once no fence holds it, its banks are awake and its peer answers (R63, R255, R341): it is
DONE. -/
def finishCopy (key : Nat) (n : Node) (s : State) : State :=
  let (a, b, len) := copySides s n
  let pa := sideAddr a a.base.toNat
  let pb := sideAddr b b.base.toNat
  let sa := sideSpace n.home a
  let sb := sideSpace n.home b
  if copyHeld s n then s
  else if !spaceReady s sa pa len || !spaceReady s sb pb len then spaceWake sb pb len (spaceWake sa pa len s)
  else
    let s1 := noteNode n .write sb pb len (noteNode n .read sa pa len s)
    complete key (nodeWrite n sb pb (spaceRead s sa pa len) (noteReads sa pa len s1))

/-- A running copy node that an id names. -/
def runningCopy (s : State) (id : BitVec 32) : Option (Nat × Node) :=
  match nodeOf s id with
  | none => none
  | some (k, n) => if n.kind = .copy ∧ n.st = .running then some (k, n) else none

/-- COPY_NODE_COMPLETE (R275). -/
def execCopyNodeComplete (node : BitVec 32) (s : State) : Out :=
  .next (match runningCopy s node with
    | none => s
    | some (k, n) => if copyNodeBad s n then s else finishCopy k n s)

/-- COPY_NODE_FAULT (R275): a copy that meets a fault is DONE with event 0x4B. -/
def execCopyNodeFault (node : BitVec 32) (s : State) : Out :=
  .next (match runningCopy s node with
    | none => s
    | some (k, n) => if copyNodeBad s n then failNode k 0x4B 0 n s else s)

/-- A copy node placed (R274, R275): its handles are checked, and it runs or faults. It takes its place in the stream of class CO of
its creator's core (R255). -/
def placeCopy (key : Nat) (n : Node) (s : State) : State :=
  let c := coreAt s n.home
  let mine := holding c && c.ctx == n.owner
  let s0 := if mine then updCoreAt n.home takeSeq s else s
  let s1 := setNode key { n with st := .running, placedAt := s.now, order := nextOrder s, fresh := false
                                 seq := if mine then c.eseq else 0, after := if mine then c.coFence else 0 } s0
  if copyHandlesOk s n then s1 else failNode key 0x4B 0 n s1

/-! ### Dispatch (R272, R276 to R278) -/

/-- Whether the engine of a copy node is free (R274, R276): no copy node runs on its creator's die. -/
def copyEngineFree (s : State) (n : Node) : Bool :=
  !s.nodes.any (fun x => x.2.kind == .copy && x.2.st == .running && dieNo x.2.home == dieNo n.home)

/-- Whether a node's owner lets it be placed (R262, R272). -/
def ownerReady (s : State) (n : Node) : Bool :=
  let x := ctxAt s n.owner
  x.st != .free && x.st != .ending && decide (0 ≤ alwSeen s n.owner)

/-- Whether a node can be placed now (R276). -/
def canPlace (s : State) (x : Nat × Node) : Bool :=
  ownerReady s x.2 && (match x.2.kind with
    | .kernel => (fit s [] x.1 x.2).isSome
    | .copy => copyEngineFree s x.2
    | .event => false)

/-- A node placed. -/
def place (x : Nat × Node) (s : State) : State :=
  match x.2.kind with
  | .kernel =>
    if !x.2.cores.isEmpty then placeSaved x.1 x.2 s
    else match fit s [] x.1 x.2 with
      | some cs => placeFresh x.1 x.2 cs s
      | none => s
  | .copy => placeCopy x.1 x.2 s
  | .event => s

/-- The order of READY nodes: higher priority first, then (ready time, node id) (R276). -/
def nodeBefore (x y : Nat × Node) : Bool :=
  decide (y.2.prio < x.2.prio) || (x.2.prio == y.2.prio && (decide (x.2.ready < y.2.ready)
    || (x.2.ready == y.2.ready && decide ((nodeId x.1 x.2).toNat < (nodeId y.1 y.2).toNat))))

/-- Elements in an order. -/
def sortBy {α : Type} (lt : α → α → Bool) : List α → List α
  | [] => []
  | x :: xs => insertIn x (sortBy lt xs)
where
  /-- An element at its place. -/
  insertIn (x : α) : List α → List α
    | [] => [x]
    | y :: ys => if lt y x then y :: insertIn x ys else x :: y :: ys

/-- The READY nodes in order. -/
def readyNodes (s : State) : List (Nat × Node) := sortBy nodeBefore (s.nodes.filter (fun x => x.2.st == .ready))

/-- The nodes that a decision considers before it places one, and that one (R276): a node that cannot be placed and is not
skippable ends it. -/
def walkReady (s : State) : List (Nat × Node) → List (Nat × Node) × Option (Nat × Node)
  | [] => ([], none)
  | x :: xs =>
    if canPlace s x then ([], some x)
    else if x.2.skip then ((x :: (walkReady s xs).1), (walkReady s xs).2)
    else ([x], none)

/-- The cores that a kernel node has in hand. -/
def nodeCores (s : State) (id : BitVec 32) : List Nat :=
  (s.cores.filter (fun c => c.1 < 256 && holding c.2 && c.2.node == id)).map (·.1)

/-- The kernels with cores in hand that a node may pre-empt, in the order of R277; one of which a core has been saved still runs on
its others. -/
def victims (s : State) (n : Node) : List (Nat × Node) :=
  sortBy (fun x y => decide (x.2.prio < y.2.prio) || (x.2.prio == y.2.prio && decide (y.2.order < x.2.order)))
    (s.nodes.filter (fun x => x.2.kind == .kernel && (x.2.st == .running || x.2.st == .ready)
      && !(nodeCores s (nodeId x.1 x.2)).isEmpty && x.2.pre && decide (x.2.prio.toNat + 16 ≤ n.prio.toNat)))

/-- The cores that are being freed already: they save, or will at their next boundary. -/
def freeing (s : State) : List Nat := (s.cores.filter (fun c => c.1 < 256 && c.2.save.isSome)).map (·.1)

/-- The victims that are taken in their order until enough cores are free for a node (R277). -/
def enough (s : State) (x : Nat × Node) (extra : List Nat) : List (Nat × Node) → List (Nat × Node)
  | [] => []
  | v :: vs =>
    let e := extra ++ nodeCores s (nodeId v.1 v.2)
    v :: (if (fit s e x.1 x.2).isSome then [] else enough s x e vs)

/-- A core chosen for pre-emption (R191, R264, R277): it saves, or waits until it is RUNNING or FROZEN again. -/
def preemptCore (now : Nat) (c : Core) : Core :=
  match c.st with
  | .running => beginSave now .preempt c
  | .frozen => beginSave now .preempt c
  | .trapped => { c with save := some .preempt }
  | .loading => { c with save := some .preempt }
  | .saving => c
  | .idle => c
  | .disabled => c

/-- PREEMPTION (R277): a kernel node that cannot be placed takes the cores of its victims. -/
def preempt (s : State) (x : Nat × Node) : State :=
  if x.2.kind ≠ .kernel ∨ !ownerReady s x.2 ∨ (fit s (freeing s) x.1 x.2).isSome then s
  else (((enough s x (freeing s) (victims s x.2)).map (fun v => nodeCores s (nodeId v.1 v.2))).flatten).foldl
    (fun s g => updCoreAt g (preemptCore s.now) s) s

/-- A decision (R276, R277): nodes are placed one after another; then each that has become READY since the last decision, and has
not been placed, may pre-empt. -/
def decideFrom : Nat → State → State
  | 0, s => s
  | fuel + 1, s =>
    match (walkReady s (readyNodes s)).2 with
    | some x => decideFrom fuel (place x s)
    | none =>
      let s1 := ((readyNodes s).filter (fun x => x.2.fresh)).foldl preempt s
      { s1 with nodes := s1.nodes.map (fun x => (x.1, { x.2 with fresh := false })) }

/-- DISPATCH_DECISION (R276). -/
def execDispatchDecision (s : State) : Out := .next (decideFrom (s.nodes.length + 1) s)

/-- KERNEL_PLACE (R283): the kernel node that a decision takes next is placed (R276). -/
def execKernelPlace (node : BitVec 32) (s : State) : Out :=
  .next (match (walkReady s (readyNodes s)).2 with
    | none => s
    | some x => if x.2.kind = .kernel ∧ nodeId x.1 x.2 = node then place x s else s)

/-- LOAD_COMPLETE (R48, R283 step 7): the acting core is RUNNING at the kernel's entry. -/
def execLoadComplete (s : State) : Out :=
  .next (if (core s).st = .loading ∧ !(core s).restore then updCore (fun c => { c with st := .running }) s else s)

/-- STARVE_TIMEOUT (R278): a node READY for 2^16 ticks posts event 0x4A to cluster 0, once for each stay in READY. -/
def execStarveTimeout (node : BitVec 32) (s : State) : Out :=
  .next (match nodeOf s node with
    | none => s
    | some (k, n) =>
      if n.st = .ready ∧ !n.starved ∧ n.ready + 2 ^ 16 * 4096 ≤ s.now then
        postEvent 0 0x4A n.owner (node.setWidth 64) (setNode k { n with starved := true } s)
      else s)

/-! ### Retirement (R286, R288) -/

/-- Whether everything that END waits for has ended (R288), with no fault left to deliver. -/
def retireReady (s : State) : Bool :=
  let c := core s
  c.inEnd && c.trap.isNone && c.pme.calls.isEmpty && c.pme.msqls.isEmpty && c.pme.fault.isNone && c.pme.side.isEmpty
    && c.chans.all (fun x => x.2.q.isEmpty && (x.2.fault.isNone || x.2.delivered))
    && !s.buses.any (fun b => b.2.any (fun m => m.core == s.cur && m.lands.isNone))
    && c.gather.q.isEmpty && c.gather.fault.isNone && c.colls.all (·.done) && c.snaps.isEmpty && c.collFaults.isEmpty

/-- A core has left its kernel: with the last one, launch regions are vacated and the node is DONE (R286). -/
def leaveNode (g : Nat) (id : BitVec 32) (s : State) : State :=
  match nodeOf s id with
  | none => s
  | some (k, n) =>
    let n1 : Node := { n with left := n.left.filter (· != g) }
    let s1 := setNode k n1 s
    if n1.left.isEmpty then complete k (vacateAll n.regions (unpin n.owner n.regions (setNode k { n1 with regions := [] } s1))) else s1

/-- The acting core retires (R288): it leaves its groups and goes IDLE; its tiles and banks go with it, and regions that its leaving
has freed of their last waiter are looked at again (R234). -/
def retire (s : State) : State :=
  let c := core s
  let s1 := flushMirror ((groupsOf s (myNo s)).foldl (leaveGroup (myNo s)) s) s.cur
  ctxSettle c.ctx (settle (leaveNode s.cur c.node (updCore vacated s1)))

/-- KERNEL_RETIRE (R288). -/
def execKernelRetire (s : State) : Out :=
  .next (if retireReady s && ((core s).st == .running || (core s).st == .frozen) then retire s else s)

end Sys2Proof.Machine
end

