-- ==== Sys2Proof/Machine/Link.lean ====
section
/-! DEFINITION. The link (R336 to R344, R357): Mbaup messages and what Holly does at the driver's request, peers and their
windows, exports, and shard mirrors with MIRR. -/

namespace Sys2Proof.Machine

open Sys2Proof

/-! ### MIRR (R344) -/

/-- The mirror status word (R344). -/
def mirrorWord (s : State) : Word :=
  match (myCtx s).mirror with
  | none => 0
  | some p => word (p.toNat + (peerAt s p.toNat).st.code * 2 ^ 8)

/-- A MIRR instruction: its value is sampled at issue and lands one copy-engine cycle later (R344). -/
def mirr (u : CU) (p : Pred) (d : Reg) (v : State → Word) (s : State) : State :=
  issue u.slot p [] (fun s => .ok (updCore (resX u.slot d (v s) 1) s)) s

/-- MIRR.MARK (R344). -/
def execMirrMark (u : CU) (p : Pred) (d : Reg) (s : State) : Out :=
  .next (mirr u p d (fun s => (core s).mseq.setWidth 64) s)

/-- MIRR.DONE (R344): MSEQ with no mirror peer. -/
def execMirrDone (u : CU) (p : Pred) (d : Reg) (s : State) : Out :=
  .next (mirr u p d (fun s =>
    (if (myCtx s).mirror.isNone then (core s).mseq else (core s).mack).setWidth 64) s)

/-- MIRR.ST (R344). -/
def execMirrSt (u : CU) (p : Pred) (d : Reg) (s : State) : Out := .next (mirr u p d mirrorWord s)

/-! ### Mirror traffic (R342, R343) -/

/-- MIRROR_GRANULE_SEND (R342): the oldest granule that waits leaves, in order. -/
def execMirrorGranuleSend (s : State) : Out := .next (sendGranule s.cur s)

/-- Whether the oldest granule that a core has sent and no peer has applied went to a mirror peer that answers. -/
def ackDue (s : State) (c : Core) : Bool := linkOpen s && c.unacked.head?.any (fun id => mirrorUp s (ctxAt s id))

/-- The mirror peer of a context heard from, if it has one. -/
def heardMirror (id : BitVec 12) (s : State) : State :=
  match (ctxAt s id).mirror with
  | none => s
  | some p => heard p.toNat s

/-- The oldest granule that the acting core has sent counts as applied (R342). -/
def applied (s : State) : State :=
  match (core s).unacked with
  | [] => s
  | id :: rest => heardMirror id (updCore (fun c => { c with mack := c.mack + 1, unacked := rest }) s)

/-- MIRROR_ACK (R339, R342): the mirror peer has applied one more granule, in order. -/
def execMirrorAck (s : State) : Out :=
  .next (onImage (fun i => ackDue s i.saved) (fun s => if ackDue s (core s) then applied s else s) s)

/-! ### Ports and messages (R336, R337, R352) -/

/-- PORT_DOWN (R336): the port leaves the set over which packets are spread. -/
def execPortDown (port : BitVec 3) (s : State) : Out :=
  .next { s with link := { s.link with ports := s.link.ports &&& ~~~(1#8 <<< port.toNat) } }

/-- Whether any port answers: after self-test, and while one is up (R351, R352). -/
def answering (s : State) : Bool :=
  s.link.ports != 0 && (s.dev.st == .quickset || s.dev.st == .service || s.dev.st == .safe)

/-- A REPLY (R337): the request's SEQ in payload bytes 0 to 3. -/
def reply (st : Nat) (seq : BitVec 32) (s : State) : State :=
  sendHost { type := 0x03, status := st, payload := leBytes 4 seq.toNat } s

/-- The status of an inbound queue message (R337, R352), and what it makes of the device; a queue whose region has ended is
absent (log 31). -/
def takeQmsg (ctx : BitVec 12) (qid : BitVec 16) (msg : List Byte) (s : State) : Nat × State :=
  if s.dev.st = .safe then (4, s)
  else match Map.find? s.queues qid.toNat with
    | none => (4, s)
    | some q =>
      if qid = 0 ∨ q.dir ≠ 0 ∨ q.owner ≠ ctx ∨ (queueBase s q).isNone then (4, s)
      else if msg.length ≠ 64 then (2, s)
      else match putMsg storeHbm qid.toNat q msg s with
        | none => (1, s)
        | some t => (0, t)

/-- MBAUP_QMSG (R273, R337): the message enters its queue and gets no reply, or is refused. -/
def execMbaupQmsg (ctx : BitVec 12) (qid : BitVec 16) (seq : BitVec 32) (msg : List Byte) (s : State) : Out :=
  .next (if !answering s then s
    else
      let (st, t) := takeQmsg ctx qid msg s
      if st = 0 then t else reply st seq t)

/-- The TYPEs that the device answers to (R337). -/
def knownTypes : List Nat := [0x01, 0x02, 0x10, 0x11, 0x12, 0x20]

/-- MBAUP_OTHER_TYPE (R337, R352): a message of another TYPE is answered with STATUS 2, or 3 in SAFE, and one of a VER other
than 1 with STATUS 2 (log 94). -/
def execMbaupOtherType (kind : MsgKind) (seq : BitVec 32) (s : State) : Out :=
  .next (if !answering s then s
    else if !knownTypes.contains kind.type.toNat then reply (if s.dev.st = .safe then 3 else 2) seq s
    else if kind.ver ≠ 1 then reply 2 seq s
    else s)

/-! ### SPDM (R338, R356) -/

/-- The request code of an SPDM message: its second byte, in SPDM 1.3 (log 14). -/
def spdmCode (msg : List Byte) : Nat := ((msg[1]?).getD 0).toNat

/-- The SPDM requests that the device supports, by their codes in SPDM 1.3 (R356, log 14): GET_DIGESTS, GET_CERTIFICATE, CHALLENGE,
GET_VERSION, GET_MEASUREMENTS, GET_CAPABILITIES, NEGOTIATE_ALGORITHMS, KEY_EXCHANGE, FINISH and END_SESSION. -/
def spdmCodes : List Nat := [0x81, 0x82, 0x83, 0x84, 0xE0, 0xE1, 0xE3, 0xE4, 0xE5, 0xEC]

/-- The answer to an SPDM request that the device does not support: SPDM 1.3's ERROR, unsupported request (log 14). -/
def spdmError (code : Nat) : List Byte := [0x13, 0x7F, 0x07, BitVec.ofNat 8 code]

/-- The link after the n-th SPDM message (R356): a KEY_EXCHANGE begins a handshake, its FINISH opens the session, END_SESSION ends
it. -/
def spdmStep (n : Nat) (msg : List Byte) (l : Link) : Link :=
  match spdmCode msg with
  | 0xE4 => { l with kex := Config.spdmPasses n msg }
  | 0xE5 => { l with kex := false, session := l.session || (l.kex && Config.spdmPasses n msg) }
  | 0xEC => { l with session := false }
  | _ => l

/-- The measurement blocks that SPDM reports (R356): the hash of component c in block c, and the final measurement in block 5; the block
of a component that there is not is empty. -/
def spdmBlocks (s : State) : List (List Byte) := s.dev.blocks ++ List.replicate (4 - s.dev.blocks.length) [] ++ [s.dev.meas]

/-- MBAUP_SPDM (R338, R352, R356): outside SAFE a supported request is answered from the measurement blocks and the attestation
key. -/
def execMbaupSpdm (seq : BitVec 32) (msg : List Byte) (s : State) : Out :=
  .next (if !answering s then s
    else if s.dev.st = .safe then reply 3 seq s
    else
      let n := s.link.spdm
      let ok := spdmCodes.contains (spdmCode msg)
      let ans := if ok then Config.spdmAnswer n (spdmBlocks s) (s.dev.attKey.getD []) msg
        else spdmError (spdmCode msg)
      let s1 := sendHost { type := 0x20, payload := ans } s
      { s1 with link := { (if ok then spdmStep n msg s1.link else s1.link) with spdm := n + 1 } })

/-! ### STATUS, LOG and RESYNC (R357) -/

/-- The most item bytes of one REPLY: 4,096 payload bytes less SEQ and part number. -/
def partBytes : Nat := 4090

/-- The items of an answer sent in parts (R357). -/
def sendParts (seq : BitVec 32) (items : List Byte) (s : State) : State :=
  let n := max 1 ((items.length + partBytes - 1) / partBytes)
  (List.range n).foldl (fun s i =>
    sendHost { type := 0x03, payload := leBytes 4 seq.toNat ++ leBytes 2 (i + boolNat (i + 1 == n) * 2 ^ 15)
      ++ (items.drop (partBytes * i)).take partBytes } s) s

/-- A mask of the parts of a kind that passed. -/
def passMask (s : State) (k : PartKind) (n : Nat) : Nat := (List.range n).foldl (fun m i => m + boolNat (partIn s k i) * 2 ^ i) 0

/-- A stack's capacity word (R334). -/
def capacityWord (k : Stack) : Nat := k.dies.toNat + 4 * popcount k.dies * 2 ^ 16 + boolNat k.hot * 2 ^ 32

/-- A latency record's words (R331). -/
def latencyBytes (r : LatRec) : List Byte :=
  leBytes 8 r.reads.toNat ++ leBytes 8 r.sum.toNat ++ leBytes 8 r.max.toNat ++ leBytes 8 r.stall.toNat

/-- The items of STATUS in the order of R357 (log 41). -/
def statusItems (s : State) : List Byte :=
  leBytes 1 s.dev.st.code
    ++ leBytes 1 (passMask s .die 4) ++ leBytes 1 (passMask s .stack 8) ++ leBytes 1 (passMask s .port 8) ++ leBytes 2 (passMask s .link 16)
    ++ ((List.range 8).map (fun k => leBytes 8 (capacityWord (stackAt s k)))).flatten
    ++ ((List.range 256).map (fun k => latencyBytes (Map.get s.dram.lat k {}))).flatten
    ++ leBytes 8 s.tick ++ leBytes 8 (rfphWord s).toNat

/-- The items of RESYNC in the order of R357 (log 41). -/
def resyncItems (s : State) : List Byte :=
  statusItems s
    ++ ((s.ctxs.filter (fun x => x.2.st != .free)).map (fun x => leBytes 2 x.1 ++ leBytes 1 x.2.st.code ++ leBytes 1 x.2.tier.toNat
        ++ leBytes 1 x.2.ceil.toNat ++ leBytes 8 (BitVec.ofInt 64 x.2.alw).toNat)).flatten
    ++ (s.queues.map (fun q => leBytes 2 q.1 ++ leBytes 2 q.2.owner.toNat ++ leBytes 4 q.2.head.toNat ++ leBytes 4 q.2.tail.toNat)).flatten
    ++ ((List.range 256).map (fun p => leBytes 1 (peerAt s p).st.code)).flatten
    ++ ((List.range 256).map (fun g => leBytes 1 (coreAt s g).st.code)).flatten
    ++ ((List.range 32).map (fun k => leBytes 8 (ctrlCsr s k 0x0F1).toNat ++ leBytes 8 (ctrlCsr s k 0x0F0).toNat)).flatten

/-- A record entered in Holly's log ring of 4,096 (R357). -/
def logRecord (r : TRec) (s : State) : State :=
  let l := s.link.log ++ [r]
  { s with link := { s.link with log := l.drop (l.length - 4096), logged := s.link.logged + 1 } }

/-- Up to 16 records of the log from an index on, each with its index (R357). -/
def logItems (s : State) (first : Nat) : List Byte :=
  let base := s.link.logged - s.link.log.length
  let from_ := max first base
  let rs := (s.link.log.drop (from_ - base)).take 16
  ((List.range rs.length).zipWith (fun i r => leBytes 4 (from_ + i) ++ recordBytes r) rs).flatten

/-- MBAUP_STATUS (R357): sampled when it arrives. -/
def execMbaupStatus (seq : BitVec 32) (s : State) : Out :=
  .next (if answering s then sendParts seq (statusItems s) s else s)

/-- MBAUP_LOG (R357): sampled when it arrives. -/
def execMbaupLog (seq first : BitVec 32) (s : State) : Out :=
  .next (if answering s then sendParts seq (logItems s first.toNat) s else s)

/-- MBAUP_RESYNC (R357): it is sampled at the next tick boundary. -/
def execMbaupResync (seq : BitVec 32) (s : State) : Out :=
  .next (if answering s then { s with link := { s.link with resync := s.link.resync ++ [(seq, s.tick)] } } else s)

/-- Whether a RESYNC request has met its tick boundary. -/
def resyncDue (s : State) (x : BitVec 32 × Nat) : Bool := decide (x.2 < s.tick)

/-- RESYNC_SAMPLE (R357): the requests that waited for the boundary are answered with one sample. -/
def execResyncSample (s : State) : Out :=
  .next ((s.link.resync.filter (resyncDue s)).foldl (fun t x => sendParts x.1 (resyncItems s) t)
    { s with link := { s.link with resync := s.link.resync.filter (fun x => !resyncDue s x) } })

/-! ### Peers (R339 to R341, R343) -/

/-- Whether a copy node that runs touches a peer. -/
def nodeTouches (s : State) (p : Nat) (n : Node) : Bool :=
  let (a, b, _) := copySides s n
  n.kind == .copy && n.st == .running && ((a.kind == 2 && a.unit.toNat == p) || (b.kind == 2 && b.unit.toNat == p))

/-- PROMOTE (R343): a device that mirrors a lost peer makes its copy live memory, and tells every UP peer, naming itself. -/
def promote (p : Nat) (s : State) : State :=
  if (peerAt s p).copy.isEmpty then s
  else
    ((s.link.peers.filter (fun x => x.2.st == .up)).map (·.1)).foldl (fun s q => toPeer q { type := 0x101, payload := leBytes 1 p } s)
      (setPeer p { peerAt s p with promoted := true } s)

/-- Mirroring to a lost peer stops (R343). -/
def stopMirrors (p : Nat) (s : State) : State :=
  { s with ctxs := s.ctxs.map (fun x => (x.1, if x.2.mirror.any (fun q => q.toNat == p) then { x.2 with mirOff := true } else x.2)) }

/-- Every copy in flight that touches a lost peer, saved ones too, marked (R341). -/
def markCopies (p : Nat) (s : State) : State :=
  { s with
    cores := s.cores.map (fun x => (x.1, markLost p x.2))
    images := s.images.map (fun i => { i with saved := markLost p i.saved }) }

/-- A peer goes LOST (R341, R343): copies in flight that touch it fault, and its mirror is promoted here if this device
holds it. -/
def losePeer (p : Nat) (s : State) : State :=
  let x := peerAt s p
  let s1 := markCopies p (stopMirrors p (setPeer p { x with st := .lost, promoter := none } s))
  let s2 := (s1.cores.map (·.1)).foldl (fun s g => loseCopies p g s) s1
  let s3 := ((s2.nodes.filter (fun n => nodeTouches s2 p n.2)).map (·.1)).foldl
    (fun s k => failNode k 0x4B 0 (Map.get s.nodes k {}) s) s2
  promote p s3

/-- ADMIN JOIN (R339): the request names the peer's Ethernet addresses. -/
def joinPeer (p : Nat) (addrs : List (BitVec 48)) (s : State) : Option State :=
  let x := peerAt s p
  if x.st = .down then some (setPeer p { x with st := .joining, addrs := addrs, seen := s.now } s) else none

/-- ADMIN LEAVE (R339). -/
def leavePeer (p : Nat) (s : State) : Option State :=
  let x := peerAt s p
  if x.st = .lost ∨ x.st = .redirected then some (setPeer p { x with st := .down, promoter := none, window := [], copy := [], promoted := false } s) else none

/-- ADMIN declares a peer lost (R339). -/
def declareLost (p : Nat) (s : State) : Option State :=
  let x := peerAt s p
  if x.st = .up ∨ x.st = .suspect then some (losePeer p s) else none

/-- ADMIN_JOIN (R339). -/
def execAdminJoin (req : JoinReq) (s : State) : Out := admin (joinPeer req.peer.toNat req.addrs) s

/-- ADMIN_LEAVE (R339). -/
def execAdminLeave (peer : BitVec 8) (s : State) : Out := admin (leavePeer peer.toNat) s

/-- ADMIN_PEER_LOST (R339). -/
def execAdminPeerLost (peer : BitVec 8) (s : State) : Out := admin (declareLost peer.toNat) s

/-- PEER_CONNECTED (R18, R339, R352): the connection and its session are up. -/
def execPeerConnected (peer : BitVec 8) (s : State) : Out :=
  let x := peerAt s peer.toNat
  .next (if linkOpen s ∧ x.st = .joining then setPeer peer.toNat { x with st := .up, seen := s.now, sent := s.now } s else s)

/-- An event record whose code, cluster, context and INFO the spec does not give (R373, log 42). -/
def freeRecord (s : State) : TRec :=
  let w (i : Nat) : Word := Config.freeWord (s.ctr + i)
  eventRecord (fld (w 0) 0 8).toNat true (fld (w 1) 0 5).toNat ((w 2).setWidth 12) (w 3)

/-- An EVENT message for the host that no trap queue carries (R339, R351). -/
def sendEvent (r : TRec) (s : State) : State := sendHost { type := 0x04, ctx := fld r.w0 40 12, payload := recordBytes r } s

/-- The reference cycles of 10 ms, 1 ms, 200 µs and 50 µs at 3.0 GHz (R6, R339). -/
def joinCycles : Nat := 30000000
def lostCycles : Nat := 3000000
def silenceCycles : Nat := 600000
def heartbeatCycles : Nat := 150000

/-- Whether a peer's JOIN has run out (R339). -/
def joinDue (s : State) (x : Peer) : Bool := x.st == .joining && decide (x.seen + joinCycles ≤ s.now)

/-- Whether a peer has been silent for 200 µs (R339). -/
def silenceDue (s : State) (x : Peer) : Bool := x.st == .up && decide (x.seen + silenceCycles ≤ s.now)

/-- Whether a peer has been silent for 1 ms in all (R339). -/
def lostDue (s : State) (x : Peer) : Bool := x.st == .suspect && decide (x.seen + lostCycles ≤ s.now)

/-- Whether a heartbeat to a peer is due (R339). -/
def heartbeatDue (s : State) (x : Peer) : Bool :=
  (x.st == .up || x.st == .suspect) && decide (x.sent + heartbeatCycles ≤ s.now)

/-- JOIN_TIMEOUT (R339). -/
def execJoinTimeout (peer : BitVec 8) (s : State) : Out :=
  let x := peerAt s peer.toNat
  .next (if joinDue s x then
      { sendEvent (freeRecord s) (setPeer peer.toNat { x with st := .down } s) with ctr := s.ctr + 4 }
    else s)

/-- PEER_SILENCE (R339). -/
def execPeerSilence (peer : BitVec 8) (s : State) : Out :=
  let x := peerAt s peer.toNat
  .next (if silenceDue s x then setPeer peer.toNat { x with st := .suspect } s else s)

/-- A granule that a peer mirrors here is written to its copy, which the device acknowledges (R342); the copy's place in the
capacity tier is Holly's (log 20). -/
def takeMirrored (p a : Nat) (bs : List Byte) (s : State) : State :=
  let x := peerAt s p
  toPeer p { type := 0x104 } (setPeer p { x with copy := Map.put x.copy (a / 64) bs } s)

/-- Whether a peer's packets are taken (R18, R339, R352): the link is open, and the peer is UP or SUSPECT. -/
def peerOpen (s : State) (p : Nat) : Bool := linkOpen s && ((peerAt s p).st == .up || (peerAt s p).st == .suspect)

/-- PEER_PACKET_ARRIVE (R339, R342): a packet, which may carry a mirrored granule with the address that the peer names. -/
def execPeerPacketArrive (pkt : PeerPacket) (s : State) : Out :=
  let p := pkt.peer.toNat
  let s1 := heard p s
  .next (if !peerOpen s p then s
    else match pkt.mirrored with
      | some (a, bs) => if bs.length = 64 then takeMirrored p a bs s1 else s1
      | none => s1)

/-- PEER_LOST_TIMEOUT (R339, R341, R343). -/
def execPeerLostTimeout (peer : BitVec 8) (s : State) : Out :=
  .next (if lostDue s (peerAt s peer.toNat) then losePeer peer.toNat s else s)

/-- A lost peer whose promoter is UP is REDIRECTED (R339, R343): from here on its mirrored bytes are the promoter's copy. -/
def redirect (p q : Nat) (s : State) : State :=
  let x := peerAt s p
  if x.st = .lost ∧ (peerAt s q).st = .up then
    setPeer p { x with st := .redirected, promoter := some (BitVec.ofNat 8 q), window := [] } s
  else s

/-- PROMOTE_NOTICE (R339, R341, R343): a packet from the promoter; the peer that it names goes LOST, and once LOST to REDIRECTED. -/
def execPromoteNotice (peer promoter : BitVec 8) (s : State) : Out :=
  let s1 := heard promoter.toNat s
  .next (if linkOpen s then redirect peer.toNat promoter.toNat ((declareLost peer.toNat s1).getD s1) else s)

/-- HEARTBEAT_SEND (R339). -/
def execHeartbeatSend (peer : BitVec 8) (s : State) : Out :=
  .next (if portUp s ∧ heartbeatDue s (peerAt s peer.toNat) then toPeer peer.toNat { type := 0x102 } s else s)

/-! ### Exports (R340) -/

/-- Whether a region may be part of an export: one of this device's own regions with bytes that engines reach. -/
def exportable (s : State) (h : BitVec 32) : Bool :=
  match regionOf s.regions h with
  | none => false
  | some (_, r) => r.kind != .is

/-- An export installed (R340). -/
def installExport (p : Nat) (hs : List (BitVec 32)) (s : State) : Option State :=
  if hs.all (exportable s) then some (setPeer p { peerAt s p with xport := hs } s) else none

/-- EXPORT_INSTALL (R340). -/
def execExportInstall (peer : BitVec 8) (regions : List (BitVec 32)) (s : State) : Out :=
  admin (installExport peer.toNat regions) s

/-- The region of an export that holds the byte at an offset, with its key and the byte's address: the regions of the list
follow one another (log 43). -/
def exportByte (s : State) : List (BitVec 32) → Nat → Option (Nat × Region × Nat)
  | [], _ => none
  | h :: hs, off =>
    match regionOf s.regions h with
    | none => none
    | some (k, r) => if off < r.size then some (k, r, r.base + off) else exportByte s hs (off - r.size)

/-- The unit under which a peer's access is checked; no core has this number. -/
def peerUnit : Nat := 1024

/-- A peer's access to one granule's part of an export, checked (R231, R250, R340): the fault code, or the place. -/
def exportCheck (s : State) (p : BitVec 8) (k : Acc) (n off : Nat) : Except Nat (Space × Nat) :=
  match exportByte s (peerAt s p.toNat).xport off with
  | none => .error 0x21
  | some (key, r, a) =>
    let sp := regionSpace key r
    if !(r.subl.all (fun b => (!k.writes || b.wr) && (!k.reads || b.rd))) then .error 0x21
    else if r.st ≠ .held ∧ r.st ≠ .overdue then .error 0x20
    else if granRaces false s s.regions sp k .lk peerUnit (some p) a (a + n) (a / 64) then .error 0x25
    else if k = .read ∧ (spacePoison s sp a n).isSome then .error 0x11
    else .ok (sp, a)

/-- The bytes written for a peer: in HBM they are mirrored as any other write is (R342), and in device memory they are stored plain
(R309, log 61). -/
def peerWrite (sp : Space) (a : Nat) (bs : List Byte) (s : State) : State :=
  let s1 := stampLines (some none) sp a bs.length s
  match sp with
  | .hbm => storeHbm a bs s1
  | _ => spaceWrite peerUnit sp a bs s1

/-- A peer's access as its parts within granules: offset and length. -/
def exportParts (off len : Nat) : List (Nat × Nat) :=
  (partStarts off len).map (fun a => (a, min (off + len) (64 * (a / 64) + 64) - a))

/-- The answer to a peer (R340): a status of 0 with the bytes read, or the code of the fault that the requester takes. -/
def answerPeer (p : BitVec 8) (st : Nat) (bs : List Byte) (s : State) : State :=
  toPeer p.toNat { type := 0x103, status := st, payload := bs } s

/-- The bytes of a promoted copy of a lost peer (R343). -/
def copyByte (x : Peer) (a : Nat) : Byte := (((Map.get x.copy (a / 64) [])[a % 64]?).getD 0)

/-- A byte of a promoted copy written. -/
def putCopyByte (m : Map (List Byte)) (b : Nat × Byte) : Map (List Byte) :=
  Map.put m (b.1 / 64) ((Map.get m (b.1 / 64) []).set (b.1 % 64) b.2)

/-- An access of a peer to the mirrored ranges of a lost peer that this device has promoted, by the address that the lost peer named:
it answers, and for other ranges the access faults (R341, R343). -/
def promotedAccess (peer : BitVec 8) (q off len : Nat) (write : Option (List Byte)) (s : State) : State :=
  let x := peerAt s q
  if !x.promoted || !(granulesOf off len).all (fun g => (Map.find? x.copy g).isSome) then answerPeer peer 0x3E [] s
  else match write with
    | some bs => answerPeer peer 0 [] (setPeer q { x with copy := (placeBytes off (bs.take len)).foldl putCopyByte x.copy } s)
    | none => answerPeer peer 0 ((List.range len).map (fun i => copyByte x (off + i))) s

/-- An access of a peer to its export (R252, R340): the checks of class LK with the peer as the unit, then the access. Banks that
sleep wake first (R63), and the access comes again. -/
def exportAccess (peer : BitVec 8) (off len : Nat) (write : Option (List Byte)) (s : State) : State :=
  let k : Acc := if write.isSome then .write else .read
  let parts := (exportParts off len).map (fun q => (q, exportCheck s peer k q.2 q.1))
  let bad := parts.filterMap (fun q => match q.2 with | .error e => some e | .ok _ => none)
  let ok := parts.filterMap (fun q => match q.2 with | .ok y => some (q.1, y.1, y.2) | .error _ => none)
  match bad with
  | e :: _ => answerPeer peer e [] s
  | [] =>
    if !ok.all (fun q => spaceReady s q.2.1 q.2.2 q.1.2) then ok.foldl (fun s q => spaceWake q.2.1 q.2.2 q.1.2 s) s
    else match write with
      | some bs => answerPeer peer 0 [] (ok.foldl (fun s q => peerWrite q.2.1 q.2.2 ((bs.drop (q.1.1 - off)).take q.1.2) s) s)
      | none => answerPeer peer 0 (ok.map (fun q => viewRead s (some none) q.2.1 q.2.2 q.1.2)).flatten
          (ok.foldl (fun s q => noteReads q.2.1 q.2.2 q.1.2 s) s)

/-- PEER_ACCESS_ARRIVE (R252, R339, R340, R343): an access of a peer to its export, or to that of a lost peer whose mirror this
device has promoted. -/
def execPeerAccessArrive (ask : PeerAsk) (off len : Nat) (write : Option (List Byte)) (s : State) : Out :=
  let p := ask.peer
  .next (if !peerOpen s p.toNat then s
    else match ask.lost with
      | some q => promotedAccess p q.toNat off len write (heard p.toNat s)
      | none => exportAccess p off len write (heard p.toNat s))

/-! ### What Holly installs at the driver's request (R204, R289, R305 to R308, R342) -/

/-- Whether the entry of a handle is well formed: reserved bits zero, LEN a multiple of 64 (R204). -/
def handleOk (w0 w1 w2 : Word) : Bool :=
  !bit w0 7 && fld w0 48 16 == 0 && fld w1 48 16 == 0 && fld w2 56 8 == 0 && fld w1 0 6 == 0

/-- Whether a KIND 3 entry maps scratchpad that the context holds or that is sublet to it (R204). -/
def handleHeld (s : State) (ctx : BitVec 12) (w0 w1 w2 : Word) : Bool :=
  fld w0 3 2 != 3 ||
    (match regionOf s.regions (fld w0 16 32) with
      | none => false
      | some (key, r) => r.kind == .sp && key / 1024 == (fld w0 8 8).toNat && hasRegion ctx r
          && decide (r.base ≤ (fld w2 0 56).toNat ∧ (fld w2 0 56).toNat + (fld w1 0 48).toNat ≤ r.base + r.size))

/-- Whether a KIND 0 entry leaves page tables alone: no handle maps them (R304). -/
def handleClear (s : State) (w0 w1 w2 : Word) : Bool :=
  fld w0 3 2 != 0 || !s.ctxs.any (fun x => x.2.tables.any (fun k =>
    overlaps (tableBytes * k) tableBytes (fld w2 0 56).toNat (fld w1 0 48).toNat))

/-- The address of an entry's first byte as a leaf's ADDR gives it (R305, R340): a peer's index lies above the offset. -/
def entryAddr (w0 w2 : Word) : Nat :=
  if fld w0 3 2 = 2 then (fld w0 8 8).toNat * 2 ^ 48 + (fld w2 0 48).toNat else (fld w2 0 56).toNat

/-- Word 0 of an entry with the type of the pages that it maps in its context, if it maps any (R247, log 19). -/
def typedEntry (s : State) (x : Ctx) (w0 w1 w2 : Word) : Word :=
  if fld w0 3 2 = 3 then w0
  else match pageType s x (fld w0 3 2) (entryAddr w0 w2) (fld w1 0 48).toNat with
    | some t => (w0 &&& ~~~0x60#64) ||| (t.setWidth 64 <<< 5)
    | none => w0

/-- A handle-table entry installed, or with V = 0 removed (R204, R247, R304). -/
def installHandle (ctx : BitVec 12) (idx : BitVec 16) (w0 w1 w2 : Word) (s : State) : Option State :=
  let x := ctxAt s ctx
  if x.st = .free ∨ idx = 0 ∨ x.htlen ≤ idx.toNat then none
  else if !bit w0 0 then some (setCtx s ctx { x with handles := Map.del x.handles idx.toNat })
  else if !handleOk w0 w1 w2 || !handleHeld s ctx w0 w1 w2 || !handleClear s w0 w1 w2 then none
  else some (setCtx s ctx { x with handles := Map.put x.handles idx.toNat ⟨typedEntry s x w0 w1 w2, w1, w2⟩ })

/-- HANDLE_INSTALL (R204). -/
def execHandleInstall (ctx : BitVec 12) (idx : BitVec 16) (w0 w1 w2 : Word) (s : State) : Out :=
  admin (installHandle ctx idx w0 w1 w2) s

/-- The table that a pointer entry names, rented for the context (R304); another entry needs none. -/
def rentPointed (ctx : BitVec 12) (entry : Word) (s : State) : Option State :=
  if bit entry 0 && !bit entry 1 then rentTable ctx (pteAddr entry / tableBytes) s else some s

/-- A page-table entry written through Holly's update path, in tables that Holly rents for the context (R304, R307, R308): refused if
it is a leaf without backing, or makes one reachable. -/
def updatePage (ctx : BitVec 12) (pa : BitVec 56) (entry : Word) (s : State) : Option State :=
  if (ctxAt s ctx).st = .free ∨ pa.toNat % 8 ≠ 0 ∨ (bit entry 0 && bit entry 1 && !leafBacked s ctx (4, entry)) then none
  else
    match (rentTable ctx (pa.toNat / tableBytes) s).bind (rentPointed ctx entry) with
    | none => none
    | some s0 =>
      let x := ctxAt s0 ctx
      let s1 := writeHbm pa.toNat (leBytes 8 entry.toNat) s0
      let before := leavesOf s0 x
      if ((leavesOf s1 x).filter (fun l => !before.contains l)).all (leafBacked s0 ctx) then some s1 else none

/-- PAGE_TABLE_UPDATE (R305 to R308). -/
def execPageTableUpdate (ctx : BitVec 12) (pa : BitVec 56) (entry : Word) (s : State) : Out := admin (updatePage ctx pa entry) s

/-- The granules of a context's pages that an earlier mirror peer has not applied are not counted any more. -/
def freshMirror (ctx : BitVec 12) (c : Core) : Core := { c with unacked := c.unacked.filter (fun id => id != ctx) }

/-- A context's mirror peer assigned (R342). -/
def assignMirror (ctx : BitVec 12) (peer : BitVec 8) (s : State) : Option State :=
  if (ctxAt s ctx).st = .free then none
  else
    let s1 := setCtx s ctx { ctxAt s ctx with mirror := some peer, mirOff := false }
    some { s1 with
      cores := s1.cores.map (fun x => (x.1, freshMirror ctx x.2))
      images := s1.images.map (fun i => { i with saved := freshMirror ctx i.saved }) }

/-- MIRROR_ASSIGN (R342). -/
def execMirrorAssign (ctx : BitVec 12) (peer : BitVec 8) (s : State) : Out := admin (assignMirror ctx peer) s

/-- A level-4 domain created (R289, R291): its group is in COMPUTE with no member yet. -/
def createDomain (ctx : BitVec 12) (s : State) : Option State :=
  let (id, s1) := freshDomain s
  if (ctxAt s ctx).st = .free ∨ id = 0 then none
  else some { s1 with groups := Map.put s1.groups id.toNat { st := .compute, level := 4, owner := ctx } }

/-- DOMAIN_CREATE (R289, R291). -/
def execDomainCreate (ctx : BitVec 12) (s : State) : Out := admin (createDomain ctx) s

/-! ### ADMIN (R337, R338, R354) -/

/-- A request carried out, where it can be. -/
def carryOut (r : AdminReq) (s : State) : Option State :=
  match r with
  | .newCtx id htlen tier ceil alw =>
    if newStatus s id alw = 0 then some (newCtx id (htlen.toNat + 1) tier ceil alw.toInt s) else none
  | .grant id g => if idStatus s (id.setWidth 64) = 0 then some (grantCtx id g.toInt s) else none
  | .endCtx id kill => if idStatus s (id.setWidth 64) = 0 then some (endCtx id kill s) else none
  | .handle ctx idx w0 w1 w2 => installHandle ctx idx w0 w1 w2 s
  | .page ctx pa entry => updatePage ctx pa entry s
  | .queue qid ctx dir logSlots region => createQueue qid ctx dir logSlots region s
  | .share ctx stack share => assignShare ctx stack share s
  | .mirror ctx peer => assignMirror ctx peer s
  | .domain ctx => createDomain ctx s
  | .xport peer regions => installExport peer.toNat regions s
  | .join peer addrs => joinPeer peer.toNat addrs s
  | .leave peer => leavePeer peer.toNat s
  | .lost peer => declareLost peer.toNat s
  | .budget units floors demands => setBudget units floors demands s

/-- MBAUP_ADMIN (R337, R338, R352): STATUS 3 without a session or in SAFE; else the request is carried out, or cannot be
(STATUS 2, log 44). -/
def execMbaupAdmin (seq : BitVec 32) (req : AdminReq) (s : State) : Out :=
  .next (if !answering s then s
    else if !adminOpen s then reply 3 seq s
    else match carryOut req s with
      | some t => reply 0 seq t
      | none => reply 2 seq s)

end Sys2Proof.Machine
end

