-- ==== Sys2Proof/Machine/Hash.lean ====
section
/-! DEFINITION. The hash functions that the firmware's rules name (R355, R356): SHA-384, with SHA-512 for Ed25519 (FIPS 180-4, RFC
8032), and SHAKE for ML-DSA (FIPS 202, FIPS 204). The standards stand outside spec/ (PRESUMED, log 14). -/

namespace Sys2Proof.Machine

open Sys2Proof

/-! ### SHA-384 and SHA-512 (FIPS 180-4) -/

/-- The largest number below 2^n more than `r` whose `k`-th power is not above `x`. -/
def rootNat (k x : Nat) : (n r : Nat) → Nat
  | 0, r => r
  | n + 1, r => rootNat k x n (if (r + 2 ^ n) ^ k ≤ x then r + 2 ^ n else r)

/-- The first 80 primes: the numbers below 410 that no other number from 2 to 20 divides. -/
def firstPrimes : List Nat := (List.range 410).filter (fun n => 2 ≤ n && (List.range 21).all (fun d => d < 2 || d == n || n % d != 0))

/-- The round constants: the first 64 bits of the fractions of the primes' cube roots. -/
def sha2Keys : List Word := firstPrimes.map (fun p => BitVec.ofNat 64 (rootNat 3 (p * 2 ^ 192) 72 0))

/-- Initial values: the first 64 bits of the fractions of square roots. -/
def sha2Roots (ps : List Nat) : List Word := ps.map (fun p => BitVec.ofNat 64 (rootNat 2 (p * 2 ^ 128) 72 0))

/-- The value of bytes, the first the most significant. -/
def beNat (bs : List Byte) : Nat := leNat bs.reverse

/-- The `n` bytes of a value, the most significant first. -/
def beBytes (n v : Nat) : List Byte := (leBytes n v).reverse

/-- A list cut into pieces of `k`; the first argument bounds their number. -/
def chunksOf {α : Type} (k : Nat) : Nat → List α → List (List α)
  | 0, _ => []
  | fuel + 1, xs => if xs.isEmpty then [] else xs.take k :: chunksOf k fuel (xs.drop k)

/-- The message schedule from the last 16 words on. -/
def sha2Schedule : Nat → List Word → List Word
  | 0, _ => []
  | n + 1, ws =>
    let at_ (i : Nat) : Word := (ws[i]?).getD 0
    let x := at_ 1
    let y := at_ 14
    let s0 := x.rotateRight 1 ^^^ x.rotateRight 8 ^^^ (x >>> 7)
    let s1 := y.rotateRight 19 ^^^ y.rotateRight 61 ^^^ (y >>> 6)
    at_ 0 :: sha2Schedule n (ws.drop 1 ++ [s1 + at_ 9 + s0 + at_ 0])

/-- One round on the eight working variables. -/
def sha2Round (v : List Word) (kw : Word × Word) : List Word :=
  match v with
  | [a, b, c, d, e, f, g, h] =>
    let s1 := e.rotateRight 14 ^^^ e.rotateRight 18 ^^^ e.rotateRight 41
    let t1 := h + s1 + ((e &&& f) ^^^ (~~~e &&& g)) + kw.1 + kw.2
    let s0 := a.rotateRight 28 ^^^ a.rotateRight 34 ^^^ a.rotateRight 39
    [t1 + s0 + ((a &&& b) ^^^ (a &&& c) ^^^ (b &&& c)), a, b, c, d + t1, e, f, g]
  | _ => v

/-- The hash value after a block of 128 bytes. -/
def sha2Block (h : List Word) (blk : List Byte) : List Word :=
  let ws := sha2Schedule 80 ((chunksOf 8 16 blk).map (fun b => BitVec.ofNat 64 (beNat b)))
  List.zipWith (· + ·) h ((List.zip sha2Keys ws).foldl sha2Round h)

/-- The padded message. -/
def sha2Pad (msg : List Byte) : List Byte :=
  msg ++ 0x80 :: List.replicate ((239 - msg.length % 128) % 128) 0 ++ beBytes 16 (8 * msg.length)

/-- The hash of a message from an initial value. -/
def sha2 (init : List Word) (msg : List Byte) : List Byte :=
  let m := sha2Pad msg
  ((((chunksOf 128 (m.length / 128) m).foldl sha2Block init).map (fun w => beBytes 8 w.toNat)).flatten)

/-- SHA-512. -/
def sha512 (msg : List Byte) : List Byte := sha2 (sha2Roots (firstPrimes.take 8)) msg

/-- SHA-384. -/
def sha384 (msg : List Byte) : List Byte := (sha2 (sha2Roots ((firstPrimes.drop 8).take 8)) msg).take 48

/-! ### SHAKE (FIPS 202) -/

/-- The rotations of the lanes, lane (x, y) at x + 5·y. -/
def keccakRot : List Nat :=
  [0, 1, 62, 28, 27, 36, 44, 6, 55, 20, 3, 10, 43, 25, 39, 41, 45, 15, 21, 8, 18, 2, 61, 56, 14]

/-- The round constants. -/
def keccakKeys : List Word :=
  [0x0000000000000001, 0x0000000000008082, 0x800000000000808A, 0x8000000080008000, 0x000000000000808B, 0x0000000080000001,
   0x8000000080008081, 0x8000000000008009, 0x000000000000008A, 0x0000000000000088, 0x0000000080008009, 0x000000008000000A,
   0x000000008000808B, 0x800000000000008B, 0x8000000000008089, 0x8000000000008003, 0x8000000000008002, 0x8000000000000080,
   0x000000000000800A, 0x800000008000000A, 0x8000000080008081, 0x8000000000008080, 0x0000000080000001, 0x8000000080008008]

/-- A lane of the state. -/
def lane (a : List Word) (x y : Nat) : Word := (a[x % 5 + 5 * (y % 5)]?).getD 0

/-- A state from its lanes. -/
def lanesBy (f : Nat → Nat → Word) : List Word := (List.range 25).map (fun i => f (i % 5) (i / 5))

/-- One round of the permutation. -/
def keccakRound (a : List Word) (k : Word) : List Word :=
  let col := (List.range 5).map (fun x => lane a x 0 ^^^ lane a x 1 ^^^ lane a x 2 ^^^ lane a x 3 ^^^ lane a x 4)
  let mix := (List.range 5).map (fun x => (col[(x + 4) % 5]?).getD 0 ^^^ ((col[(x + 1) % 5]?).getD 0).rotateLeft 1)
  let t := lanesBy (fun x y => lane a x y ^^^ (mix[x]?).getD 0)
  let b := lanesBy (fun x y => (lane t (x + 3 * y) x).rotateLeft ((keccakRot[(x + 3 * y) % 5 + 5 * x]?).getD 0))
  lanesBy (fun x y => lane b x y ^^^ (~~~lane b (x + 1) y &&& lane b (x + 2) y) ^^^ (if x = 0 ∧ y = 0 then k else 0))

/-- The permutation. -/
def keccak (a : List Word) : List Word := keccakKeys.foldl keccakRound a

/-- A block taken into the state. -/
def absorb (a : List Word) (blk : List Byte) : List Word :=
  let ws := (chunksOf 8 25 blk).map (fun b => BitVec.ofNat 64 (leNat b))
  keccak (List.zipWith (· ^^^ ·) a (ws ++ List.replicate (25 - ws.length) 0))

/-- Blocks of output. -/
def squeeze (rate : Nat) : Nat → List Word → List Byte
  | 0, _ => []
  | n + 1, a => ((a.map (fun w => leBytes 8 w.toNat)).flatten).take rate ++ squeeze rate n (keccak a)

/-- A message padded to whole blocks. -/
def shakePad (rate : Nat) (msg : List Byte) : List Byte :=
  let z := rate - 1 - msg.length % rate
  if z = 0 then msg ++ [0x9F] else msg ++ 0x1F :: List.replicate (z - 1) 0 ++ [0x80]

/-- The first `n` bytes of SHAKE of a message; SHAKE128 has a rate of 168 bytes, SHAKE256 of 136. -/
def shake (rate : Nat) (msg : List Byte) (n : Nat) : List Byte :=
  let m := shakePad rate msg
  let a := (chunksOf rate (m.length / rate) m).foldl absorb (List.replicate 25 0)
  (squeeze rate ((n + rate - 1) / rate) a).take n

end Sys2Proof.Machine
end

