-- ==== Sys2Proof/Machine/Signature.lean ====
section
/-! DEFINITION. The two signatures of a firmware image (R355): pure Ed25519 (RFC 8032) and ML-DSA-65 (FIPS 204). The standards stand
outside spec/ (PRESUMED, log 14). -/

namespace Sys2Proof.Machine

open Sys2Proof

/-- b^e mod m, over the `n` low bits of e, the highest first. -/
def powMod (m b e : Nat) : Nat → Nat
  | 0 => 1
  | n + 1 =>
    let r := powMod m b (e / 2) n
    if e % 2 = 1 then r * r % m * b % m else r * r % m

/-! ### Ed25519 (RFC 8032) -/

/-- The field's prime. -/
def edP : Nat := 2 ^ 255 - 19

/-- The order of the base point. -/
def edL : Nat := 2 ^ 252 + 27742317777372353535851937790883648493

/-- x^e in the field. -/
def edPow (x e : Nat) : Nat := powMod edP x e 256

/-- The inverse in the field. -/
def edInv (x : Nat) : Nat := edPow x (edP - 2)

/-- The curve's d, -121665/121666. -/
def edD : Nat := (edP - 121665) * edInv 121666 % edP

/-- A point in extended coordinates: x = X/Z, y = Y/Z, xy = T/Z. -/
structure EdPoint where
  x : Nat
  y : Nat
  z : Nat
  t : Nat
  deriving DecidableEq, Repr

/-- The neutral point. -/
def edZero : EdPoint := ⟨0, 1, 1, 0⟩

/-- The sum of two points; it also doubles. -/
def edAdd (p q : EdPoint) : EdPoint :=
  let a := (p.y + edP - p.x) * (q.y + edP - q.x) % edP
  let b := (p.y + p.x) * (q.y + q.x) % edP
  let c := p.t * 2 * edD % edP * q.t % edP
  let d := p.z * 2 * q.z % edP
  let e := b + edP - a
  let f := d + edP - c
  let g := d + c
  let h := b + a
  ⟨e * f % edP, g * h % edP, f * g % edP, e * h % edP⟩

/-- k times a point, over the `n` low bits of k. -/
def edMul (p : EdPoint) (k : Nat) : Nat → EdPoint
  | 0 => edZero
  | n + 1 =>
    let r := edMul p (k / 2) n
    let r2 := edAdd r r
    if k % 2 = 1 then edAdd r2 p else r2

/-- Whether two points are one. -/
def edEq (p q : EdPoint) : Bool := p.x * q.z % edP == q.x * p.z % edP && p.y * q.z % edP == q.y * p.z % edP

/-- The x of a y with the given low bit, if the curve has one (section 5.1.3). -/
def edRecover (y sign : Nat) : Option Nat :=
  if edP ≤ y then none
  else
    let x2 := (y * y + edP - 1) * edInv (edD * y % edP * y + 1) % edP
    let r := edPow x2 ((edP + 3) / 8)
    let x := if r * r % edP = x2 then r else r * edPow 2 ((edP - 1) / 4) % edP
    if x * x % edP ≠ x2 then none
    else if x = 0 ∧ sign = 1 then none
    else some (if x % 2 = sign then x else edP - x)

/-- The point of a y with the given sign bit. -/
def edPoint (y sign : Nat) : Option EdPoint := (edRecover y sign).map (fun x => ⟨x, y, 1, x * y % edP⟩)

/-- The point that 32 bytes encode. -/
def edDecode (bs : List Byte) : Option EdPoint :=
  if bs.length = 32 then edPoint (leNat bs % 2 ^ 255) (leNat bs / 2 ^ 255) else none

/-- Pure Ed25519 verification of a signature of a message by a public key (section 5.1.7). The equation multiplied by the cofactor 8
must hold; the plain equation is sufficient, and whether a signature that meets only the first passes the standard leaves open (log
14). -/
def ed25519Ok (key sig msg : List Byte) : Bool :=
  match edDecode key, edDecode (sig.take 32), edPoint (4 * edInv 5 % edP) 0 with
  | some a, some r, some b =>
    let s := leNat (sig.drop 32)
    let k := leNat (sha512 (sig.take 32 ++ key ++ msg)) % edL
    let lhs := edMul b s 253
    let rhs := edAdd r (edMul a k 253)
    sig.length == 64 && decide (s < edL)
      && (edEq lhs rhs || (edEq (edMul lhs 8 4) (edMul rhs 8 4) && Config.cofactored))
  | _, _, _ => false

/-! ### ML-DSA-65 (FIPS 204) -/

/-- The modulus. -/
def mlQ : Nat := 8380417

/-- A polynomial: its 256 coefficients modulo `mlQ`. -/
abbrev Poly := List Nat

/-- The bits of an 8-bit number reversed. -/
def rev8 (m : Nat) : Nat := (List.range 8).foldl (fun a i => 2 * a + m / 2 ^ i % 2) 0

/-- The root of unity of node `m` of the transform's tree, and its inverse. -/
def mlZeta (m : Nat) : Nat := powMod mlQ 1753 (rev8 m) 8
@[inherit_doc mlZeta] def mlZetaInv (m : Nat) : Nat := powMod mlQ 1753 (512 - rev8 m) 9

/-- The sum of two polynomials, and their difference. -/
def polyAdd (a b : Poly) : Poly := List.zipWith (fun x y => (x + y) % mlQ) a b
@[inherit_doc polyAdd] def polySub (a b : Poly) : Poly := List.zipWith (fun x y => (x + mlQ - y) % mlQ) a b

/-- A polynomial by a number. -/
def polyScale (k : Nat) (a : Poly) : Poly := a.map (fun x => k * x % mlQ)

/-- The product of two transformed polynomials. -/
def polyMul (a b : Poly) : Poly := List.zipWith (fun x y => x * y % mlQ) a b

/-- The transform of 2^n coefficients below node `m` (Algorithm 41). -/
def mlNtt : (n m : Nat) → Poly → Poly
  | 0, _, w => w
  | n + 1, m, w =>
    let lo := w.take (2 ^ n)
    let hi := polyScale (mlZeta m) (w.drop (2 ^ n))
    mlNtt n (2 * m) (polyAdd lo hi) ++ mlNtt n (2 * m + 1) (polySub lo hi)

/-- Its inverse but for the factor 2^n (Algorithm 42). -/
def mlUnntt : (n m : Nat) → Poly → Poly
  | 0, _, w => w
  | n + 1, m, w =>
    let lo := mlUnntt n (2 * m) (w.take (2 ^ n))
    let hi := mlUnntt n (2 * m + 1) (w.drop (2 ^ n))
    polyAdd lo hi ++ polyScale (mlZetaInv m) (polySub lo hi)

/-- The inverse of the transform: 8,347,681 is the inverse of 256. -/
def mlInverse (w : Poly) : Poly := polyScale 8347681 (mlUnntt 8 1 w)

/-- Numbers of `b` bits from bytes, the low bits first. -/
def unpackBits (b : Nat) (bs : List Byte) : List Nat :=
  ((chunksOf b bs.length bs).map (fun c =>
    let v := leNat c
    (List.range (8 * c.length / b)).map (fun i => v / 2 ^ (b * i) % 2 ^ b))).flatten

/-- A uniform polynomial of a seed: 23-bit numbers below the modulus (Algorithm 30); 1,008 bytes are far more than it draws (log
14). -/
def mlUniform (seed : List Byte) : Poly :=
  ((((chunksOf 3 336 (shake 168 seed 1008)).map (fun c => leNat c % 2 ^ 23)).filter (· < mlQ)).take 256)

/-- The challenge polynomial of a seed, by the bytes still to draw from (Algorithm 29): `i` runs over 207 to 255. -/
def mlBall (signs : Nat) : (i : Nat) → (bs : List Byte) → Poly → Poly
  | _, [], pol => pol
  | i, j :: bs, pol =>
    if i = 256 then pol
    else if i < j.toNat then mlBall signs i bs pol
    else mlBall signs (i + 1) bs ((pol.set i ((pol[j.toNat]?).getD 0)).set j.toNat (if signs / 2 ^ (i - 207) % 2 = 1 then mlQ - 1 else 1))
@[inherit_doc mlBall] def mlChallenge (seed : List Byte) : Poly :=
  let bs := shake 136 seed 1088
  mlBall (leNat (bs.take 8)) 207 (bs.drop 8) (List.replicate 256 0)

/-- The positions of the hint that 61 bytes encode, one list for each of six polynomials (Algorithm 21): rising in each, and zeros
after the last. -/
def mlHint (bs : List Byte) : Option (List (List Nat)) :=
  let ys := (bs.take 55).map (fun b => b.toNat)
  let ends := (bs.drop 55).map (fun b => b.toNat)
  let starts := 0 :: ends.dropLast
  let parts := List.zipWith (fun a e => (ys.take e).drop a) starts ends
  if (List.zip starts ends).all (fun p => p.1 ≤ p.2 && p.2 ≤ 55)
      && parts.all (fun p => (List.zip p (p.drop 1)).all (fun q => q.1 < q.2))
      && (ys.drop ((ends.getLast?).getD 0)).all (· == 0)
  then some parts else none

/-- The high part of a coefficient, corrected by its hint (Algorithms 36 and 40), with γ2 = 261,888. -/
def mlUseHint (h : Bool) (r : Nat) : Nat :=
  let g := 261888
  let m := r % (2 * g)
  let up := g < m
  let r1 := (if up then r / (2 * g) + 1 else r / (2 * g)) % 16
  if !h then r1 else if 0 < m ∧ !up then (r1 + 1) % 16 else (r1 + 15) % 16

/-- The high parts of a polynomial packed, 4 bits each. -/
def packNibbles (w : List Nat) : List Byte := (chunksOf 2 128 w).map (fun p => BitVec.ofNat 8 ((p[0]?).getD 0 + 16 * (p[1]?).getD 0))

/-- ML-DSA-65 verification of a signature of a message by a public key, with an empty context (Algorithms 3 and 8). -/
def mlDsa65Ok (key sig msg : List Byte) : Bool :=
  let rho := key.take 32
  let t1 := (chunksOf 320 6 (key.drop 32)).map (unpackBits 10)
  let c0 := sig.take 48
  let z := (chunksOf 640 5 ((sig.drop 48).take 3200)).map (fun b => (unpackBits 20 b).map (fun v => (2 ^ 19 + mlQ - v) % mlQ))
  match mlHint (sig.drop 3248) with
  | none => false
  | some hint =>
    let mu := shake 136 (shake 136 key 64 ++ 0 :: 0 :: msg) 64
    let c := mlNtt 8 1 (mlChallenge c0)
    let zs := z.map (mlNtt 8 1)
    let row (r : Nat) : Poly :=
      (List.zip (List.range 5) zs).foldl (fun a p =>
        polyAdd a (polyMul (mlUniform (rho ++ [BitVec.ofNat 8 p.1, BitVec.ofNat 8 r])) p.2)) (List.replicate 256 0)
    let high (r : Nat) : List Nat :=
      let w := mlInverse (polySub (row r) (polyMul c (mlNtt 8 1 (polyScale (2 ^ 13) ((t1[r]?).getD [])))))
      let h := (hint[r]?).getD []
      List.zipWith (fun i x => mlUseHint (h.contains i) x) (List.range 256) w
    let w1 := ((List.range 6).map (fun r => packNibbles (high r))).flatten
    key.length == 1952 && sig.length == 3309
      && z.all (fun p => p.all (fun x => x < 2 ^ 19 - 196 || mlQ - (2 ^ 19 - 196) < x))
      && c0 == shake 136 (mu ++ w1) 48

end Sys2Proof.Machine
end

