-- ==== Sys2Proof/Machine/Bringup.lean ====
section
/-! DEFINITION. Bring-up and firmware (R351 to R356, R375): the states of the device, the parts under test, image
verification and measurement, Bramble's restart, SAFE, and the power cycle. -/

namespace Sys2Proof.Machine

open Sys2Proof

/-! ### Parts and cores (R351, R375) -/

/-- The number of parts of a kind (R10, R12, R16, R335). -/
def partCount : PartKind → Nat
  | .die => 4 | .stack => 8 | .port => 8 | .link => 16

/-- The parts that QUICKSET needs (R351). -/
def neededParts : List (PartKind × Nat) := [(.die, 0), (.stack, 0), (.stack, 1), (.port, 0)]

/-- The number of parts in all. -/
def allParts : Nat := 36

/-- A control core that starts Holly's firmware (R354). -/
def hollyCore (k : Nat) (c : Core) : Core :=
  { c with
    st := .running, pc := Config.hollyEntry, br := none, loops := [], bun := {}
    istore := (Config.hollyWords k).foldl (fun m w => Map.put m w.1 ⟨w.2.1, w.2.2⟩) [] }

/-- A compute core enabled: it goes IDLE if it passed its own self-test, else it stays DISABLED (R48, R375). -/
def enableCore (s : State) (g : Nat) : State :=
  if Config.coreGood g then updCoreAt g (fun c => if c.st = .disabled then { c with st := .idle } else c) s else s

/-- A die that passed enabled: its compute cores, and its control cores that do not run yet (R351, R375). -/
def enableDie (s : State) (d : Nat) : State :=
  (List.range 8).foldl (fun s i =>
      updCoreAt (256 + 8 * d + i) (fun c => if c.st = .disabled then hollyCore (8 * d + i) c else c) s)
    ((List.range 64).foldl (fun s i => enableCore s (64 * d + i)) s)

/-- The mask of the ports that passed. -/
def portMask (s : State) : BitVec 8 := BitVec.ofNat 8 (passMask s .port 8)

/-- The lowest-numbered port that passed, alone (R352). -/
def safePort (s : State) : BitVec 8 :=
  match (List.range 8).find? (partIn s .port) with
  | none => 0
  | some p => 1#8 <<< p

/-! ### SAFE (R351, R352) -/

/-- The device goes to SAFE (R351, R352): every context is killed, so that its cores stop in the next reference cycle and its end
sends FINAL (R262, R263), and no session stands. -/
def toSafe (s : State) : State :=
  let ids := (s.ctxs.filter (fun x => x.2.st != .free)).map (fun x => BitVec.ofNat 12 x.1)
  let s1 := ids.foldl (fun s id => endCtx id true s) s
  { s1 with
    dev := { s1.dev with st := .safe, pxReady := false, brambleDue := [] }
    link := { s1.link with session := false, ports := safePort s1 } }

/-! ### Image verification and measurement (R355, R356) -/

/-- A field of an image header. -/
def hdr (img : List Byte) (at_ n : Nat) : List Byte := (img.drop at_).take n

/-- The value of a header field. -/
def hdrNat (img : List Byte) (at_ n : Nat) : Nat := leNat (hdr img at_ n)

/-- The signed message: header bytes 0 to 63 and the body (R355). -/
def signedBytes (img : List Byte) : List Byte := hdr img 0 64 ++ hdr img 5440 (hdrNat img 8 8)

/-- Whether a header is one of R355: MAGIC, the kind, a body of LEN bytes, and zeros in the reserved fields (log 45). -/
def imageHeaderOk (img : List Byte) (kind : Nat) : Bool :=
  hdrNat img 0 4 == 0x46594D49 && hdrNat img 4 2 == kind && img.length == 5440 + hdrNat img 8 8
    && (hdr img 16 48).all (· == 0) && (hdr img 5421 19).all (· == 0)

/-- Whether Holly accepts a firmware image against a fused floor (R355). -/
def imageOk (floor kind : Nat) (img : List Byte) : Bool :=
  imageHeaderOk img kind
    && ed25519Ok (hdr img 64 32) (hdr img 96 64) (signedBytes img)
    && mlDsa65Ok (hdr img 160 1952) (hdr img 2112 3309) (signedBytes img)
    && sha384 (hdr img 64 32) == Config.fusedKeyHash false
    && sha384 (hdr img 160 1952) == Config.fusedKeyHash true
    && decide (floor ≤ hdrNat img 6 2)

/-- The measurement chain over the hashes of components (R356): 48 zero bytes, extended by each. -/
def measure (hs : List (List Byte)) : List Byte := hs.foldl (fun m h => sha384 (m ++ h)) (List.replicate 48 0)

/-- The components measured anew (R356): Holly's ROM, its SRAM image, Bramble's, and the configuration image if one was accepted. -/
def remeasure (s : State) : State :=
  let hs := ([Config.hollyComponent 0, Config.hollyComponent 1, s.dev.bramble] ++ s.dev.config.toList).map sha384
  { s with dev := { s.dev with blocks := hs, meas := measure hs } }

/-- An accepted Bramble image: the fused floor rises to its version, and it is measured (R355, R356). -/
def acceptBramble (img : List Byte) (s : State) : State :=
  remeasure { s with dev := { s.dev with svn := max s.dev.svn (hdrNat img 6 2), bramble := img } }

/-- The configuration image, accepted as any other image is, or refused whole (R355, R356). -/
def acceptConfig (img : List Byte) (s : State) : State :=
  if imageOk s.dev.svn 2 img then
    remeasure { s with dev := { s.dev with svn := max s.dev.svn (hdrNat img 6 2), config := some img } }
  else s

/-! ### The states of the device (R351) -/

/-- POWER_GOOD (R351): self-test begins; Holly runs from ROM on control core 0 of die 0. -/
def execPowerGood (s : State) : Out :=
  .next (if s.dev.st ≠ .reset then s
    else updCoreAt 256 (hollyCore 0) { s with dev := { s.dev with st := .selftest } })

/-- The parts of a list that the device has. -/
def realParts (ps : List (PartKind × Nat)) : List (PartKind × Nat) := (ps.filter (fun p => p.2 < partCount p.1)).eraseDups

/-- QUICKSET begins (R325, R351, R353, R354, R356): the images are accepted, the refresh epoch is fixed, the attestation key is
derived if this is the first, die 0 is enabled with its control cores at divisor 4, and port 0 answers. -/
def toQuickset (img : List Byte) (s : State) : State :=
  let s1 : State := acceptConfig Config.configImage <| acceptBramble img { s with
    dev := { s.dev with st := .quickset, attKey := some (s.dev.attKey.getD Config.attestationKey), passed := neededParts, brambleDue := [(0, false)] }
    link := { s.link with ports := 1 }
    dram := { s.dram with epoch := some (s.now + Config.epochOffset s.ctr), slot := 0, begun := false }
    ctr := s.ctr + 1 }
  (List.range 8).foldl (fun s i => updCoreAt (256 + i) (fun c => { c with csr := { c.csr with kdiv := 3 } }) s) (enableDie s1 0)

/-- SELFTEST_END (R351, R355): QUICKSET, or SAFE with the failure logged. -/
def execSelftestEnd (passed : List (PartKind × Nat)) (bramble : List Byte) (s : State) : Out :=
  .next (if s.dev.st ≠ .selftest then s
    else if neededParts.all (fun p => passed.contains p) && imageOk s.dev.svn 1 bramble then toQuickset bramble s
    else
      let s1 : State := { s with dev := { s.dev with passed := realParts passed } }
      { toSafe (logRecord (freeRecord s1) s1) with ctr := s.ctr + 4 })

/-- SERVICE begins (R319, R351): the prefix index is reserved, the remaining dies that passed are enabled, and every port
that passed is up. -/
def toService (s : State) : State :=
  let ds := ([1, 2, 3] : List Nat).filter (partIn s .die)
  let s1 := ds.foldl enableDie s
  { s1 with
    dev := { s1.dev with
      st := .service
      brambleDue := s1.dev.brambleDue ++ ds.map (fun d => (d, false))
      pxReady := !s1.dram.stks.any (fun x => x.2.mapping.isSome) }
    link := { s1.link with ports := s1.link.ports ||| (portMask s1 &&& 0xFE) } }

/-- The result of a part's test noted; a failure is told to the host with a part code (R351, log 42). -/
def notePart (k : PartKind) (n : Nat) (passed : Bool) (s : State) : State :=
  if passed then { s with dev := { s.dev with passed := s.dev.passed ++ [(k, n)] } }
  else
    let s1 := sendEvent (eventRecord 0x50 true 0 0 (Config.freeWord s.ctr)) s
    { s1 with dev := { s1.dev with failed := s1.dev.failed ++ [(k, n)] }, ctr := s.ctr + 1 }

/-- PART_TEST_END (R351, R353, R375): the last remaining part opens SERVICE. -/
def execPartTestEnd (part : PartKind) (num : Nat) (passed : Bool) (s : State) : Out :=
  .next (if s.dev.st ≠ .quickset ∨ partCount part ≤ num ∨ s.dev.passed.contains (part, num) ∨ s.dev.failed.contains (part, num)
    then s
    else
      let s1 := notePart part num passed s
      if s1.dev.passed.length + s1.dev.failed.length = allParts then toService s1 else s1)

/-! ### Firmware faults (R194, R351, R354) -/

/-- The control core of a die on which Bramble runs (R354). -/
def brambleCore (die : Nat) : Nat := 256 + 8 * die

/-- A control core that starts Bramble: the reserved context 0xFFF, at Bramble's entry (R354). -/
def startBramble (c : Core) : Core :=
  { c with
    st := .running, ctx := 0xFFF, pc := Config.brambleEntry, br := none, loops := [], bun := {}, stall := 0, drain := none
    resume := none, bramble := true }

/-- Bramble starts on the acting control core, whose Holly program waits for a slice of its own (R354). -/
def giveSlice (s : State) : State :=
  updCore startBramble { s with slices := Map.put s.slices (clusterNo s.cur / 8) { core s with sp := {}, istore := [] } }

/-- Whether a control core stands between two bundles with nothing on its way. -/
def sliceRest (now : Nat) (c : Core) : Bool :=
  c.bun.slots.isEmpty && c.resume.isNone && c.drain.isNone && c.br.isNone && c.pend.isEmpty && c.asyncs.isEmpty
    && decide (c.stall ≤ now) && c.files.banks.all (fun b => b.2.st != .waking)

/-- A program takes over from another on a control core: the scratchpad, the instruction store, the CSRs and the clock are the
core's own. -/
def takeOver (c o : Core) : Core :=
  { o with st := .running, sp := c.sp, istore := c.istore, csr := c.csr, issues := c.issues, hollyBad := c.hollyBad }

/-- The time slices of control core 0 of a die (R354): between two bundles the other of Holly's program and Bramble's may take over.
How long a slice lasts is free (log 91). -/
def sliceTurn (s : State) : State :=
  let d := clusterNo s.cur / 8
  match Map.find? s.slices d with
  | none => s
  | some o =>
    if s.cur ≠ brambleCore d ∨ !sliceRest s.now (core s) then s
    else
      let t : State := { s with ctr := s.ctr + 1 }
      if Config.freeBit s.ctr then
        setCore { t with slices := Map.put s.slices d { core s with sp := {}, istore := [] } } (takeOver (core s) o)
      else t

/-- BRAMBLE_RESTART (R194, R351, R354, R355): where Bramble is due to start on the acting control core, Holly loads it from an
image that verifies and starts it; after a fault the start is a restart, and a third within 1,000 ticks leads to SAFE. An image
that does not verify is refused whole, and the start stays due. -/
def execBrambleRestart (image : List Byte) (s : State) : Out :=
  .next (match s.dev.brambleDue.find? (fun x => brambleCore x.1 == s.cur) with
    | none => s
    | some x =>
      let s0 : State := { s with dev := { s.dev with brambleDue := s.dev.brambleDue.erase x } }
      if !inService s || !(image == s.dev.bramble || imageOk s.dev.svn 1 image) then s
      else
        let rs := s.dev.restarts.filter (fun t => s.tick < t + 1000) ++ (if x.2 then [s.tick] else [])
        let s1 := acceptBramble image { s0 with dev := { s0.dev with restarts := rs } }
        if x.2 && decide (3 ≤ rs.length) then toSafe s1 else giveSlice s1)

/-- HOLLY_FAULT (R194, R351, R354): a fault in Holly's own code is MACHINE_CHECK and leads to SAFE; where no fault has been taken
yet, it is taken now. -/
def execHollyFault (s : State) : Out :=
  .next (if !inService s || !isCtrl s.cur then s
    else
      let s1 := if (core s).hollyBad then s else hollyTrap (exc 0x3F (Config.freeWord s.ctr)) 0 true { s with ctr := s.ctr + 1 }
      toSafe (updCore (fun c => { c with hollyBad := false }) s1))

/-- POWER_CYCLE (R351): everything returns to reset but the fused security floor (R355) and the attestation key once derived (R356);
the free values drawn so far are not drawn again, and what is still to come stays to come. -/
def execPowerCycle (s : State) : Out :=
  .next { State.reset with ctr := s.ctr, inputs := s.inputs, dev := { svn := s.dev.svn, attKey := s.dev.attKey } }

end Sys2Proof.Machine
end

