-- ==== Sys2Proof/Machine/CopyScalar.lean ====
section
/-! DEFINITION. Scalar work in the copy slots (R201 to R203): arithmetic, counting, compares, select, loads and stores on the
C files. -/

namespace Sys2Proof.Machine

open Sys2Proof

/-- An RL instruction of a copy slot that computes k[d] := f(k[a], opnd) (R201). -/
def kalu (f : Word → Word → Word) (lat : Nat) (u : CU) (p : Pred) (d a : Reg) (o : Opnd) (s : State) : State :=
  issue u.slot p [] (fun s => do
    let x ← rdX (core s) u.slot a
    let y ← rdO (core s) u.slot o
    .ok (updCore (resX u.slot d (f x y) lat) s)) s

/-- KMOV (R201): k[d] := opnd. -/
def execKmov (u : CU) (p : Pred) (d : Reg) (o : Opnd) (s : State) : Out :=
  .next (issue u.slot p [] (fun s => do
    let y ← rdO (core s) u.slot o
    .ok (updCore (resX u.slot d y 1) s)) s)

/-- KADD (R201). -/
def execKadd (u : CU) (p : Pred) (d a : Reg) (o : Opnd) (s : State) : Out := .next (kalu fAdd 1 u p d a o s)

/-- KSUB (R201). -/
def execKsub (u : CU) (p : Pred) (d a : Reg) (o : Opnd) (s : State) : Out := .next (kalu fSub 1 u p d a o s)

/-- KMUL (R201). -/
def execKmul (u : CU) (p : Pred) (d a : Reg) (o : Opnd) (s : State) : Out := .next (kalu fMul 3 u p d a o s)

/-- KAND (R201). -/
def execKand (u : CU) (p : Pred) (d a : Reg) (o : Opnd) (s : State) : Out := .next (kalu fAnd 1 u p d a o s)

/-- KOR (R201). -/
def execKor (u : CU) (p : Pred) (d a : Reg) (o : Opnd) (s : State) : Out := .next (kalu fOr 1 u p d a o s)

/-- KXOR (R201). -/
def execKxor (u : CU) (p : Pred) (d a : Reg) (o : Opnd) (s : State) : Out := .next (kalu fXor 1 u p d a o s)

/-- KSHL (R201). -/
def execKshl (u : CU) (p : Pred) (d a : Reg) (o : Opnd) (s : State) : Out := .next (kalu fShl 1 u p d a o s)

/-- KSHR (R201). -/
def execKshr (u : CU) (p : Pred) (d a : Reg) (o : Opnd) (s : State) : Out := .next (kalu fShr 1 u p d a o s)

/-- KSRA (R201). -/
def execKsra (u : CU) (p : Pred) (d a : Reg) (o : Opnd) (s : State) : Out := .next (kalu fSra 1 u p d a o s)

/-- KMIN (R201). -/
def execKmin (u : CU) (p : Pred) (d a : Reg) (o : Opnd) (s : State) : Out := .next (kalu fMin 1 u p d a o s)

/-- KMAX (R201). -/
def execKmax (u : CU) (p : Pred) (d a : Reg) (o : Opnd) (s : State) : Out := .next (kalu fMax 1 u p d a o s)

/-- An RR instruction of a copy slot that computes k[d] := f(k[a]) with latency 1 (R202). -/
def kunary (f : Word → Word) (u : CU) (p : Pred) (d a : Reg) (s : State) : State :=
  issue u.slot p [] (fun s => do
    let x ← rdX (core s) u.slot a
    .ok (updCore (resX u.slot d (f x) 1) s)) s

/-- KCLZ (R202). -/
def execKclz (u : CU) (p : Pred) (d a : Reg) (s : State) : Out := .next (kunary (fun x => word (clz x)) u p d a s)

/-- KPOPC (R202). -/
def execKpopc (u : CU) (p : Pred) (d a : Reg) (s : State) : Out := .next (kunary (fun x => word (popcount x)) u p d a s)

/-- KCMP (R202). -/
def execKcmp (u : CU) (p : Pred) (d : BitVec 2) (cc : BitVec 3) (a : Reg) (o : Opnd) (s : State) : Out :=
  .next (issue u.slot p [] (fun s => do
    let x ← rdX (core s) u.slot a
    let y ← rdO (core s) u.slot o
    .ok (updCore (resP u.slot d.toNat (boolWord (condHolds (kCond cc) x y)) 1 1) s)) s)

/-- KSEL (R202). -/
def execKsel (u : CU) (p : Pred) (d a b : Reg) (e : BitVec 2) (s : State) : Out :=
  .next (issue u.slot p [] (fun s => do
    let x ← rdX (core s) u.slot a
    let y ← rdX (core s) u.slot b
    .ok (updCore (resX u.slot d (if getP (core s) u.slot e.toNat != 0 then x else y) 1) s)) s)

/-- KLD (R203). -/
def execKld (u : CU) (p : Pred) (d a : Reg) (o : Opnd) (sx : Bool) (sz : BitVec 2) (s : State) : Out :=
  .next (load u.slot p d a [] o sx sz s)

/-- KST (R203). -/
def execKst (u : CU) (p : Pred) (d a : Reg) (o : Opnd) (sz : BitVec 2) (s : State) : Out :=
  .next (store u.slot p d a [] o sz s)

end Sys2Proof.Machine
end

