-- ==== Sys2Proof/Machine/Fetch.lean ====
section
/-! DEFINITION. Fetch and decode of the bundle at PC (R29 to R31, R41 to R46), the bundle with no slot (R22), and the fault
of a bundle that fails its decode (R43). -/

namespace Sys2Proof.Machine

open Sys2Proof

/-! ### The words of a bundle (R29, R42) -/

/-- A word of the acting core's instruction store; one that is not listed is not valid (R29). -/
def storeWord (s : State) (w : Nat) : Option IsWord := Map.find? (core s).istore w

/-- ILLEGAL_BUNDLE at a word (R42, R185). DESIGN CHOICE (log 100): the index 65,536, which does not fit INFO[15:0], is shown modulo
2^16. -/
def illegalBundle (w : Nat) : Exc := { code := 0x01, info := word (w % 2 ^ 16), fslot := 7 }

/-- check_region on an instruction word (R42); a control core's store is Holly's, and no region governs it. -/
def fetchRegion (s : State) (w : Nat) : Except Exc Unit :=
  if isCtrl s.cur then .ok ()
  else match checkRegion s.regions (core s).ctx (.is s.cur) .read (4 * w) 4 with
    | .ok _ => .ok ()
    | .error e => .error { e with fslot := 7 }

/-- The header at a word (R42). -/
def fetchHeader (s : State) (w : Nat) : Except Exc IWord :=
  match storeWord s w with
  | none => .error (illegalBundle w)
  | some x =>
    if !x.beg then .error (illegalBundle w)
    else do
      fetchRegion s w
      if fld x.word 0 18 ≠ 0 then .error (illegalBundle w) else .ok x.word

/-- The `n` words that follow a header, from word `w` on (R42). -/
def fetchRest (s : State) : (n w : Nat) → Except Exc (List IWord)
  | 0, _ => .ok []
  | n + 1, w =>
    if 0xFFFF < w then .error (illegalBundle w)
    else match storeWord s w with
      | none => .error (illegalBundle w)
      | some x =>
        if x.beg then .error (illegalBundle w)
        else do
          fetchRegion s w
          let ws ← fetchRest s n (w + 1)
          .ok (x.word :: ws)

/-- The word after a bundle agrees with the boundary map: it begins a bundle, or is not valid (R42). -/
def fetchEnd (s : State) (w : Nat) : Except Exc Unit :=
  if 0xFFFF < w then .ok ()
  else match storeWord s w with
    | none => .ok ()
    | some x => if x.beg then .ok () else .error (illegalBundle w)

/-- The fetch checks of R42: the bundle's header and its other words. -/
def fetch (s : State) : Except Exc (IWord × List IWord) := do
  let w := (core s).pc.toNat / 4
  let h ← fetchHeader s w
  let ws ← fetchRest s (bundleLen h - 1) (w + 1)
  fetchEnd s (w + bundleLen h)
  if isCtrl s.cur && fld h 26 5 != 0 then .error (illegalBundle w) else .ok (h, ws)

/-! ### Decode (R42) -/

/-- The fault of a slot word that fails its checks (R42, R185). -/
def slotError (e : DecErr) (sl : Slot) (w : IWord) : Exc :=
  let code := match e with | .illegalOp => 0x02 | .priv => 0x05 | .illegalLiteral => 0x03
  { code := code, info := w.setWidth 64, fslot := sl.num }

/-- The first present slot other than S whose engine clock is out of phase (R42, R348). -/
def outOfPhase (c : Core) (slots : List (Slot × IWord × Instr)) : Option Slot :=
  (slots.find? (fun x => x.1 != .s && c.csr.cyc % divisor c x.1 != 0)).map (·.1)

/-- The bundle at PC fetched and decoded (R42), or its fault with the length of the bundle as far as it is known. -/
def decodeAt (s : State) : Except (Exc × Nat) Bundle :=
  match fetch s with
  | .error e => .error (e, 1)
  | .ok (h, ws) =>
    match decodeBundle (hollyActs s) (core s).pc.toNat h ws with
    | .error (e, sl, w) => .error (slotError e sl w, bundleLen h)
    | .ok slots =>
      match outOfPhase (core s) slots with
      | some sl => .error ({ code := 0x04, info := word (core s).csr.cyc, fslot := sl.num }, bundleLen h)
      | none => .ok { len := bundleLen h, ew := fld h 18 5, slots := slots }

/-- Whether the bundle at PC has been decoded and waits to issue, or to go on (R53, R196). -/
def decoded (c : Core) : Bool := !c.bun.slots.isEmpty

/-- DECODE_FAULT (R42, R43): the bundle at PC, not yet decoded, fails its checks; the core traps with SRES 0. -/
def execDecodeFault (s : State) : Out :=
  .next (if ((core s).st ≠ .running ∧ (core s).st ≠ .frozen) ∨ decoded (core s) then s
    else match decodeAt s with
      | .ok _ => s
      | .error (e, n) => takeTrap e 0 false true (updCore (fun c => { c with bun := { c.bun with len := n } }) s))

/-- EMPTY_BUNDLE (R22, R30, R345): one issue cycle passes, the declared energy is charged, and PC moves on. -/
def execEmptyBundle (ew : BitVec 5) (s : State) : Out :=
  .next (endBundle (charge ew s))

/-! ### A bundle placed for the next step (log 9) -/

/-- The words of the bundle of a table word: a header, the slot word, and seven literal words of zero; a header alone for a
bundle with no slot. -/
def tableBundle (i : Instr) (w : Nat) : List IWord :=
  match i with
  | .emptyBundle ew => [headerOf [] 0 ew]
  | _ => [headerOf [(encodeSlot i).1] 7 0, BitVec.ofNat 32 w] ++ List.replicate 7 0

/-- The core on which a table word is placed: a privileged instruction runs on a control core (R42). -/
def fetchCore (i : Instr) : Nat := if privileged i then 256 else 0

/-- An instruction store that holds one bundle, from word 0 on. -/
def storeOf (ws : List IWord) : Map IsWord :=
  (List.range ws.length).zipWith (fun k w => (k, { word := w, beg := k == 0 })) ws

/-- Every register bank FULL (R57). -/
def fullBanks : Map Bank :=
  [Slot.s, .v0, .v1].foldl (fun m sl =>
    (List.range (bankCount sl)).foldl (fun m b => Map.put m (bankKey sl b) { st := .full }) m) []

/-- A core about to fetch a bundle from word 0 of its instruction store, with every register live. -/
def placedCore (ws : List IWord) (c : Core) : Core :=
  { c with
    st := .running, ctx := 0, pc := 0, br := none, loops := [], istore := storeOf ws
    files := { c.files with live := [(0, BitVec.allOnes 32), (1, BitVec.allOnes 32), (2, BitVec.allOnes 32)]
                            poison := [], banks := fullBanks }
    pend := [], bun := {}, stall := 0, drain := none, window := [], trap := none, resume := none, asyncs := []
    accFaults := [], alwAgain := false, inEnd := false, save := none, restore := false
    csr := { c.csr with cyc := 0, kdiv := 0 } }

/-- A HELD region of context 0 over the whole instruction store of core 0. -/
def storeRegion : Region := { kind := .is, st := .held, size := 2 ^ 18 }

end Sys2Proof.Machine
end

