-- ==== Sys2Proof/Machine/Freeze.lean ====
section
/-! DEFINITION. The freeze (R52 to R54): what holds a bundle before it issues, by cause, the wakes that its accesses start
(R58, R63), and the scratchpad bank conflicts of a bundle that has issued (R62, R128). -/

namespace Sys2Proof.Machine

open Sys2Proof

/-! ### The predicate of a slot -/

/-- The predicate of an S, M, C0 or C1 word is true; a vector word is never skipped (R46). -/
def slotOn (c : Core) (sl : Slot) (w : IWord) : Bool := isV sl || predOn c sl (predField w)

/-- Whether a vector word's selected mask is all clear (R58). -/
def maskClear (c : Core) (sl : Slot) (w : IWord) : Bool := isV sl && selMask c sl (predField w) == 0

/-- Whether an instruction is an XMOV of a vector slot, whose mask suppresses its read (R56). -/
def isMove : Instr → Bool
  | .xmovV _ _ _ => true
  | _ => false

/-! ### Cause 2: register banks (R52, R58) -/

/-- The register that VCVT from ACCRAW reads besides its source: its own destination, for the exponent (R121). -/
def rawReads (c : Core) (sl : Slot) : Instr → List Reg
  | .vcvt _ _ d a _ _ _ _ => if (getV c sl a).tag = 0x20 then [d] else []
  | _ => []

/-- The banks of registers that a slot's word reads and writes, as its issue needs them (R58): a read in RET wakes its bank,
a write one in RET or OFF; a read of an OFF bank finds a dead register. DESIGN CHOICE (log 110): an instruction whose mask is all clear
still reads its sources (R111), and so wakes their banks. -/
def bankNeeds (c : Core) (x : Slot × IWord × Instr) : List (Nat × Bool) :=
  let sl := x.1
  if bankCount sl == 0 then []
  else
    let real (r : Reg) : Bool := !(sl == .s && r == 0)
    let rd := if maskClear c sl x.2.1 && isMove x.2.2 then [] else (regReads x.2.2 ++ rawReads c sl x.2.2).filter real
    let wr := if maskClear c sl x.2.1 then [] else (regWrites x.2.2).filter real
    rd.map (fun r => (bankOf sl r.toNat, false)) ++ wr.map (fun r => (bankOf sl r.toNat, true))

/-- Whether a bank holds a word up: it wakes, or will have to. -/
def bankHolds (c : Core) (sl : Slot) (b : Nat × Bool) : Bool :=
  match (getBank c sl b.1).st with
  | .full => false
  | .off => b.2
  | .ret => true
  | .waking => true

/-- The banks that a word's registers need start their wakes (R58). -/
def wakeRegs (now : Nat) (c : Core) (x : Slot × IWord × Instr) : Core :=
  (bankNeeds c x).foldl (fun c b => if bankHolds c x.1 b then startWake now (some x.1) x.1 b.1 c else c) c

/-! ### Causes 1 and 3: slot accesses (R27, R63) -/

/-- A word's scratchpad ranges, as far as they lie in scratchpad. -/
def accsOf (c : Core) (x : Slot × IWord × Instr) : List (Nat × Nat × Bool) :=
  (slotAccs c x.2.2).filterMap (fun a => if a.1 < spSize then some (a.1, min a.2.1 (spSize - a.1), a.2.2) else none)

/-- Whether a scratchpad bank of a range is in RET or wakes (R63). -/
def spHolds (c : Core) (a : Nat × Nat × Bool) : Bool :=
  c.sp.banks.any (fun b => (b.2.st == .ret || b.2.st == .waking) && rangeInBank a.1 a.2.1 b.1)

/-- The scratchpad banks in RET that some accesses of a slot touch start their wakes (R63). -/
def wakeSp (now : Nat) (sl : Slot) (as : List (Nat × Nat × Bool)) (c : Core) : Core :=
  as.foldl (fun c a =>
    if spHolds c a then
      (banksSpanned a.1 a.2.1).foldl (fun c b => if (getSpBank c b).st = .ret then startSpWake now (some sl) b c else c) c
    else c) c

/-- What a word's accesses meet at the guarded ranges of its core (R27, R215). -/
def guardMeets (c : Core) (x : Slot × IWord × Instr) : Guarded :=
  if c.chans.isEmpty then .free else guardOutcome c ((accsOf c x).map (fun a => (a.1, a.2.1)))

/-- The FAULTED channel whose guarded range a word's access meets, with its fault, which the bundle delivers (R215, R222). -/
def guardChan (c : Core) (x : Slot × IWord × Instr) : Option (Nat × Exc) :=
  if guardMeets c x == .delivers then
    c.chans.findSome? (fun k => if (accsOf c x).any (fun a => guardAt a.1 a.2.1 k.2 == .delivers) then k.2.fault.map (fun f => (k.1, f)) else none)
  else none

/-! ### Cause 2: the bank that a window write enters (R58, R193) -/

/-- The core, file and bank that a CSR instruction's write of WDATA enters, where it is served. -/
def windowTarget (w : CsrOp) (p : Pred) (a : Reg) (o : Opnd) (s : State) : Option (Nat × Slot × Nat) :=
  let k := clusterNo s.cur
  let q := clusterAt s k
  let g := wTarget k q
  let r := wReg q
  if !isCtrl s.cur || !predOn (core s) .s p || rawO (core s) .s o != 0x0F9 then none
  else if decide (3 ≤ wFile q) || wPred q || (wFile q == 0 && r == 0) || !wServed (coreAt s g) q false
      || wTagRefused q (w.mix (if w = .wr then 0 else (wdataRead k s).1) (rawX (core s) .s a)) then none
  else
    let sl := slotOf (BitVec.ofNat 3 (wFile q))
    some (g, sl, bankOf sl r)

/-- The bank that an instruction's window write enters. -/
def windowBank (s : State) : Instr → Option (Nat × Slot × Nat)
  | .csrw p _ a _ o => windowTarget .wr p a o s
  | .csrs p _ a _ o => windowTarget .set p a o s
  | .csrc p _ a _ o => windowTarget .clr p a o s
  | _ => none

/-- The wait for that bank's wake. -/
def windowWait (s : State) (i : Instr) : Option Nat :=
  match windowBank s i with
  | some (g, sl, b) => if (getBank (coreAt s g) sl b).st = .full then none else some 2
  | none => none

/-- The bank that an instruction's window write enters starts its wake. -/
def windowWake (s : State) (i : Instr) : State :=
  match windowBank s i with
  | some (g, sl, b) =>
    let st := (getBank (coreAt s g) sl b).st
    if st = .off ∨ st = .ret then updCoreAt g (startWake s.now none sl b) s else s
  | none => s

/-! ### Causes 6 to 9: queues and explicit waits -/

/-- The wait of an instruction for a queue entry or for its condition, by cause (R52). -/
def instrWait (s : State) : Instr → Option Nat
  | .mcall p _ => callWait p s
  | .mupl p _ _ => callWait p s
  | .msql p a o => msqlWait p a o s
  | .mwait p => mwaitWait p s
  | .egoLd u p ch _ _ _ _ => egoWait u p ch s
  | .egoSt u p ch _ _ _ => egoWait u p ch s
  | .egoLl u p ch _ _ _ _ => egoWait u p ch s
  | .egoSp u p ch _ _ _ => egoWait u p ch s
  | .waitwF u p ch b o => waitwWait .f u p ch b o s
  | .waitwS u p ch b o => waitwWait .sr u p ch b o s
  | .waitwCF u p ch b o => waitwWait .cf u p ch b o s
  | .waitwCS u p ch b o => waitwWait .cs u p ch b o s
  | .bcast u p bus a _ e => bcastWait u p bus a e s
  | .blatch u p bus a _ => blatchWait u p bus a s
  | .gath u p _ _ _ _ _ => gatherWait u p s
  | .scat u p _ _ _ _ => gatherWait u p s
  | .kvapp u p _ _ _ _ => gatherWait u p s
  | .pxlook u p _ _ => gatherWait u p s
  | .pxins u p _ _ => gatherWait u p s
  | .pxdrop u p _ _ => gatherWait u p s
  | .gwait u p a => gwaitWait u p a s
  | .gwaitAll u p => gwaitAllWait u p s
  | .coll u p _ _ _ _ _ _ => collWait u p s
  | .csnap u p _ _ _ => collWait u p s
  | .rfwait p o => rfwaitWait p o s
  | .csrw p d a la o => windowWait s (.csrw p d a la o)
  | .csrs p d a la o => windowWait s (.csrs p d a la o)
  | .csrc p d a la o => windowWait s (.csrc p d a la o)
  | .bwait p o => (bwaitWait p o s).map (fun _ => 9)
  | .balr p o => match balrMeets p o s with
    | .waits _ _ => some 9
    | _ => none
  | _ => none

/-! ### Faults that a slot will deliver (R158, R222, R295, R313) -/

/-- Whether an instruction of a copy slot meets a gather fault: opcodes 0x38 to 0x3E, GWAIT.CAN apart (R313). -/
def meetsGather : Instr → Bool
  | .gath _ _ _ _ _ _ _ | .scat _ _ _ _ _ _ | .gwait _ _ _ | .gwaitAll _ _ | .kvapp _ _ _ _ _ _ | .pxlook _ _ _ _
  | .pxins _ _ _ _ | .pxdrop _ _ _ _ => true
  | _ => false

/-- The group that a barrier instruction's LVL selects (R295). -/
def barrierSel (c : Core) : Instr → Option (BitVec 16)
  | .barm p _ _ _ o | .barr p _ o | .bwait p o | .btry p _ o | .balr p o =>
    if predOn c .s p then some (dmrAt c (specLvl (rawO c .s o))) else none
  | _ => none

/-- Whether an instruction is END: a bundle that holds it delivers, whatever END's predicate (R158, R222). -/
def isEnd : Instr → Bool
  | .endk _ => true
  | _ => false

/-- The core after its oldest collective fault that is met has been taken, with the fault. -/
def takeColl (m : CollMeet) (c : Core) : Option (Exc × Core) :=
  match pickColl m c.collFaults with
  | some (f, fs) => some (f.exc, { c with collFaults := fs })
  | none => none

/-- The pending matrix fault taken (R158): the routine's, else the oldest of those that its matrix-slot instructions have raised after
issue (R174, log 24). -/
def takePme (c : Core) : Option (Exc × Core) :=
  match c.pme.fault, c.pme.side with
  | some f, _ => some (f, { c with pme := { c.pme with fault := none } })
  | none, f :: rest => some (f, { c with pme := { c.pme with side := rest } })
  | none, [] => none

/-- The pending gather fault taken: it stands until RFT or GWAIT.CAN (R313, R314). -/
def takeGather (c : Core) : Option (Exc × Core) :=
  if c.gather.told then none else c.gather.fault.map (fun f => (f, { c with gather := { c.gather with told := true } }))

/-- A pending fault of a channel of a copy slot taken (R222). -/
def takeChan (c : Core) (sl : Slot) : Option (Exc × Core) := (pendingChan c sl).map (fun f => (f.2, markDelivered f.1 c))

/-- Any pending engine fault, as END meets it (R158, R222, R288, R295, R313). -/
def takeAny (c : Core) : Option (Exc × Core) :=
  (takePme c).orElse fun _ => (takeChan c .c0).orElse fun _ => (takeChan c .c1).orElse fun _ =>
    (takeGather c).orElse fun _ => takeColl .atEnd c

/-- The slots of the bundle at hand that have still to issue (R186, R196). -/
def slotsLeft (c : Core) : List (Slot × IWord × Instr) :=
  match c.resume with
  | none => c.bun.slots
  | some r => c.bun.slots.filter (fun x => decide (r ≤ x.1.num))

/-- How a slot meets collective faults (R295). -/
def collMeet (c : Core) (x : Slot × IWord × Instr) : Option CollMeet :=
  match x.1 with
  | .s =>
    if isEnd x.2.2 then some .atEnd
    else (barrierSel c x.2.2).bind (fun g => if g = 0 then none else some (.barrier g))
  | .c0 | .c1 => some (.slot x.1)
  | .m | .v0 | .v1 => none

/-- The oldest of the pending collective faults that some slot of the bundle meets (R295). -/
def oldestMet (c : Core) : Option CollFault :=
  (c.collFaults.filter (fun f => (slotsLeft c).any (fun x => (collMeet c x).any (fun m => meets m f)))).foldl olderFault none

/-- The oldest pending collective fault that the bundle meets taken at a slot that meets it (R295). -/
def takeOldest (c : Core) (x : Slot × IWord × Instr) : Option (Exc × Core) :=
  match collMeet c x, oldestMet c with
  | some m, some f => if meets m f then some (f.exc, { c with collFaults := c.collFaults.erase f }) else none
  | _, _ => none

/-- The fault that a slot delivers before it issues, with the core after it (R158, R215, R222, R295, R313). -/
def delivery (c : Core) (x : Slot × IWord × Instr) : Option (Exc × Core) :=
  (match x.1 with
    | .s => if isEnd x.2.2 then takeAny c else takeOldest c x
    | .m => takePme c
    | .c0 | .c1 =>
      (takeChan c x.1).orElse fun _ => (if meetsGather x.2.2 then takeGather c else none).orElse fun _ => takeOldest c x
    | .v0 | .v1 => none).orElse fun _ => (guardChan c x).map (fun (f : Nat × Exc) => (f.2, markDelivered f.1 c))

/-! ### What holds a bundle (R53) -/

/-- The causes that hold one slot of a decoded bundle; a slot that delivers a fault waits for nothing. -/
def slotCauses (s : State) (x : Slot × IWord × Instr) : List Nat :=
  let c := core s
  if !slotOn c x.1 x.2.1 || (delivery c x).isSome then []
  else
    (if guardMeets c x == .waits then [1] else [])
      ++ (if (bankNeeds c x).any (bankHolds c x.1) then [2] else [])
      ++ (if (accsOf c x).any (spHolds c) then [3] else [])
      ++ (instrWait s x.2.2).toList

/-- The state after an instruction of C0 that takes a shared entry, where it issues without a fault (R224, R294, R310). -/
def afterFirst (s : State) (i : Instr) : State :=
  let o : Out := match i with
    | .bcast u p bus a b e => execBcast u p bus a b e s
    | .blatch u p bus a b => execBlatch u p bus a b s
    | .bltry u p d a b bus => execBltry u p d a b bus s
    | .gath u p addf t pp l d => execGath u p addf t pp l d s
    | .scat u p t pp l d => execScat u p t pp l d s
    | .kvapp u p nr t pp sr => execKvapp u p nr t pp sr s
    | .pxlook u p t r => execPxlook u p t r s
    | .pxins u p t r => execPxins u p t r s
    | .pxdrop u p t r => execPxdrop u p t r s
    | .coll u p i32 op lvl src dst cnt => execColl u p i32 op lvl src dst cnt s
    | .csnap u p lvl a keep => execCsnap u p lvl a keep s
    | _ => .next s
  match o with
  | .next t => if (core t).st == .running then t else s
  | _ => s

/-- The wait of C1 for an entry that C0 of the same bundle takes: the two are held together, before either issues. -/
def pairWait (s : State) : List Nat :=
  let live (x : Slot × IWord × Instr) : Bool := slotOn (core s) x.1 x.2.1 && (delivery (core s) x).isNone
  let xs := (slotsLeft (core s)).filter live
  match xs.find? (·.1 == .c0), xs.find? (·.1 == .c1) with
  | some a, some b =>
    (instrWait (afterFirst (updCore (fun c => { c with st := .running }) s) a.2.2) b.2.2).toList.filter (· != 9)
  | _, _ => []

/-- The causes that hold a decoded bundle (R53). -/
def bundleCauses (s : State) : List Nat := ((slotsLeft (core s)).map (slotCauses s)).flatten ++ pairWait s

/-- The lowest of some causes. -/
def lowestCause (cs : List Nat) : Option Nat :=
  match cs with
  | [] => none
  | k :: ks => some (ks.foldl min k)

/-- The wakes that the accesses of a decoded bundle start (R52, R54). -/
def startWakes (s : State) : State :=
  let d := core s
  (slotsLeft d).foldl (fun s x => windowWake s x.2.2)
    (updCore (fun c => (slotsLeft d).foldl (fun c x =>
      if !slotOn d x.1 x.2.1 || (delivery d x).isSome then c else wakeSp s.now x.1 (accsOf d x) (wakeRegs s.now c x)) c) s)

/-- The declared energy of the bundle at PC, before it decodes (R346). -/
def energyAtPc (c : Core) : Nat :=
  match Map.find? c.istore (c.pc.toNat / 4) with
  | some w => (fld w.word 18 5).toNat
  | none => 0

/-- Whether the energy test holds a bundle that is ready to decode (R346). -/
def energyHolds (s : State) : Bool :=
  let c := core s
  let w := windowSum s.now c
  !decoded c && c.resume.isNone && c.drain.isNone && !c.inEnd && decide (s.now ≥ c.stall) && decide (0 < w)
    && decide (c.csr.grant.toNat < w + energyAtPc c)

/-- Whether a landing waits for its bank (R56). -/
def landWaits (s : State) : Bool := !(dueLandings (core s)).isEmpty

/-- The causes that hold a core before its bundle decodes (R44): a landing whose bank wakes, a bank conflict, or the energy test. -/
def earlyCauses (s : State) : List Nat :=
  (if landWaits s then [2] else []) ++ (if s.now < (core s).stall then [4] else []) ++ (if energyHolds s then [5] else [])

/-- All the causes that hold a core now (R53). -/
def allCauses (s : State) : List Nat := earlyCauses s ++ bundleCauses s

/-- The lowest cause that holds a core now (R53). -/
def holdCause (s : State) : Option Nat := lowestCause (allCauses s)

/-- The core freezes for this reference cycle (R52, R87). -/
def frozenCycle (cause : Nat) (s : State) : State :=
  updCore (fun c => { c with csr := { c.csr with frzc := c.csr.frzc + 1 } }) (freeze cause s)

/-- FREEZE_END (R48, R52): the last active cause has cleared. STAT.FCAUSE keeps the last one (R53). -/
def execFreezeEnd (s : State) : Out :=
  .next (if (core s).st = .frozen ∧ (holdCause s).isNone then updCore (fun c => { c with st := .running }) s else s)

/-! ### Bank conflicts (R62, R128) -/

/-- A slot access at a bank: the slot, the row and whether it writes. -/
abbrev BankUse := Nat × Nat × Bool

/-- The rows of scratchpad that an access touches, as row numbers of 32 bytes. -/
def rowsOf (a n : Nat) : List Nat := (List.range ((a + n - 1) / 32 + 1 - a / 32)).map (a / 32 + ·)

/-- The accesses of a bundle by bank, each slot and row once (R62, R128). -/
def bankUses (as : List (Slot × Nat × Nat × Bool)) : Map (List BankUse) :=
  as.foldl (fun m a =>
    (rowsOf a.2.1 a.2.2.1).foldl (fun m r =>
      let b := r % 384
      let us := Map.get m b []
      let hit (u : BankUse) : Bool := u.1 == a.1.num && u.2.1 == r / 384
      Map.put m b (if us.any hit then us.map (fun u => if hit u then (u.1, u.2.1, u.2.2 || a.2.2.2) else u)
        else us ++ [(a.1.num, r / 384, a.2.2.2)])) m) []

/-- Whether two accesses to a bank are served together: reads of one row by different slots (R62). -/
def servedTogether (x y : BankUse) : Bool := !x.2.2 && !y.2.2 && x.2.1 == y.2.1 && x.1 != y.1

/-- The rounds in which a bank serves its accesses, leftmost first, each with the accesses served and the losses counted, and the
cycles in a row in which the bank has then refused an engine (R62, R128). Each loss of another slot counts, and each extra row of one
instruction once. `asks` tells in which rounds an engine asks; refused in three cycles in a row, `refused` before, it gets the fourth,
and every access loses. -/
def serve (asks : Nat → Bool) : (fuel k refused : Nat) → (counted us : List BankUse) → List (List BankUse × List BankUse) × Nat
  | 0, _, refused, _, _ => ([], refused)
  | _ + 1, _, refused, _, [] => ([], refused)
  | fuel + 1, k, refused, counted, x :: xs =>
    if refused == 3 && asks k then
      let (rs, n) := serve asks fuel (k + 1) 0 (counted ++ x :: xs) (x :: xs)
      (([], x :: xs) :: rs, n)
    else
      let rest := xs.filter (fun y => !servedTogether x y)
      let lost := rest.filter (fun y => y.1 != x.1 || !counted.contains y)
      let (rs, n) := serve asks fuel (k + 1) (if asks k then refused + 1 else 0) (counted ++ rest) rest
      ((x :: xs.filter (servedTogether x), lost) :: rs, n)

/-- The accesses of one bank, by slot and row. -/
def sortUses (us : List BankUse) : List BankUse :=
  us.foldl (fun acc u =>
    acc.filter (fun v => decide (v.1 < u.1) || (v.1 == u.1 && decide (v.2.1 < u.2.1))) ++ [u]
      ++ acc.filter (fun v => !(decide (v.1 < u.1) || (v.1 == u.1 && decide (v.2.1 < u.2.1))))) []

/-- A conflict counter raised, saturating (R66). -/
def addConf (b n : Nat) (c : Core) : Core :=
  let v : BitVec 32 := BitVec.ofNat 32 (min ((Map.get c.sp.conf b 0).toNat + n) 0xFFFFFFFF)
  if n = 0 then c else { c with sp := { c.sp with conf := Map.put c.sp.conf b v } }

/-- The cycles in a row in which a bank has refused an engine, up to the cycle before this one (R62). -/
def refusedSo (now : Nat) (c : Core) (b : Nat) : Nat :=
  match Map.find? c.sp.refusals b with
  | some (t, n) => if t + 1 = now then n else 0
  | none => 0

/-- What a bank has refused an engine after the cycles that a bundle's accesses have taken. -/
def noteRefused (b last n : Nat) (c : Core) : Core :=
  { c with sp := { c.sp with refusals := if n = 0 then Map.del c.sp.refusals b else Map.put c.sp.refusals b (last, n) } }

/-- What a bank comes to: its number, its rounds, and the cycles in a row in which it has then refused an engine. -/
abbrev Served := Nat × List (List BankUse × List BankUse) × Nat

/-- The accesses of the slots that `keep` chooses, arbitrated (R62). Whether an engine that has work asks for a bank in a cycle is
free (log 37). -/
def arbitrate (x : Arb) (keep : Slot → Bool) (c : Core) : List Served :=
  ((bankUses (x.accs.filter (fun a => keep a.1))).filter (fun m => x.busy || 1 < m.2.length)).map (fun m =>
    (m.1, serve (fun k => x.busy && Config.engineAsks x.seed m.1 k) (2 * m.2.length + 1) 0 (refusedSo x.start c m.1) []
      (sortUses m.2)))

/-- The losses counted, and what the banks have refused engines. -/
def noteServed (x : Arb) (rs : List Served) (c : Core) : Core :=
  rs.foldl (fun c r =>
    let d := addConf r.1 ((r.2.1.map (·.2.length)).foldl (· + ·) 0) c
    if x.busy then noteRefused r.1 (x.start + r.2.1.length - 1) r.2.2 d else d) c

/-- The round in which the last of a slot's accesses is served, from 0. -/
def lastRound (rs : List Served) (n : Nat) : Nat :=
  rs.foldl (fun m r =>
    ((List.range r.2.1.length).zip r.2.1).foldl (fun m q => if q.2.1.any (fun u => u.1 == n) then max m q.1 else m) m) 0

/-- Whether accesses need no arbitration: an engine has no work, and no two of them can meet. -/
def noContest (as : List (Slot × Nat × Nat × Bool)) (s : State) : Bool :=
  as.isEmpty || (!banksWanted s s.cur && decide (as.length ≤ 1) && as.all (fun a => decide (a.2.2.1 ≤ 256)))

/-- The arbitration of a bundle: the one under way, else a new one. -/
def arbOf (as : List (Slot × Nat × Nat × Bool)) (arb : Option Arb) (s : State) : Arb :=
  arb.getD { start := s.now, seed := s.ctr, busy := banksWanted s s.cur, accs := as }

/-- A new arbitration in which an engine has work draws free values. -/
def drawArb (arb : Option Arb) (x : Arb) (s : State) : State := if arb.isNone && x.busy then { s with ctr := s.ctr + 1 } else s

/-- The bank conflicts of a bundle that has issued (R62): losses are counted, and the core freezes under cause 4 while the
losing accesses retry. `arb` is the arbitration that has begun in an earlier cycle, if one has (log 118). -/
def conflictsOf (as : List (Slot × Nat × Nat × Bool)) (arb : Option Arb) (s : State) : State :=
  if arb.isNone && noContest as s then s
  else
    let x := arbOf as arb s
    let rs := arbitrate x (fun _ => true) (core s)
    let s1 := updCore (noteServed x rs) (drawArb arb x s)
    let past := x.start + rs.foldl (fun n r => max n r.2.1.length) 1
    if past ≤ s.now + 1 then s1 else freeze 4 (updCore (fun c => { c with stall := past }) s1)

/-- Whether a fault is one of the checks of an access (R75, R128). -/
def accessFault (e : Exc) : Bool :=
  e.code == 0x06 || e.code == 0x20 || e.code == 0x21 || e.code == 0x25 || (e.code == 0x11 && bit e.info 63)

/-- The bank conflicts of a bundle that a fault splits at slot `x` (R62, R75, R186): `s` is the state before the slot, `t` the one in
which the fault is taken. The slots before it have made their accesses, and their losses count. Where the fault is a check of the
slot's own access, that access takes part, and is checked once its bank has served it: until then the slot has not issued, and the
core freezes under cause 4 (log 118). -/
def splitConflicts (as : List (Slot × Nat × Nat × Bool)) (x : Slot × IWord × Instr) (s t : State) : State :=
  let arb := (core s).bun.arb
  let own := (delivery (core s) x).isNone && !(accsOf (core s) x).isEmpty && (core t).trap.any (fun r => accessFault r.exc)
  let keep (sl : Slot) : Bool := decide (sl.num < x.1.num) || (own && sl == x.1)
  if arb.isNone && noContest (as.filter (fun a => keep a.1)) s then t
  else
    let y := arbOf as arb s
    let rs := arbitrate y keep (core s)
    let due := y.start + (if own then lastRound rs x.1.num else 0)
    if s.now < due then
      freeze 4 (updCore (fun c => { c with stall := due, resume := some x.1.num, bun := { c.bun with arb := some y } }) (drawArb arb y s))
    else updCore (noteServed y rs) (drawArb arb y t)

end Sys2Proof.Machine
end

