-- ==== Sys2Proof/Machine/Dispatch.lean ====
section
/-! DEFINITION. The dispatch: one direct call of a meaning for every row of spec/opcode_table.json. -/

namespace Sys2Proof.Machine

open Sys2Proof

/-- The meaning of every instruction and of every step that comes about without one. -/
def exec (i : Instr) (s : State) : Host.Outcome State Fault Refusal :=
  match i with
  | .emptyBundle ew => Sys2Proof.Machine.execEmptyBundle ew s
  | .add p d a la o => Sys2Proof.Machine.execAdd p d a la o s
  | .sub p d a la o => Sys2Proof.Machine.execSub p d a la o s
  | .and p d a la o => Sys2Proof.Machine.execAnd p d a la o s
  | .or p d a la o => Sys2Proof.Machine.execOr p d a la o s
  | .xor p d a la o => Sys2Proof.Machine.execXor p d a la o s
  | .andn p d a la o => Sys2Proof.Machine.execAndn p d a la o s
  | .shl p d a la o => Sys2Proof.Machine.execShl p d a la o s
  | .shr p d a la o => Sys2Proof.Machine.execShr p d a la o s
  | .sra p d a la o => Sys2Proof.Machine.execSra p d a la o s
  | .min p d a la o => Sys2Proof.Machine.execMin p d a la o s
  | .max p d a la o => Sys2Proof.Machine.execMax p d a la o s
  | .minu p d a la o => Sys2Proof.Machine.execMinu p d a la o s
  | .maxu p d a la o => Sys2Proof.Machine.execMaxu p d a la o s
  | .mul p d a la o => Sys2Proof.Machine.execMul p d a la o s
  | .mulh p d a la o => Sys2Proof.Machine.execMulh p d a la o s
  | .mulhu p d a la o => Sys2Proof.Machine.execMulhu p d a la o s
  | .clz p d a la => Sys2Proof.Machine.execClz p d a la s
  | .popc p d a la => Sys2Proof.Machine.execPopc p d a la s
  | .cmpeq p d a la o m => Sys2Proof.Machine.execCmpeq p d a la o m s
  | .cmpne p d a la o m => Sys2Proof.Machine.execCmpne p d a la o m s
  | .cmplt p d a la o m => Sys2Proof.Machine.execCmplt p d a la o m s
  | .cmpge p d a la o m => Sys2Proof.Machine.execCmpge p d a la o m s
  | .cmpltu p d a la o m => Sys2Proof.Machine.execCmpltu p d a la o m s
  | .cmpgeu p d a la o m => Sys2Proof.Machine.execCmpgeu p d a la o m s
  | .pand p d a b n => Sys2Proof.Machine.execPand p d a b n s
  | .por p d a b n => Sys2Proof.Machine.execPor p d a b n s
  | .pxor p d a b n => Sys2Proof.Machine.execPxor p d a b n s
  | .sel p d k a la b lb => Sys2Proof.Machine.execSel p d k a la b lb s
  | .lds p d a la o sx sz => Sys2Proof.Machine.execLds p d a la o sx sz s
  | .sts p d a la o sz => Sys2Proof.Machine.execSts p d a la o sz s
  | .amo p d a la off w op => Sys2Proof.Machine.execAmo p d a la off w op s
  | .amocas p d a la b lb w => Sys2Proof.Machine.execAmocas p d a la b lb w s
  | .br p o => Sys2Proof.Machine.execBr p o s
  | .bri p a la b lb => Sys2Proof.Machine.execBri p a la b lb s
  | .call p d o => Sys2Proof.Machine.execCall p d o s
  | .ret p a la => Sys2Proof.Machine.execRet p a la s
  | .loop p a la o => Sys2Proof.Machine.execLoop p a la o s
  | .endk p => Sys2Proof.Machine.execEndk p s
  | .trap p o => Sys2Proof.Machine.execTrap p o s
  | .rft p d a => Sys2Proof.Machine.execRft p d a s
  | .rftSkip p d a => Sys2Proof.Machine.execRftSkip p d a s
  | .csrr p d o => Sys2Proof.Machine.execCsrr p d o s
  | .csrw p d a la o => Sys2Proof.Machine.execCsrw p d a la o s
  | .csrs p d a la o => Sys2Proof.Machine.execCsrs p d a la o s
  | .csrc p d a la o => Sys2Proof.Machine.execCsrc p d a la o s
  | .xmovS p x => Sys2Proof.Machine.execXmovS p x s
  | .xmovpS p x => Sys2Proof.Machine.execXmovpS p x s
  | .bankRS p o => Sys2Proof.Machine.execBankRS p o s
  | .bankWRS p o => Sys2Proof.Machine.execBankWRS p o s
  | .bankSR p a la o => Sys2Proof.Machine.execBankSR p a la o s
  | .bankSW p a la o => Sys2Proof.Machine.execBankSW p a la o s
  | .rentSP p d a la t => Sys2Proof.Machine.execRentSP p d a la t s
  | .rentIS p d a la t => Sys2Proof.Machine.execRentIS p d a la t s
  | .rentHBM p d a la t => Sys2Proof.Machine.execRentHBM p d a la t s
  | .rentCAP p d a la t => Sys2Proof.Machine.execRentCAP p d a la t s
  | .renew p d a la o => Sys2Proof.Machine.execRenew p d a la o s
  | .prepay p d a la o => Sys2Proof.Machine.execPrepay p d a la o s
  | .sublet p d a la b lb => Sys2Proof.Machine.execSublet p d a la b lb s
  | .vacate p d a la => Sys2Proof.Machine.execVacate p d a la s
  | .rqry p d a la item => Sys2Proof.Machine.execRqry p d a la item s
  | .fence p path scope => Sys2Proof.Machine.execFence p path scope s
  | .fencex p wpath rpath scope => Sys2Proof.Machine.execFencex p wpath rpath scope s
  | .acqW p d a la b lb => Sys2Proof.Machine.execAcqW p d a la b lb s
  | .acqR p d a la b lb => Sys2Proof.Machine.execAcqR p d a la b lb s
  | .acqT p d a la b lb => Sys2Proof.Machine.execAcqT p d a la b lb s
  | .acqQ p d a la => Sys2Proof.Machine.execAcqQ p d a la s
  | .rel p d a la b lb => Sys2Proof.Machine.execRel p d a la b lb s
  | .barm p d a la o => Sys2Proof.Machine.execBarm p d a la o s
  | .barr p d o => Sys2Proof.Machine.execBarr p d o s
  | .bwait p o => Sys2Proof.Machine.execBwait p o s
  | .btry p d o => Sys2Proof.Machine.execBtry p d o s
  | .balr p o => Sys2Proof.Machine.execBalr p o s
  | .qput p d a la b lb => Sys2Proof.Machine.execQput p d a la b lb s
  | .qtake p d a la b lb w => Sys2Proof.Machine.execQtake p d a la b lb w s
  | .gnew p d a la b lb k => Sys2Proof.Machine.execGnew p d a la b lb k s
  | .gdep p d a la b lb => Sys2Proof.Machine.execGdep p d a la b lb s
  | .garm p d a la => Sys2Proof.Machine.execGarm p d a la s
  | .launch p d a la b lb => Sys2Proof.Machine.execLaunch p d a la b lb s
  | .clkdivV p o => Sys2Proof.Machine.execClkdivV p o s
  | .clkdivM p o => Sys2Proof.Machine.execClkdivM p o s
  | .clkdivC p o => Sys2Proof.Machine.execClkdivC p o s
  | .clkdivK p o => Sys2Proof.Machine.execClkdivK p o s
  | .rfwait p o => Sys2Proof.Machine.execRfwait p o s
  | .ctxsw p => Sys2Proof.Machine.execCtxsw p s
  | .ctxctlNew p d a b => Sys2Proof.Machine.execCtxctlNew p d a b s
  | .ctxctlGrant p d a b => Sys2Proof.Machine.execCtxctlGrant p d a b s
  | .ctxctlSave p d a b => Sys2Proof.Machine.execCtxctlSave p d a b s
  | .ctxctlResume p d a b => Sys2Proof.Machine.execCtxctlResume p d a b s
  | .ctxctlSettier p d a b => Sys2Proof.Machine.execCtxctlSettier p d a b s
  | .ctxctlRoot p d a b => Sys2Proof.Machine.execCtxctlRoot p d a b s
  | .ctxctlEnd p d a b => Sys2Proof.Machine.execCtxctlEnd p d a b s
  | .ctxctlQuery p d a b => Sys2Proof.Machine.execCtxctlQuery p d a b s
  | .vadd u p d a la b lb rtz => Sys2Proof.Machine.execVadd u p d a la b lb rtz s
  | .vsub u p d a la b lb rtz => Sys2Proof.Machine.execVsub u p d a la b lb rtz s
  | .vmul u p d a la b lb rtz => Sys2Proof.Machine.execVmul u p d a la b lb rtz s
  | .vfma u p d a la b lb rtz => Sys2Proof.Machine.execVfma u p d a la b lb rtz s
  | .vmin u p d a la b lb => Sys2Proof.Machine.execVmin u p d a la b lb s
  | .vmax u p d a la b lb => Sys2Proof.Machine.execVmax u p d a la b lb s
  | .vabs u p d a la => Sys2Proof.Machine.execVabs u p d a la s
  | .vneg u p d a la => Sys2Proof.Machine.execVneg u p d a la s
  | .vcmp u p d a la b lb cc => Sys2Proof.Machine.execVcmp u p d a la b lb cc s
  | .vcswpHi u p d a la b lb => Sys2Proof.Machine.execVcswpHi u p d a la b lb s
  | .vcswpLo u p d a la b lb => Sys2Proof.Machine.execVcswpLo u p d a la b lb s
  | .vcswpX u p d a la k => Sys2Proof.Machine.execVcswpX u p d a la k s
  | .vrcp u p d a la => Sys2Proof.Machine.execVrcp u p d a la s
  | .vrsq u p d a la => Sys2Proof.Machine.execVrsq u p d a la s
  | .vexp2 u p d a la => Sys2Proof.Machine.execVexp2 u p d a la s
  | .vlog2 u p d a la => Sys2Proof.Machine.execVlog2 u p d a la s
  | .viadd u p d a la b lb => Sys2Proof.Machine.execViadd u p d a la b lb s
  | .visub u p d a la b lb => Sys2Proof.Machine.execVisub u p d a la b lb s
  | .viadds u p d a la b lb => Sys2Proof.Machine.execViadds u p d a la b lb s
  | .visubs u p d a la b lb => Sys2Proof.Machine.execVisubs u p d a la b lb s
  | .vimul u p d a la b lb => Sys2Proof.Machine.execVimul u p d a la b lb s
  | .vimac u p d a la b lb => Sys2Proof.Machine.execVimac u p d a la b lb s
  | .vimin u p d a la b lb => Sys2Proof.Machine.execVimin u p d a la b lb s
  | .vimax u p d a la b lb => Sys2Proof.Machine.execVimax u p d a la b lb s
  | .vicmp u p d a la b lb cc => Sys2Proof.Machine.execVicmp u p d a la b lb cc s
  | .vshl u p d a la b lb => Sys2Proof.Machine.execVshl u p d a la b lb s
  | .vshr u p d a la b lb => Sys2Proof.Machine.execVshr u p d a la b lb s
  | .vsra u p d a la b lb => Sys2Proof.Machine.execVsra u p d a la b lb s
  | .vpopc u p d a la => Sys2Proof.Machine.execVpopc u p d a la s
  | .vand u p d a la b lb => Sys2Proof.Machine.execVand u p d a la b lb s
  | .vor u p d a la b lb => Sys2Proof.Machine.execVor u p d a la b lb s
  | .vxor u p d a la b lb => Sys2Proof.Machine.execVxor u p d a la b lb s
  | .vandn u p d a la b lb => Sys2Proof.Machine.execVandn u p d a la b lb s
  | .vsel u p d k a la b lb => Sys2Proof.Machine.execVsel u p d k a la b lb s
  | .vmov u p d a la => Sys2Proof.Machine.execVmov u p d a la s
  | .vpand u p d a b n => Sys2Proof.Machine.execVpand u p d a b n s
  | .vpor u p d a b n => Sys2Proof.Machine.execVpor u p d a b n s
  | .vpxor u p d a b n => Sys2Proof.Machine.execVpxor u p d a b n s
  | .vpnot u p d a => Sys2Proof.Machine.execVpnot u p d a s
  | .vpset u p d o => Sys2Proof.Machine.execVpset u p d o s
  | .vpcnt u p d a => Sys2Proof.Machine.execVpcnt u p d a s
  | .vcvt u p d a la fmt mode sat => Sys2Proof.Machine.execVcvt u p d a la fmt mode sat s
  | .vrnd u p d a la mode => Sys2Proof.Machine.execVrnd u p d a la mode s
  | .vclmp u p d a la b lb => Sys2Proof.Machine.execVclmp u p d a la b lb s
  | .vperm u p d a la b lb byte => Sys2Proof.Machine.execVperm u p d a la b lb byte s
  | .vbcst u p d a la o fmt => Sys2Proof.Machine.execVbcst u p d a la o fmt s
  | .vrot u p d a la b lb => Sys2Proof.Machine.execVrot u p d a la b lb s
  | .vred u p d a la op => Sys2Proof.Machine.execVred u p d a la op s
  | .vscan u p d a la op => Sys2Proof.Machine.execVscan u p d a la op s
  | .vidx u p d fmt => Sys2Proof.Machine.execVidx u p d fmt s
  | .vld u p d a la off fmt => Sys2Proof.Machine.execVld u p d a la off fmt s
  | .vst u p d a la off => Sys2Proof.Machine.execVst u p d a la off s
  | .vldx u p d a la fmt => Sys2Proof.Machine.execVldx u p d a la fmt s
  | .vstx u p d a la => Sys2Proof.Machine.execVstx u p d a la s
  | .vpln u p d a la sg j => Sys2Proof.Machine.execVpln u p d a la sg j s
  | .vupl u p d a la sg j => Sys2Proof.Machine.execVupl u p d a la sg j s
  | .vpack u p d a la g r part => Sys2Proof.Machine.execVpack u p d a la g r part s
  | .vmulw u p d a la b lb => Sys2Proof.Machine.execVmulw u p d a la b lb s
  | .vxtr u p d a la b lb => Sys2Proof.Machine.execVxtr u p d a la b lb s
  | .vgrd u p d a la b lb t => Sys2Proof.Machine.execVgrd u p d a la b lb t s
  | .vhist u p a lvl u8 => Sys2Proof.Machine.execVhist u p a lvl u8 s
  | .vtag u p d a la o => Sys2Proof.Machine.execVtag u p d a la o s
  | .vtget u p d a la => Sys2Proof.Machine.execVtget u p d a la s
  | .xmovV u p x => Sys2Proof.Machine.execXmovV u p x s
  | .xmovpV u p x => Sys2Proof.Machine.execXmovpV u p x s
  | .bankRV u p o => Sys2Proof.Machine.execBankRV u p o s
  | .bankWRV u p o => Sys2Proof.Machine.execBankWRV u p o s
  | .mcall p o => Sys2Proof.Machine.execMcall p o s
  | .mparm p d o => Sys2Proof.Machine.execMparm p d o s
  | .madd p d a o => Sys2Proof.Machine.execMadd p d a o s
  | .msql p a o => Sys2Proof.Machine.execMsql p a o s
  | .msqr p d clr => Sys2Proof.Machine.execMsqr p d clr s
  | .acrel p o => Sys2Proof.Machine.execAcrel p o s
  | .mstat p d a => Sys2Proof.Machine.execMstat p d a s
  | .mtst p d a e => Sys2Proof.Machine.execMtst p d a e s
  | .mwait p => Sys2Proof.Machine.execMwait p s
  | .mupl p a o => Sys2Proof.Machine.execMupl p a o s
  | .xmovM p x => Sys2Proof.Machine.execXmovM p x s
  | .xmovpM p x => Sys2Proof.Machine.execXmovpM p x s
  | .kmov u p d o => Sys2Proof.Machine.execKmov u p d o s
  | .kadd u p d a o => Sys2Proof.Machine.execKadd u p d a o s
  | .ksub u p d a o => Sys2Proof.Machine.execKsub u p d a o s
  | .kmul u p d a o => Sys2Proof.Machine.execKmul u p d a o s
  | .kand u p d a o => Sys2Proof.Machine.execKand u p d a o s
  | .kor u p d a o => Sys2Proof.Machine.execKor u p d a o s
  | .kxor u p d a o => Sys2Proof.Machine.execKxor u p d a o s
  | .kshl u p d a o => Sys2Proof.Machine.execKshl u p d a o s
  | .kshr u p d a o => Sys2Proof.Machine.execKshr u p d a o s
  | .ksra u p d a o => Sys2Proof.Machine.execKsra u p d a o s
  | .kmin u p d a o => Sys2Proof.Machine.execKmin u p d a o s
  | .kmax u p d a o => Sys2Proof.Machine.execKmax u p d a o s
  | .kclz u p d a => Sys2Proof.Machine.execKclz u p d a s
  | .kpopc u p d a => Sys2Proof.Machine.execKpopc u p d a s
  | .kcmp u p d cc a o => Sys2Proof.Machine.execKcmp u p d cc a o s
  | .ksel u p d a b e => Sys2Proof.Machine.execKsel u p d a b e s
  | .kld u p d a o sx sz => Sys2Proof.Machine.execKld u p d a o sx sz s
  | .kst u p d a o sz => Sys2Proof.Machine.execKst u p d a o sz s
  | .xmovC u p x => Sys2Proof.Machine.execXmovC u p x s
  | .xmovpC u p x => Sys2Proof.Machine.execXmovpC u p x s
  | .eset u p ch lvl a b e => Sys2Proof.Machine.execEset u p ch lvl a b e s
  | .egoLd u p ch g a b e => Sys2Proof.Machine.execEgoLd u p ch g a b e s
  | .egoSt u p ch a b e => Sys2Proof.Machine.execEgoSt u p ch a b e s
  | .egoLl u p ch g a b e => Sys2Proof.Machine.execEgoLl u p ch g a b e s
  | .egoSp u p ch a b e => Sys2Proof.Machine.execEgoSp u p ch a b e s
  | .esusp u p mask => Sys2Proof.Machine.execEsusp u p mask s
  | .eres u p mask => Sys2Proof.Machine.execEres u p mask s
  | .ecan u p mask => Sys2Proof.Machine.execEcan u p mask s
  | .eclr u p mask => Sys2Proof.Machine.execEclr u p mask s
  | .eqry u p d ch item => Sys2Proof.Machine.execEqry u p d ch item s
  | .waitwF u p ch base o => Sys2Proof.Machine.execWaitwF u p ch base o s
  | .waitwS u p ch base o => Sys2Proof.Machine.execWaitwS u p ch base o s
  | .waitwCF u p ch base o => Sys2Proof.Machine.execWaitwCF u p ch base o s
  | .waitwCS u p ch base o => Sys2Proof.Machine.execWaitwCS u p ch base o s
  | .cwm u p d ch item => Sys2Proof.Machine.execCwm u p d ch item s
  | .cfence u p mask => Sys2Proof.Machine.execCfence u p mask s
  | .bcast u p bus a b e => Sys2Proof.Machine.execBcast u p bus a b e s
  | .blatch u p bus a b => Sys2Proof.Machine.execBlatch u p bus a b s
  | .bltry u p d a b bus => Sys2Proof.Machine.execBltry u p d a b bus s
  | .gath u p addf t pp l d => Sys2Proof.Machine.execGath u p addf t pp l d s
  | .scat u p t pp l d => Sys2Proof.Machine.execScat u p t pp l d s
  | .gwait u p a => Sys2Proof.Machine.execGwait u p a s
  | .gwaitAll u p => Sys2Proof.Machine.execGwaitAll u p s
  | .gwaitCan u p => Sys2Proof.Machine.execGwaitCan u p s
  | .kvapp u p nr t pp sr => Sys2Proof.Machine.execKvapp u p nr t pp sr s
  | .pxlook u p t r => Sys2Proof.Machine.execPxlook u p t r s
  | .pxins u p t r => Sys2Proof.Machine.execPxins u p t r s
  | .pxdrop u p t r => Sys2Proof.Machine.execPxdrop u p t r s
  | .coll u p i32 op lvl src dst cnt => Sys2Proof.Machine.execColl u p i32 op lvl src dst cnt s
  | .csnap u p lvl a keep => Sys2Proof.Machine.execCsnap u p lvl a keep s
  | .mirrMark u p d => Sys2Proof.Machine.execMirrMark u p d s
  | .mirrDone u p d => Sys2Proof.Machine.execMirrDone u p d s
  | .mirrSt u p d => Sys2Proof.Machine.execMirrSt u p d s
  | .hqry u p d o => Sys2Proof.Machine.execHqry u p d o s
  | .hqryF u p d o => Sys2Proof.Machine.execHqryF u p d o s
  | .uopNop n => Sys2Proof.Machine.execUopNop n s
  | .uopPlane ra pi w step => Sys2Proof.Machine.execUopPlane ra pi w step s
  | .uopBload ra u step => Sys2Proof.Machine.execUopBload ra u step s
  | .uopMulw => Sys2Proof.Machine.execUopMulw s
  | .uopXtr z n => Sys2Proof.Machine.execUopXtr z n s
  | .uopAcc ra sh => Sys2Proof.Machine.execUopAcc ra sh s
  | .uopScale => Sys2Proof.Machine.execUopScale s
  | .uopSpidx ra rb nc u step => Sys2Proof.Machine.execUopSpidx ra rb nc u step s
  | .uopDrain ra rb fmt sr sat step => Sys2Proof.Machine.execUopDrain ra rb fmt sr sat step s
  | .uopLoop ra reg fin cnt => Sys2Proof.Machine.execUopLoop ra reg fin cnt s
  | .uopJnz target => Sys2Proof.Machine.execUopJnz target s
  | .uopEnd => Sys2Proof.Machine.execUopEnd s
  | .uopWaitq n => Sys2Proof.Machine.execUopWaitq n s
  | .uopSetexp e auto => Sys2Proof.Machine.execUopSetexp e auto s
  | .uopStat ra rb c => Sys2Proof.Machine.execUopStat ra rb c s
  | .uopFence => Sys2Proof.Machine.execUopFence s
  | .resultLanding => Sys2Proof.Machine.execResultLanding s
  | .xmovArrival => Sys2Proof.Machine.execXmovArrival s
  | .freezeEnd => Sys2Proof.Machine.execFreezeEnd s
  | .bankWakeComplete file bank => Sys2Proof.Machine.execBankWakeComplete file bank s
  | .scratchpadBankWake bank => Sys2Proof.Machine.execScratchpadBankWake bank s
  | .asyncFaultTake => Sys2Proof.Machine.execAsyncFaultTake s
  | .machineCheck syndrome => Sys2Proof.Machine.execMachineCheck syndrome s
  | .trapRecordUnlatch => Sys2Proof.Machine.execTrapRecordUnlatch s
  | .tqpop => Sys2Proof.Machine.execTqpop s
  | .wdataWrite v => Sys2Proof.Machine.execWdataWrite v s
  | .wdataRead => Sys2Proof.Machine.execWdataRead s
  | .lastfatalClear => Sys2Proof.Machine.execLastfatalClear s
  | .ldepthWrite v => Sys2Proof.Machine.execLdepthWrite v s
  | .lcntWrite v => Sys2Proof.Machine.execLcntWrite v s
  | .csrWrite num v => Sys2Proof.Machine.execCsrWrite num v s
  | .kernelPlace node => Sys2Proof.Machine.execKernelPlace node s
  | .loadComplete => Sys2Proof.Machine.execLoadComplete s
  | .dispatchDecision => Sys2Proof.Machine.execDispatchDecision s
  | .starveTimeout node => Sys2Proof.Machine.execStarveTimeout node s
  | .kernelRetire => Sys2Proof.Machine.execKernelRetire s
  | .saveComplete => Sys2Proof.Machine.execSaveComplete s
  | .restoreComplete => Sys2Proof.Machine.execRestoreComplete s
  | .contextFree ctx => Sys2Proof.Machine.execContextFree ctx s
  | .tickBoundary => Sys2Proof.Machine.execTickBoundary s
  | .paidUntilReached h => Sys2Proof.Machine.execPaidUntilReached h s
  | .launchRegionRenewal h => Sys2Proof.Machine.execLaunchRegionRenewal h s
  | .graceEnd h => Sys2Proof.Machine.execGraceEnd h s
  | .subletTermEnd h => Sys2Proof.Machine.execSubletTermEnd h s
  | .zeroFillComplete h => Sys2Proof.Machine.execZeroFillComplete h s
  | .copyComplete ch copy gran st => Sys2Proof.Machine.execCopyComplete ch copy gran st s
  | .copyFault ch => Sys2Proof.Machine.execCopyFault ch s
  | .bcastDrive bus => Sys2Proof.Machine.execBcastDrive bus s
  | .bcastLanding bus => Sys2Proof.Machine.execBcastLanding bus s
  | .routineStart => Sys2Proof.Machine.execRoutineStart s
  | .muplRun => Sys2Proof.Machine.execMuplRun s
  | .msqlEntryRead => Sys2Proof.Machine.execMsqlEntryRead s
  | .scaleEntryEnqueue => Sys2Proof.Machine.execScaleEntryEnqueue s
  | .acrelEffect => Sys2Proof.Machine.execAcrelEffect s
  | .statusSample => Sys2Proof.Machine.execStatusSample s
  | .gatherOpStart => Sys2Proof.Machine.execGatherOpStart s
  | .gatherOpComplete => Sys2Proof.Machine.execGatherOpComplete s
  | .gatherElementFault => Sys2Proof.Machine.execGatherElementFault s
  | .barrierRelease g b => Sys2Proof.Machine.execBarrierRelease g b s
  | .barrierRemoteArrival g b => Sys2Proof.Machine.execBarrierRemoteArrival g b s
  | .barrierRemoteRelease g b => Sys2Proof.Machine.execBarrierRemoteRelease g b s
  | .collSetRun g k => Sys2Proof.Machine.execCollSetRun g k s
  | .collSetComplete g k => Sys2Proof.Machine.execCollSetComplete g k s
  | .csnapVisible => Sys2Proof.Machine.execCsnapVisible s
  | .copyNodeComplete node => Sys2Proof.Machine.execCopyNodeComplete node s
  | .copyNodeFault node => Sys2Proof.Machine.execCopyNodeFault node s
  | .refreshSlot waiting => Sys2Proof.Machine.execRefreshSlot waiting s
  | .hotModeEnter stack => Sys2Proof.Machine.execHotModeEnter stack s
  | .hotModeExit stack => Sys2Proof.Machine.execHotModeExit stack s
  | .lineRebuild pa src => Sys2Proof.Machine.execLineRebuild pa src s
  | .dieMapOut stack die => Sys2Proof.Machine.execDieMapOut stack die s
  | .mapOutComplete stack die => Sys2Proof.Machine.execMapOutComplete stack die s
  | .cxlLinkDown link => Sys2Proof.Machine.execCxlLinkDown link s
  | .latencyRecordClear stack chan => Sys2Proof.Machine.execLatencyRecordClear stack chan s
  | .portDown port => Sys2Proof.Machine.execPortDown port s
  | .mbaupQmsg ctx qid seq msg => Sys2Proof.Machine.execMbaupQmsg ctx qid seq msg s
  | .mbaupAdmin seq req => Sys2Proof.Machine.execMbaupAdmin seq req s
  | .mbaupStatus seq => Sys2Proof.Machine.execMbaupStatus seq s
  | .mbaupLog seq first => Sys2Proof.Machine.execMbaupLog seq first s
  | .mbaupResync seq => Sys2Proof.Machine.execMbaupResync seq s
  | .resyncSample => Sys2Proof.Machine.execResyncSample s
  | .mbaupSpdm seq msg => Sys2Proof.Machine.execMbaupSpdm seq msg s
  | .adminJoin req => Sys2Proof.Machine.execAdminJoin req s
  | .adminLeave peer => Sys2Proof.Machine.execAdminLeave peer s
  | .adminPeerLost peer => Sys2Proof.Machine.execAdminPeerLost peer s
  | .handleInstall ctx idx w0 w1 w2 => Sys2Proof.Machine.execHandleInstall ctx idx w0 w1 w2 s
  | .pageTableUpdate ctx pa entry => Sys2Proof.Machine.execPageTableUpdate ctx pa entry s
  | .queueCreate qid ctx dir logSlots region => Sys2Proof.Machine.execQueueCreate qid ctx dir logSlots region s
  | .shareAssign ctx stack share => Sys2Proof.Machine.execShareAssign ctx stack share s
  | .mirrorAssign ctx peer => Sys2Proof.Machine.execMirrorAssign ctx peer s
  | .domainCreate ctx => Sys2Proof.Machine.execDomainCreate ctx s
  | .exportInstall peer regions => Sys2Proof.Machine.execExportInstall peer regions s
  | .powerBudgetSet b floors demands => Sys2Proof.Machine.execPowerBudgetSet b floors demands s
  | .peerConnected peer => Sys2Proof.Machine.execPeerConnected peer s
  | .joinTimeout peer => Sys2Proof.Machine.execJoinTimeout peer s
  | .peerSilence peer => Sys2Proof.Machine.execPeerSilence peer s
  | .peerPacketArrive pkt => Sys2Proof.Machine.execPeerPacketArrive pkt s
  | .peerLostTimeout peer => Sys2Proof.Machine.execPeerLostTimeout peer s
  | .promoteNotice peer promoter => Sys2Proof.Machine.execPromoteNotice peer promoter s
  | .heartbeatSend peer => Sys2Proof.Machine.execHeartbeatSend peer s
  | .peerAccessArrive ask off len write => Sys2Proof.Machine.execPeerAccessArrive ask off len write s
  | .mirrorGranuleSend => Sys2Proof.Machine.execMirrorGranuleSend s
  | .mirrorAck => Sys2Proof.Machine.execMirrorAck s
  | .clkdivDrainEnd => Sys2Proof.Machine.execClkdivDrainEnd s
  | .powerGood => Sys2Proof.Machine.execPowerGood s
  | .selftestEnd passed bramble => Sys2Proof.Machine.execSelftestEnd passed bramble s
  | .partTestEnd part num passed => Sys2Proof.Machine.execPartTestEnd part num passed s
  | .brambleRestart image => Sys2Proof.Machine.execBrambleRestart image s
  | .hollyFault => Sys2Proof.Machine.execHollyFault s
  | .powerCycle => Sys2Proof.Machine.execPowerCycle s
  | .decodeFault => Sys2Proof.Machine.execDecodeFault s
  | .mbaupOtherType kind seq => Sys2Proof.Machine.execMbaupOtherType kind seq s

end Sys2Proof.Machine
end

