-- ==== Sys2Proof/Machine/Turn.lean ====
section
/-! DEFINITION. What a step of the machine does (R5, R10, R49, R228): the steps that the world outside brings about, the
steps that are due at the present reference cycle, a core's turn in it, and the end of the cycle. The meanings are those of
`exec`, which `stepWith` takes as its argument. Logs 1 and 2 give the order. -/

namespace Sys2Proof.Machine

open Sys2Proof

/-- The meaning of instructions, as the steps below use it. -/
abbrev Exec := Instr → State → Out

/-- An outcome followed by more. -/
def andThen (o : Out) (f : State → Out) : Out :=
  match o with
  | .next s => f s
  | .fault r => .fault r
  | .refused r => .refused r

/-! ### Steps from outside, and engine work of no stated duration (log 1) -/

/-- Whether a step may come about as an input: it is no instruction, and no rule fixes when it comes. -/
def isInput : Instr → Bool
  | .machineCheck _ | .kernelPlace _ | .loadComplete | .dispatchDecision | .saveComplete | .restoreComplete
  | .zeroFillComplete _ | .copyComplete _ _ _ _ | .copyFault _ | .gatherOpStart | .gatherOpComplete | .gatherElementFault
  | .barrierRemoteArrival _ _ | .barrierRemoteRelease _ _ | .collSetRun _ _ | .collSetComplete _ _ | .copyNodeComplete _
  | .copyNodeFault _ | .refreshSlot _ | .hotModeEnter _ | .hotModeExit _ | .lineRebuild _ _ | .dieMapOut _ _
  | .mapOutComplete _ _ | .cxlLinkDown _ | .latencyRecordClear _ _ | .portDown _ | .mbaupQmsg _ _ _ _ | .mbaupAdmin _ _
  | .mbaupStatus _ | .mbaupLog _ _ | .mbaupResync _ | .mbaupSpdm _ _ | .mbaupOtherType _ _ | .adminJoin _ | .adminLeave _
  | .adminPeerLost _ | .handleInstall _ _ _ _ _ | .pageTableUpdate _ _ _ | .queueCreate _ _ _ _ _ | .shareAssign _ _ _
  | .mirrorAssign _ _ | .domainCreate _ | .exportInstall _ _ | .powerBudgetSet _ _ _ | .peerConnected _
  | .peerPacketArrive _ | .promoteNotice _ _ | .peerAccessArrive _ _ _ _ | .mirrorGranuleSend | .mirrorAck | .powerGood
  | .selftestEnd _ _ | .partTestEnd _ _ _ | .brambleRestart _ | .hollyFault | .powerCycle => true
  | _ => false

/-! ### Steps that are due (R160, R161, R228, R325, R339 and the rules of each) -/

/-- A step that is due: an instruction's, or one of the steps whose row names what it acts on. -/
inductive Due where
  | instr (i : Instr)
  | fileBank (file : Slot) (bank : BitVec 2)
  | spBank (bank : BitVec 9)
  | refresh
  | bramble
  | freeCtx (ctx : BitVec 12)
  | starve (node : BitVec 32)
  | release (g : BitVec 16) (b : BitVec 12)
  | land (bus : BitVec 2)
  | drive (bus : BitVec 2)
  | join (peer : BitVec 8)
  | silence (peer : BitVec 8)
  | lost (peer : BitVec 8)
  | heartbeat (peer : BitVec 8)
  deriving DecidableEq, Repr

/-- The meaning of a due step: its row's. -/
def runDue (ex : Exec) (d : Due) (s : State) : Out :=
  match d with
  | .instr i => ex i s
  | .fileBank f b => execBankWakeComplete f b s
  | .spBank b => execScratchpadBankWake b s
  | .refresh => execRefreshSlot [] s
  | .bramble => execBrambleRestart s.dev.bramble s
  | .freeCtx c => execContextFree c s
  | .starve n => execStarveTimeout n s
  | .release g b => execBarrierRelease g b s
  | .land b => execBcastLanding b s
  | .drive b => execBcastDrive b s
  | .join p => execJoinTimeout p s
  | .silence p => execPeerSilence p s
  | .lost p => execPeerLostTimeout p s
  | .heartbeat p => execHeartbeatSend p s

/-- Whether an engine's wait for a bank would start a wake: some bank of a range sleeps. -/
def sleeps (c : Core) (r : Nat × Nat) : Bool :=
  c.sp.banks.any (fun b => (b.2.st == .off || b.2.st == .ret) && rangeInBank r.1 r.2 b.1)

/-- Whether the head call starts now, or starts the wakes that it waits for. -/
def startDue (s : State) : Bool :=
  canStart s && (match (pme s).calls with
    | [] => false
    | k :: _ =>
      let rs := (callRanges s k).filter (fun r => r.1 + r.2 ≤ spSize)
      rs.all (fun r => banksFull (core s) r.1 r.2) || rs.any (sleeps (core s)))

/-- The step of the acting core's matrix engine that is due now. DESIGN CHOICE (log 102): of what falls in one engine cycle, scale
entries are read and enqueued, and accumulators released, before a status sample. -/
def pmeDue (s : State) : Option Instr :=
  let p := pme s
  if enqueueDue s then some .scaleEntryEnqueue
  else if startDue s then some .routineStart
  else if p.mupl.any (· ≤ s.now) then some .muplRun
  else if p.msqls.any (readDue s) then some .msqlEntryRead
  else if p.acrels.any (acrelDue s) then some .acrelEffect
  else if p.samples.any (sampleDue s) then some .statusSample
  else match p.run with
    | some r => if p.busy ≤ s.now then some (uopAt p r) else none
    | none => none

/-- The slot with a file number. -/
def fileSlot (n : Nat) : Slot := if n = 0 then .s else if n = 1 then .v0 else .v1

/-- A bank of a core whose wake ends now. -/
def wakeDue (now : Nat) (c : Core) : Option Due :=
  match List.find? (fun b : Nat × Bank => b.2.st == .waking && decide (b.2.wakeEnd ≤ now)) c.files.banks with
  | some b => some (.fileBank (fileSlot (b.1 / 8)) (BitVec.ofNat 2 (b.1 % 8)))
  | none =>
    match List.find? (fun b : Nat × Bank => b.2.st == .waking && decide (b.2.wakeEnd ≤ now)) c.sp.banks with
    | some b => some (.spBank (BitVec.ofNat 9 b.1))
    | none => none

/-- Whether the acting core's next due snapshot can be written, or starts the wakes that it waits for. -/
def snapDue (s : State) : Bool :=
  match dueSnap s with
  | none => false
  | some o => spaceReady s (.sp s.cur) o.addr 1024 || sleeps (core s) (o.addr, 1024)

/-- The step of one core that is due now. -/
def coreDue (s : State) (g : Nat) : Option (Nat × Due) :=
  let t := { s with cur := g }
  match (wakeDue s.now (core t)).orElse (fun _ => (pmeDue t).map .instr) with
  | some i => some (g, i)
  | none => if snapDue t then some (g, .instr .csnapVisible) else none

/-- The step of a broadcast bus that is due now. -/
def busDue (s : State) (x : Nat × List Bcast) : Option (Nat × Due) :=
  let g := 64 * (x.1 / 4)
  let b := BitVec.ofNat 2 (x.1 % 4)
  if x.2.any (fun m => m.lands.any (· ≤ s.now)) then some (g, .land b)
  else if !busBusy s.now x.2 && (nextBlock s.now x.2 0 none).isSome then some (g, .drive b)
  else none

/-- The step of a peer that is due now (R339). -/
def peerDue (s : State) (x : Nat × Peer) : Option (Nat × Due) :=
  let p := BitVec.ofNat 8 x.1
  if joinDue s x.2 then some (0, .join p)
  else if silenceDue s x.2 then some (0, .silence p)
  else if lostDue s x.2 then some (0, .lost p)
  else if heartbeatDue s x.2 then some (0, .heartbeat p)
  else none

/-- The release of a barrier whose cycle T has come (R296). -/
def barrierDue (s : State) (x : Barrier) : Option (Nat × Due) :=
  if x.st == .releasing && x.rel.any (· ≤ s.now) then some (0, .release x.g x.b) else none

/-- A latched record that may enter its cluster's queue (R190). -/
def unlatchDue (s : State) (k : Nat) : Option (Nat × Due) :=
  if (clusterAt s k).q.length + 5 ≤ 64 && waitCount s k != 0 then some (8 * k, .instr .trapRecordUnlatch) else none

/-- The end of an ENDING context that no core holds (R262). -/
def ctxDue (s : State) (x : Nat × Ctx) : Option (Nat × Due) :=
  if x.2.st == .ending && (holders s (BitVec.ofNat 12 x.1)).isEmpty then some (0, .freeCtx (BitVec.ofNat 12 x.1)) else none

/-- A node that has starved (R278). -/
def starveDue (s : State) (x : Nat × Node) : Option (Nat × Due) :=
  if x.2.st == .ready && !x.2.starved && decide (x.2.ready + 2 ^ 16 * 4096 ≤ s.now) then
    some (0, .starve (nodeId x.1 x.2)) else none

/-- Whether the next refresh slot has begun (R325). -/
def slotDue (s : State) : Bool := s.dram.epoch.any (fun e => decide (slotStart e (nextSlot s) ≤ s.now))

/-- The step of the firmware that is due now: SAFE after a fault of Holly's, or the start of Bramble on a die's control core 0
(R194, R351, R354). -/
def firmwareDue (s : State) : Option (Nat × Due) :=
  if !inService s then none
  else match List.find? (fun x : Nat × Core => x.2.hollyBad && isCtrl x.1) s.cores with
    | some x => some (x.1, .instr .hollyFault)
    | none => s.dev.brambleDue.head?.map (fun x => (brambleCore x.1, .bramble))

/-- The first step that is due in the present reference cycle, with the core it acts on (log 2). -/
def dueStep (s : State) : Option (Nat × Due) :=
  if s.tick < s.now / 4096 then some (0, .instr .tickBoundary)
  else if s.link.resync.any (resyncDue s) then some (0, .instr .resyncSample)
  else if slotDue s then some (0, .refresh)
  else
    (firmwareDue s).orElse fun _ =>
    (s.ctxs.findSome? (ctxDue s)).orElse fun _ =>
    (s.link.peers.findSome? (peerDue s)).orElse fun _ =>
    (s.nodes.findSome? (starveDue s)).orElse fun _ =>
    (s.barriers.findSome? (barrierDue s)).orElse fun _ =>
    (s.buses.findSome? (busDue s)).orElse fun _ =>
    (s.cores.findSome? (fun x => coreDue s x.1)).orElse fun _ =>
    s.clusters.findSome? (fun x => unlatchDue s x.1)

/-! ### A core's turn (R49 to R54, R186, R187) -/

/-- Whether a core issues, or is held from issuing (R47). -/
def active (c : Core) : Bool := c.st == .running || c.st == .frozen

/-- Values that become readable join the landings, and what is due lands (R25, R161). -/
def land (ex : Exec) (s : State) : Out :=
  let s1 := if (core s).pme.samples.isEmpty then s else updCore (landSamples s.now) s
  if (dueLandings (core s1)).isEmpty then .next s1 else andThen (ex .resultLanding s1) (ex .xmovArrival)

/-- An allowance that is still negative is met again by a core that has resumed (R240). -/
def meetAlw (s : State) : State :=
  let c := core s
  if !c.alwAgain then s
  else
    let a := (ctxAt s c.ctx).alw
    setCore s { c with
      alwAgain := false
      asyncs := if a < 0 && !c.asyncs.any (fun x => x.code == 0x22) then c.asyncs ++ [exc 0x22 (BitVec.ofInt 64 a)] else c.asyncs }

/-- The fault of a FAULTED channel that END's wait meets (R222): its entries cannot end. -/
def brokenChan (c : Core) : Option Exc :=
  (List.find? (fun x : Nat × Chan => x.2.st == .faulted && x.2.fault.isSome && !x.2.q.isEmpty) c.chans).bind (fun x => x.2.fault)

/-- A frozen core runs again once nothing holds it (R48). -/
def thaw (ex : Exec) (s : State) : Out := if (core s).st = .frozen then ex .freezeEnd s else .next s

/-- A core in its END wait (R288): a fault traps it at END's bundle, and it retires once everything has ended. -/
def endTurn (ex : Exec) (s : State) : Out :=
  andThen (thaw ex s) (fun s =>
    match takeAny (core s) with
    | some (e, c1) => .next (takeTrap e 0 false false (setCore s c1))
    | none =>
      match brokenChan (core s) with
      | some e => .next (takeTrap e 0 false false s)
      | none => if retireReady s then ex .kernelRetire s else .next s)

/-- One empty issue cycle of a CLKDIV drain, in which the core is RUNNING (R349). -/
def drainTurn (ex : Exec) (s : State) : Out :=
  andThen (thaw ex s) (fun s =>
    ex .clkdivDrainEnd (updCore (fun c => { c with csr := { c.csr with cyc := c.csr.cyc + 1 }, issues := (s.now :: c.issues).take 5 }) s))

/-- Whether the bundle at PC is a delay bundle that stands at the end of the innermost loop (R84). -/
def delayAtEnd (c : Core) : Bool :=
  (c.resume.isNone || c.resume == some 0) && c.br.isSome && c.loops.head?.any (fun e => e.fin == c.pc)

/-- The word that ILLEGAL_OP of such a bundle shows: its S word, or its header (R84, R185). -/
def endWord (c : Core) : IWord :=
  match c.bun.slots with
  | (.s, w, _) :: _ => w
  | _ => match Map.find? c.istore (c.pc.toNat / 4) with
    | some x => x.word
    | none => 0

/-- A fault taken in place of a delay bundle at a loop's end (R84). -/
def delayFault (s : State) : State := takeTrap { exc 0x02 ((endWord (core s)).setWidth 64) with fslot := 0 } 0 false false s

/-- A bundle with no slot issues. -/
def emptyTurn (ex : Exec) (s : State) : Out :=
  andThen (thaw ex s) (fun s => if delayAtEnd (core s) then .next (delayFault s) else ex (.emptyBundle (core s).bun.ew) s)

/-- The RETENTION_LOSS of a wake that a slot's access started (R59), with the core after it. -/
def lossOf (c : Core) (sl : Slot) : Option (Exc × Core) :=
  match c.accFaults.find? (fun x => x.1 == sl) with
  | some x => some (x.2, { c with accFaults := c.accFaults.erase x })
  | none => none

/-- A slot's access meets the guarded range of a SUSPENDED channel (R215): RACE, unless a check that comes before the race check
fails. -/
def guardFault (ex : Exec) (x : Slot × IWord × Instr) (e : Exc) (s : State) : Out :=
  andThen (ex x.2.2 s) (fun t =>
    let early := (core t).st == .trapped && (core t).trap.any (fun r =>
      r.exc.code != 0x25 && !(r.exc.code == 0x11 && bit r.exc.info 63))
    .next (if early then t else slotFault x.1 e s))

/-- One slot of a bundle: what it delivers, or its issue (R158, R186, R222). -/
def slotTurn (ex : Exec) (x : Slot × IWord × Instr) (s0 : State) : Out :=
  let s := updCore (fun c => { c with bun := { c.bun with word := x.2.1 } }) s0
  match delivery (core s) x with
  | some (e, c1) => .next (takeTrap e x.1.num false false (setCore s c1))
  | none =>
    match lossOf (core s) x.1 with
    | some (e, c1) => .next (slotFault x.1 e (setCore s c1))
    | none =>
      match guardMeets (core s) x with
      | .fault e => guardFault ex x e s
      | _ => ex x.2.2 s

/-- Whether the bundle goes on after a slot: the core still runs it. -/
def goesOn (s : State) : Bool := (core s).st == .running && decoded (core s)

/-- Whether slot `n` issued: the bundle goes on, or the trap says that a later slot is the first that has not (R186). -/
def slotIssued (n : Nat) (t : State) : Bool := goesOn t || decide (n < (core t).csr.sres.toNat)

/-- The energy of a bundle is charged as its first slot issues (R345). -/
def chargeSlot (n : Nat) (b : Bundle) (t : State) : State := if slotIssued n t then chargeOnce b t else t

/-- The slots of a bundle issue from left to right, up to a fault; the bundle then ends. Its scratchpad accesses `as` are arbitrated
(R62, R186). -/
def slotsTurn (ex : Exec) (as : List (Slot × Nat × Nat × Bool)) : List (Slot × IWord × Instr) → State → Out
  | [], s => .next (conflictsOf as (core s).bun.arb (endBundle (chargeOnce (core s).bun s)))
  | x :: xs, s => andThen (slotTurn ex x s) (fun t =>
      let t1 := chargeSlot x.1.num (core s).bun t
      if goesOn t1 then slotsTurn ex as xs t1 else .next (splitConflicts as x s t1))

/-- The scratchpad accesses of the slots that issue. -/
def bundleAccs (c : Core) (xs : List (Slot × IWord × Instr)) : List (Slot × Nat × Nat × Bool) :=
  (xs.map (fun x => if slotOn c x.1 x.2.1 then (accsOf c x).map (fun a => (x.1, a)) else [])).flatten

/-- The bundle issues (R186), or the rest of one that a trap has split goes on (R188, R196). -/
def issueTurn (ex : Exec) (s : State) : Out :=
  andThen (thaw ex s) (fun s =>
    if delayAtEnd (core s) then .next (delayFault s)
    else
      let s1 := rejoin s
      let xs := slotsLeft (core s1)
      slotsTurn ex (bundleAccs (core s1) xs) xs s1)

/-- The BALR of a bundle that is about to arrive (R299): one that delivers a fault does not issue, and does not arrive. -/
def balrArrives (s : State) : Option Instr :=
  match slotsLeft (core s) with
  | (.s, w, .balr p o) :: _ =>
    if (delivery (core s) (.s, w, .balr p o)).isSome then none
    else (match balrMeets p o s with
      | .arrives _ => some (.balr p o)
      | _ => none)
  | _ => none

/-- The barrier that a bundle's BWAIT waits for is noted (R234, R299). -/
def noteWait (s : State) : State :=
  match slotsLeft (core s) with
  | (.s, _, .bwait p o) :: _ => (match bwaitWait p o s with
    | some w => updCore (fun c => { c with waitOn := some w }) s
    | none => s)
  | _ => s

/-- A decoded bundle (R53): it starts the wakes that it needs; the lowest cause that holds it freezes the core; the arrival
of BALR comes once nothing but causes 5 and 9 holds it; else it issues. -/
def holdTurn (ex : Exec) (s0 : State) : Out :=
  let s := noteWait (startWakes s0)
  let cs := bundleCauses s
  match lowestCause (cs.filter (· != 9)) with
  | some k => .next (frozenCycle k s)
  | none =>
    match balrArrives s with
    | some i => andThen (ex i s) (fun t => .next (frozenCycle 9 t))
    | none =>
      match lowestCause cs with
      | some k => .next (frozenCycle k s)
      | none => issueTurn ex s

/-- The bundle at PC: it decodes, unless it has been decoded already, and is held or issues (R42, R44, R53). -/
def bundleTurn (ex : Exec) (s : State) : Out :=
  if decoded (core s) then holdTurn ex s
  else match decodeAt s with
    | .error _ => ex .decodeFault s
    | .ok b =>
      let s1 := updCore (fun c => { c with bun := b }) s
      if b.slots.isEmpty then emptyTurn ex s1 else holdTurn ex s1

/-- A core at a bundle boundary or within a bundle, after its landings: asynchronous faults (R187), a save that begins
(R264), freezes that come before decode (R44, R56), the END wait (R288), a CLKDIV drain (R349), or its bundle. -/
def boundaryTurn (ex : Exec) (s0 : State) : Out :=
  let free := (core s0).resume.isNone && (core s0).drain.isNone
  let s := if free then meetAlw s0 else s0
  let c := core s
  if free && !c.asyncs.isEmpty then ex .asyncFaultTake s
  else match (if free then c.save else none) with
    | some w => .next (updCore (beginSave s.now w) s)
    | none =>
      let cs := earlyCauses s
      if !cs.isEmpty then .next (frozenCycle ((cs ++ if decoded c then bundleCauses s else []).foldl min 9) s)
      else if c.inEnd && !decoded c && c.resume.isNone then endTurn ex s
      else if c.drain.isSome && c.resume.isNone then drainTurn ex s
      else bundleTurn ex s

/-- A frozen control core between the starts of its issue cycles (R48, R52, R87): it runs again once nothing holds it, and FRZC counts
the reference cycles until then. -/
def offPhaseTurn (ex : Exec) (s : State) : Out :=
  andThen (land ex s) (fun s => if (holdCause s).isNone then thaw ex s
    else .next (updCore (fun c => { c with csr := { c.csr with frzc := c.csr.frzc + 1 } }) s))

/-- The turn of the acting core in a reference cycle. A control core starts its issue cycles every d reference cycles (R348), and
control core 0 of a die serves two programs in time slices (R354). -/
def coreTurn (ex : Exec) (s0 : State) : Out :=
  if !active (core s0) then .next s0
  else if isCtrl s0.cur && s0.now % ((core s0).csr.kdiv.toNat + 1) != 0 then
    if (core s0).st = .frozen then offPhaseTurn ex s0 else .next s0
  else andThen (land ex (sliceTurn s0)) (boundaryTurn ex)

/-! ### The step -/

/-- The word of a slot of the bundle at a core's PC, if the bundle holds one: its place follows from the header (R41). -/
def wordAtPc (c : Core) (sl : Slot) : Option IWord :=
  match Map.find? c.istore (c.pc.toNat / 4) with
  | some h =>
    if h.beg && bit h.word (31 - sl.num) then
      let n := ((List.range sl.num).filter (fun i => bit h.word (31 - i))).length
      (Map.find? c.istore (c.pc.toNat / 4 + 1 + n)).map (·.word)
    else none
  | none => none

/-- Whether the bundle at a core's PC holds ECAN, which may end the last lien on a region that backs a barrier (R234, R298). -/
def holdsEcan (c : Core) : Bool := ([Slot.c0, .c1]).any (fun sl => (wordAtPc c sl).any (fun w => fld w 24 8 == 0x24))

/-- The place of a core's turn in a reference cycle: 0 where it may break a barrier, by retiring, VACATE, CTXCTL.END or ECAN, which
takes precedence over an arrival (R296); 1 at a BARM, which counts before the arrivals of its cycle (R296); 3 at a GDEP, which
comes after the completions of its cycle (R279); else 2. -/
def turnClass (c : Core) : Nat :=
  if c.inEnd || holdsEcan c then 0
  else match wordAtPc c .s with
    | none => 2
    | some w =>
      match (fld w 24 8).toNat with
      | 0x44 => 0
      | 0x64 => if fld w 0 5 = 6 then 0 else 2
      | 0x50 => 1
      | 0x5B => 3
      | _ => 2

/-- The cores that take a turn in the next reference cycle, in order (log 2). -/
def turnOrder (s : State) : List Nat :=
  let xs := s.cores.filter (fun x => active x.2)
  ([0, 1, 2, 3].map (fun k => (xs.filter (fun x => turnClass x.2 == k)).map (·.1))).flatten

/-- The reference cycle ends and the next begins: the cores of killed contexts stop (R262), and what a release has left in liens and
waiters comes to (R234, R299). -/
def endCycle (s : State) : State :=
  let t := stopKilled (settleReleased s)
  { t with now := t.now + 1, todo := turnOrder t }

/-- The number of cores, control cores included (R10). -/
def coreCount : Nat := 288

/-- Whether an input is a step of a gather engine. -/
def isGather (i : Instr) : Bool := i == .gatherOpStart || i == .gatherOpComplete || i == .gatherElementFault

/-- The input that is taken next, with those that are left: the first, or where that is a step of a gather engine, the first such
step of the lowest-numbered core, since operations that reach the prefix index in one reference cycle are ordered by core (R321). -/
def nextInput (xs : List (Nat × Instr)) : Option ((Nat × Instr) × List (Nat × Instr)) :=
  match xs with
  | [] => none
  | (g, i) :: rest =>
    if isGather i then
      let m := ((xs.filter (fun x => isGather x.2)).map (·.1)).foldl min g
      (xs.find? (fun x => x.1 == m && isGather x.2)).map (fun x => (x, xs.erase x))
    else some ((g, i), rest)

/-- A step of the machine with the meanings of `ex`: the next input, else a step that is due, else the turn of the next
core, else the end of the reference cycle. -/
def stepWith (ex : Exec) (s : State) : Out :=
  match nextInput s.inputs with
  | some ((g, i), rest) =>
    let t := { s with inputs := rest, cur := g }
    if coreCount ≤ g then .fault (.noSuchCore g) else if isInput i then ex i t else .next t
  | none =>
    match dueStep s with
    | some (g, d) => if coreCount ≤ g then .fault (.noSuchCore g) else runDue ex d { s with cur := g }
    | none =>
      match s.todo with
      | g :: rest => if coreCount ≤ g then .fault (.noSuchCore g) else coreTurn ex { s with cur := g, todo := rest }
      | [] => .next (endCycle s)

end Sys2Proof.Machine
end

