-- ==== Sys2Proof/Machine/Step.lean ====
section
/-! DEFINITION. The step of the machine, and the state in which the next step runs one given instruction. -/

namespace Sys2Proof.Machine

open Sys2Proof

/-- The step: `stepWith` the meanings of `exec`. -/
def step (s : State) : Host.Outcome State Fault Refusal := stepWith exec s

/-- The state with the bundle of a table word placed where the next step fetches (log 9): for a privileged instruction the
control core of cluster 0, else core 0, which runs that bundle at word 0 of its instruction store with registers and
register banks ready, nothing in flight, and, on core 0, a HELD region of context 0 over the store. The core has the next
turn. A word that stands for no instruction changes nothing. -/
def State.withFetchWord (s : State) (nbits w : Nat) : State :=
  match decodeTableWord nbits w with
  | none => s
  | some i =>
    let g := fetchCore i
    { s with
      inputs := []
      todo := [g]
      cores := Map.put s.cores g (placedCore (tableBundle i w) (coreAt s g))
      ctxs := if g = 0 then Map.put s.ctxs 0 { ctxAt s 0 with st := .active } else s.ctxs
      regions := if g = 0 then Map.put s.regions 0 storeRegion else s.regions }

end Sys2Proof.Machine
end

