-- ==== Sys2Proof/Safety.lean ====
section
/-! DEFINITION. What counts as a sound state and a safe step, in the terms of the statements. -/

namespace Sys2Proof.Machine

open Sys2Proof

/-- The byte memories of a core: its scratchpad, and the view that a bundle at issue keeps of it (R13, R51). -/
def coreMemories (c : Core) : List Memory :=
  c.sp.mem :: (match c.bun.old with
    | some o => [o.mem]
    | none => [])

/-- Every byte memory of the machine: HBM, the capacity tier, each core's scratchpad, and those of saved cores (R12 to R17). -/
def memories (s : State) : List Memory :=
  s.dram.hbm :: s.dram.cap
    :: ((s.cores.map (fun x => coreMemories x.2)).flatten ++ (s.images.map (fun m => coreMemories m.saved)).flatten)

/-- Every byte memory is in its canonical form. -/
def MemoriesWf (s : State) : Prop := ∀ m ∈ memories s, Memory.wf m = true

/-- Everything that names a core names one that the device has (R10): the inputs, the turns to come, the keys of the tables
of cores, clusters and broadcast buses, and the dies on which Bramble is due. -/
def CoresExist (s : State) : Prop :=
  (∀ x ∈ s.inputs, x.1 < coreCount) ∧ (∀ g ∈ s.todo, g < coreCount) ∧ (∀ x ∈ s.cores, x.1 < coreCount)
    ∧ (∀ x ∈ s.clusters, x.1 < 32) ∧ (∀ x ∈ s.buses, x.1 < 16)
    ∧ (∀ x ∈ s.dev.brambleDue, x.1 < 4)

/-- A step is safe when it neither stops nor is refused. -/
def StepSafe (s : State) : Prop := ∃ t, step s = .next t

end Sys2Proof.Machine
end

