-- ==== Sys2Proof/Certificates/Slice0/Obligations.lean ====
section
/-! DEFINITION. The statements about the machine, with the vocabulary they are written in. -/

namespace Sys2Proof.Machine.Claims

open Sys2Proof Sys2Proof.Machine

/-! ### Vocabulary -/

/-- A 64-bit result for data register `d` of slot `sl`, as it waits to land `lat` engine cycles after issue (R25, R50). -/
def resultOf (c : Core) (sl : Slot) (d : Reg) (v : Word) (lat : Nat) : Landing :=
  { due := c.csr.cyc + lat * divisor c sl, born := c.csr.cyc, src := sl, file := sl, isPred := false, reg := d.toNat
    bits := v.setWidth 2048, mask := mask64, tag := 0, dw := 0, arrival := false }

/-- The results in flight of an instruction that writes `d`; register 0 of the S file takes none (R68). -/
def lands (sl : Slot) (d : Reg) (v : Word) (lat : Nat) (c : Core) : List Landing :=
  if sl = .s ∧ d = 0 then [] else [resultOf c sl d v lat]

/-- A result for the bits `m` of predicate or lane mask `i`; index 0 takes none (R33, R55). -/
def predLands (sl : Slot) (i : Nat) (v m : Word) (lat : Nat) (c : Core) : List Landing :=
  if i = 0 then []
  else [{ due := c.csr.cyc + lat * divisor c sl, born := c.csr.cyc, src := sl, file := sl, isPred := true, reg := i
          bits := v.setWidth 2048, mask := m.setWidth 2048, tag := 0, dw := 0, arrival := false }]

/-- The state in which the results `ls` of the acting core are in flight and the registers `ms` of slot `sl` have been ended
by last-use marks; nothing else differs from `s`. -/
def delivered (sl : Slot) (ms : List Reg) (ls : Core → List Landing) (s : State) : State :=
  updCore (fun c => killMarks sl ms { c with pend := c.pend ++ ls c }) s

/-- Every core but the acting one is as before. -/
def othersKept (s t : State) : Prop := ∀ g, g ≠ s.cur → coreAt t g = coreAt s g

/-- A byte of the acting core's scratchpad. -/
def spByte (s : State) (a : Nat) : Byte := Memory.read (core s).sp.mem a

/-- The little-endian value of `n` scratchpad bytes as a bundle's slots see them (R51). -/
def seen (s : State) (a n : Nat) : Nat := leNat (Memory.readBytes (viewMem (core s)) a n)

/-- The `n` scratchpad bytes at `a` hold the little-endian value `v`; other bytes of granules that were not poisoned are as
before, and no granule that was touched is poisoned (R3, R63). -/
def storedAt (a n v : Nat) (s t : State) : Prop :=
  (∀ i < n, spByte t (a + i) = BitVec.ofNat 8 (v / 256 ^ i))
    ∧ (∀ b, (b < a ∨ a + n ≤ b) → Map.find? (core s).sp.poison (b / 64) = none → spByte t b = spByte s b)
    ∧ (∀ i < n, Map.find? (core t).sp.poison ((a + i) / 64) = none)

end Sys2Proof.Machine.Claims

open Sys2Proof hiding core
open Sys2Proof.Machine Sys2Proof.Machine.Claims

/-! ### The S slot: arithmetic, compares, predicates (R70 to R74) -/

/-- The two-operand instructions of the S slot: f(x, y) and the latency (R70). -/
def Sys2Proof.Machine.Claims.scalarOps : List ((Pred → Reg → Reg → Bool → Opnd → Instr) × (Word → Word → Word) × Nat) :=
  [(.add, fun x y => x + y, 1), (.sub, fun x y => x - y, 1), (.and, fun x y => x &&& y, 1), (.or, fun x y => x ||| y, 1),
   (.xor, fun x y => x ^^^ y, 1), (.andn, fun x y => x &&& ~~~y, 1), (.shl, fun x y => x <<< (fld y 0 6).toNat, 1),
   (.shr, fun x y => x >>> (fld y 0 6).toNat, 1), (.sra, fun x y => x.sshiftRight (fld y 0 6).toNat, 1),
   (.min, fun x y => if x.toInt ≤ y.toInt then x else y, 1), (.max, fun x y => if x.toInt ≤ y.toInt then y else x, 1),
   (.minu, fun x y => if x.toNat ≤ y.toNat then x else y, 1), (.maxu, fun x y => if x.toNat ≤ y.toNat then y else x, 1),
   (.mul, fun x y => x * y, 3), (.mulh, fun x y => BitVec.ofInt 64 (x.toInt * y.toInt / 2 ^ 64), 3),
   (.mulhu, fun x y => BitVec.ofNat 64 (x.toNat * y.toNat / 2 ^ 64), 3)]

/-- R70: with a true predicate and readable sources, each of the sixteen instructions completes, s[d] := f(s[a], opnd) lands
after its latency, the last-use marks take effect, and nothing else changes. With d = 0 nothing lands. R71: CLZ and POPC complete and give the number of leading zero bits, 64 for zero, and the number of one bits. -/
def Sys2Proof.Machine.Claims.ScalarArithmeticResults : Prop :=
  (∀ x ∈ scalarOps, ∀ (p : Pred) (d a : Reg) (la : Bool) (o : Opnd) (s : State) (u v : Word),
    predOn (core s) .s p = true → rdX (core s) .s a = .ok u → rdO (core s) .s o = .ok v →
    exec (x.1 p d a la o) s = .next (delivered .s (marksOf a la ++ markO o) (lands .s d (x.2.1 u v) x.2.2) s))
  ∧ (∀ (p : Pred) (d a : Reg) (la : Bool) (s : State) (u : Word),
    predOn (core s) .s p = true → rdX (core s) .s a = .ok u →
    (∃ n, exec (.clz p d a la) s = .next (delivered .s (marksOf a la) (lands .s d (BitVec.ofNat 64 n) 1) s)
      ∧ n ≤ 64 ∧ u.toNat < 2 ^ (64 - n) ∧ (n < 64 → 2 ^ (63 - n) ≤ u.toNat))
    ∧ exec (.popc p d a la) s
        = .next (delivered .s (marksOf a la)
            (lands .s d (BitVec.ofNat 64 ((List.range 64).filter (fun i => u.getLsbD i)).length) 1) s))

/-- The compares of the S slot with their tests (R72). -/
def Sys2Proof.Machine.Claims.scalarCompares :
    List ((Pred → BitVec 3 → Reg → Bool → Opnd → BitVec 2 → Instr) × (Word → Word → Bool)) :=
  [(.cmpeq, fun x y => decide (x = y)), (.cmpne, fun x y => decide (x ≠ y)), (.cmplt, fun x y => decide (x.toInt < y.toInt)),
   (.cmpge, fun x y => decide (y.toInt ≤ x.toInt)), (.cmpltu, fun x y => decide (x.toNat < y.toNat)),
   (.cmpgeu, fun x y => decide (y.toNat ≤ x.toNat))]

/-- The predicate logic of the S slot (R73). -/
def Sys2Proof.Machine.Claims.predicateOps :
    List ((Pred → BitVec 3 → BitVec 3 → BitVec 3 → Bool → Instr) × (Bool → Bool → Bool)) :=
  [(.pand, fun x y => x && y), (.por, fun x y => x || y), (.pxor, fun x y => x != y)]

/-- R72, R73, R74: the compares set f[d] plain, by AND and by OR with its old value, as mod selects; PAND, POR and PXOR
combine f[a] with f[b] XOR mod[0]; SEL takes s[a] when f[k] is true and s[b] when it is not. Each lands after one issue
cycle, and nothing else changes. -/
def Sys2Proof.Machine.Claims.ScalarPredicateResults : Prop :=
  (∀ x ∈ scalarCompares, ∀ (p : Pred) (d : BitVec 3) (a : Reg) (la : Bool) (o : Opnd) (m : BitVec 2) (s : State) (u v : Word),
    predOn (core s) .s p = true → rdX (core s) .s a = .ok u → rdO (core s) .s o = .ok v → m ≠ 3 →
    exec (x.1 p d a la o m) s = .next (delivered .s (marksOf a la ++ markO o)
      (predLands .s d.toNat (boolWord (if m = 0 then x.2 u v
        else if m = 1 then getP (core s) .s d.toNat != 0 && x.2 u v
        else getP (core s) .s d.toNat != 0 || x.2 u v)) 1 1) s))
  ∧ (∀ x ∈ predicateOps, ∀ (p : Pred) (d a b : BitVec 3) (n : Bool) (s : State),
    predOn (core s) .s p = true →
    exec (x.1 p d a b n) s = .next (delivered .s []
      (predLands .s d.toNat (boolWord (x.2 (getP (core s) .s a.toNat != 0) ((getP (core s) .s b.toNat != 0) != n))) 1 1) s))
  ∧ (∀ (p : Pred) (d : Reg) (k : BitVec 3) (a : Reg) (la : Bool) (b : Reg) (lb : Bool) (s : State) (u v : Word),
    predOn (core s) .s p = true → rdX (core s) .s a = .ok u → rdX (core s) .s b = .ok v →
    exec (.sel p d k a la b lb) s = .next (delivered .s (marksOf a la ++ marksOf b lb)
      (lands .s d (if getP (core s) .s k.toNat = 0 then v else u) 1) s))

/-! ### Scratchpad loads, stores and atomics (R75 to R80, R203) -/

/-- The value of `n` loaded bytes, sign-extended or zero-extended (R76). -/
def Sys2Proof.Machine.Claims.extended (n v : Nat) (sx : Bool) : Word :=
  if sx then (BitVec.ofNat (8 * n) v).signExtend 64 else BitVec.ofNat 64 v

/-- R75, R76, R203: where the checks of the address rule pass and no granule is poisoned, LDS and KLD complete; the bytes at
ea := (s[a] + opnd) mod 2^64, little-endian and extended, land after 4 engine cycles; memory is as before. -/
def Sys2Proof.Machine.Claims.ScratchpadLoadResults : Prop :=
  ∀ (p : Pred) (d a : Reg) (o : Opnd) (sx : Bool) (sz : BitVec 2) (s s1 : State) (u v : Word) (sl : Slot) (i : Instr)
    (ms : List Reg),
    ((∃ la, sl = .s ∧ i = .lds p d a la o sx sz ∧ ms = marksOf a la ++ markO o)
      ∨ (∃ w : CU, sl = w.slot ∧ i = .kld w p d a o sx sz ∧ ms = [])) →
    predOn (core s) sl p = true → rdX (core s) sl a = .ok u → rdO (core s) sl o = .ok v →
    checkLocal .sl .read (u + v).toNat (2 ^ sz.toNat) (2 ^ sz.toNat) s = .ok s1 →
    checkPoison (core s) (u + v).toNat (2 ^ sz.toNat) = .ok () →
    exec i s = .next (delivered sl ms
      (lands sl d (extended (2 ^ sz.toNat) (seen s (u + v).toNat (2 ^ sz.toNat)) sx) 4) s1)

/-- R75, R77, R203: where the checks of the address rule pass, STS and KST complete and the low bytes of the data register
stand at ea; every other scratchpad byte reads as before, no result is in flight, and every other core is as before. -/
def Sys2Proof.Machine.Claims.ScratchpadStoreResults : Prop :=
  ∀ (p : Pred) (d a : Reg) (o : Opnd) (sz : BitVec 2) (s s1 : State) (u v x : Word) (sl : Slot) (i : Instr),
    ((∃ la, sl = .s ∧ i = .sts p d a la o sz) ∨ (∃ w : CU, sl = w.slot ∧ i = .kst w p d a o sz)) →
    Memory.wf (core s).sp.mem = true →
    predOn (core s) sl p = true → rdX (core s) sl a = .ok u → rdO (core s) sl o = .ok v → rdX (core s) sl d = .ok x →
    checkLocal .sl .write (u + v).toNat (2 ^ sz.toNat) (2 ^ sz.toNat) s = .ok s1 →
    ∃ t, exec i s = .next t ∧ storedAt (u + v).toNat (2 ^ sz.toNat) x.toNat s t
      ∧ (core t).pend = (core s).pend ∧ othersKept s t ∧ t.dram = s.dram ∧ t.ctxs = s.ctxs

/-- R75 to R77, R203: the loads and the stores of the S and the copy slots, where the checks of the address rule pass. -/
def Obligations.ScratchpadAccessResults : Prop := ScratchpadLoadResults ∧ ScratchpadStoreResults

/-- The new value of an AMO of `w` bits (R78): the operation on the old value and the operand, both of that width. -/
def Sys2Proof.Machine.Claims.amoNew (op : BitVec 3) (w : Nat) (x y : BitVec w) : BitVec w :=
  match op.toNat with
  | 0 => x + y
  | 1 => x &&& y
  | 2 => x ||| y
  | 3 => x ^^^ y
  | 4 => y
  | 5 => if x.toInt ≤ y.toInt then x else y
  | 6 => if x.toInt ≤ y.toInt then y else x
  | _ => if x.toNat ≤ y.toNat then y else x

/-- R78, R79: where the checks pass, AMO and AMOCAS complete; the old value, zero-extended, lands in s[d] after 6 issue
cycles; AMO stores the new value, and AMOCAS stores s[b] when the old value equals s[d] in the operand width, and otherwise
leaves memory as it is. AMOCAS reads its sources in the order a, b, d, and the first that cannot be read faults. -/
def Obligations.AtomicResults : Prop :=
  (∀ (p : Pred) (d a : Reg) (la : Bool) (off : Word) (w : Bool) (op : BitVec 3) (s s1 : State) (u v : Word) (n : Nat),
    n = (if w then 4 else 8) → Memory.wf (core s).sp.mem = true →
    predOn (core s) .s p = true → rdX (core s) .s a = .ok u → rdX (core s) .s d = .ok v →
    checkLocal .sl .atomic (u + off).toNat n n s = .ok s1 → checkPoison (core s) (u + off).toNat n = .ok () →
    ∃ t, exec (.amo p d a la off w op) s = .next t
      ∧ (core t).pend = (core s).pend ++ lands .s d (BitVec.ofNat 64 (seen s (u + off).toNat n)) 6 (core s)
      ∧ storedAt (u + off).toNat n
          (amoNew op (8 * n) (BitVec.ofNat (8 * n) (seen s (u + off).toNat n)) (v.setWidth (8 * n))).toNat s t
      ∧ othersKept s t)
  ∧ (∀ (p : Pred) (d a : Reg) (la : Bool) (b : Reg) (lb w : Bool) (s s1 : State) (u v x : Word) (n : Nat),
    n = (if w then 4 else 8) → Memory.wf (core s).sp.mem = true →
    predOn (core s) .s p = true → rdX (core s) .s a = .ok u → rdX (core s) .s b = .ok v → rdX (core s) .s d = .ok x →
    checkLocal .sl .atomic u.toNat n n s = .ok s1 → checkPoison (core s) u.toNat n = .ok () →
    ∃ t, exec (.amocas p d a la b lb w) s = .next t
      ∧ (core t).pend = (core s).pend ++ lands .s d (BitVec.ofNat 64 (seen s u.toNat n)) 6 (core s)
      ∧ (if seen s u.toNat n = (x.setWidth (8 * n)).toNat then storedAt u.toNat n (v.setWidth (8 * n)).toNat s t
         else (core t).sp = (core s).sp)
      ∧ othersKept s t)
  ∧ (∀ (p : Pred) (d a : Reg) (la : Bool) (b : Reg) (lb w : Bool) (s : State) (e : Exc), predOn (core s) .s p = true →
    (rdX (core s) .s a = .error e ∨ ((∃ u, rdX (core s) .s a = .ok u) ∧ rdX (core s) .s b = .error e)
      ∨ ((∃ u, rdX (core s) .s a = .ok u) ∧ (∃ v, rdX (core s) .s b = .ok v) ∧ rdX (core s) .s d = .error e)) →
    exec (.amocas p d a la b lb w) s = .next (slotFault .s e s))

/-! ### Branches, calls and loops (R81 to R84, R288) -/

/-- A taken branch-class instruction may stand at PC: it is in no delay bundle, nor at the end of the top loop entry (R82, R84). -/
def Sys2Proof.Machine.Claims.branchFree (c : Core) : Prop := c.br = none ∧ ∀ e ∈ c.loops.head?, e.fin ≠ c.pc

/-- The bundle at hand takes a branch: its target is set, the results `ls` are in flight, and the registers `ms` of the S file
have been ended; nothing else differs from `s`. -/
def Sys2Proof.Machine.Claims.taken (tgt : Word) (ms : List Reg) (ls : Core → List Landing) (s : State) : State :=
  updCore (fun c => killMarks .s ms
    { c with pend := c.pend ++ ls c, bun := { c.bun with taken := some (tgt.setWidth 18) } }) s

/-- R81: where a branch may stand, its predicate is true, its sources are readable and its target is a multiple of 4 below
0x0004_0000, BR, BRI, CALL and RET complete and the branch is taken to pc + opnd, s[a] + s[b], pc + opnd and s[a]; CALL's
return address, that of the bundle after the second delay bundle, lands after 3 issue cycles. A target that is not a multiple of
4 faults ALIGN, and else one at or above 0x0004_0000 faults NO_RIGHT, at issue, with the target as INFO and the S slot as FSLOT
and SRES; the branch has no effect.
Where the spec leaves a choice, the statement follows the model's: log 63. -/
def Obligations.BranchResults : Prop :=
  (∀ (p : Pred) (s : State) (tgt : Word),
    predOn (core s) .s p = true → branchFree (core s) → tgt.toNat % 4 = 0 → tgt.toNat < 0x40000 →
    (∀ (o : Opnd) (v : Word), rdO (core s) .s o = .ok v → (core s).pc.setWidth 64 + v = tgt →
      exec (.br p o) s = .next (taken tgt (markO o) (fun _ => []) s)
      ∧ ∀ d, exec (.call p d o) s = .next (taken tgt (markO o)
          (fun c =>
            let d1 := c.pc.toNat + 4 * c.bun.len
            let d2 := d1 + 4 * lenAt c (BitVec.ofNat 18 d1)
            lands .s d (BitVec.ofNat 64 ((d2 + 4 * lenAt c (BitVec.ofNat 18 d2)) % 2 ^ 18)) 3 c) s))
    ∧ (∀ (a : Reg) (la : Bool) (b : Reg) (lb : Bool) (u v : Word),
      rdX (core s) .s a = .ok u → rdX (core s) .s b = .ok v → u + v = tgt →
      exec (.bri p a la b lb) s = .next (taken tgt (marksOf a la ++ marksOf b lb) (fun _ => []) s))
    ∧ (∀ (a : Reg) (la : Bool), rdX (core s) .s a = .ok tgt →
      exec (.ret p a la) s = .next (taken tgt (marksOf a la) (fun _ => []) s)))
  ∧ (∀ (p : Pred) (s : State) (tgt : Word) (i : Instr),
    predOn (core s) .s p = true → branchFree (core s) →
    ((∃ o v, rdO (core s) .s o = .ok v ∧ (core s).pc.setWidth 64 + v = tgt ∧ (i = .br p o ∨ ∃ d, i = .call p d o))
      ∨ (∃ a la b lb u v, rdX (core s) .s a = .ok u ∧ rdX (core s) .s b = .ok v ∧ u + v = tgt ∧ i = .bri p a la b lb)
      ∨ (∃ a la, rdX (core s) .s a = .ok tgt ∧ i = .ret p a la)) →
    (tgt.toNat % 4 ≠ 0 → exec i s = .next (takeTrap { code := 0x06, info := tgt } 0 false false s))
    ∧ (tgt.toNat % 4 = 0 → 0x40000 ≤ tgt.toNat →
      exec i s = .next (takeTrap { code := 0x21, info := tgt } 0 false false s)))

/-- R83: where a branch may stand, LOOP with a legal offset and a count below 2^32 completes: a count of 0 goes on after the
body's last bundle; any other count pushes start, end and count while the stack holds fewer than four entries. On a compute
core, where a branch may stand and no channel is SUSPENDED, END completes and the core waits for the end of its engines' work;
nothing else changes (R288). -/
def Sys2Proof.Machine.Claims.LoopAndEndResults : Prop :=
  (∀ (p : Pred) (a : Reg) (la : Bool) (o : Opnd) (s : State) (n off : Word),
    predOn (core s) .s p = true → branchFree (core s) → rdX (core s) .s a = .ok n → rdO (core s) .s o = .ok off →
    0 < off.toInt → off.toNat % 4 = 0 → ((core s).pc.toNat : Int) + off.toInt < 0x40000 → n.toNat < 2 ^ 32 →
    (n = 0 → exec (.loop p a la o) s = .next (updCore (fun c => killMarks .s (marksOf a la ++ markO o)
      { c with bun := { c.bun with
        jump := some (BitVec.ofNat 18 (c.pc.toNat + off.toNat + 4 * lenAt c (BitVec.ofNat 18 (c.pc.toNat + off.toNat)))) } }) s))
    ∧ (n ≠ 0 → (core s).loops.length < 4 →
      exec (.loop p a la o) s = .next (updCore (fun c => killMarks .s (marksOf a la ++ markO o)
        { c with loops := { start := BitVec.ofNat 18 (c.pc.toNat + 4 * c.bun.len)
                            fin := BitVec.ofNat 18 (c.pc.toNat + off.toNat), rem := n.setWidth 32 } :: c.loops }) s)))
  ∧ (∀ (p : Pred) (s : State), predOn (core s) .s p = true → branchFree (core s) → s.cur < 256 →
    (∀ x ∈ (core s).chans, x.2.st ≠ .suspended) →
    exec (.endk p) s = .next (updCore (fun c => { c with inEnd := true }) s))

/-- R84: after a bundle, the sequencer goes from the second delay bundle to the branch target; from the first delay bundle, and
from a bundle that takes a branch, to the following bundle; from the end of the innermost loop round to its start while more
than one turn remains, and otherwise drops the entry and tests the next. -/
def Sys2Proof.Machine.Claims.SequencerRules : Prop :=
  ∀ c : Core,
    (∀ t, c.br = some ⟨t, 2⟩ → (advance c).pc = t ∧ (advance c).br = none ∧ (advance c).loops = c.loops)
    ∧ (∀ t, c.br = some ⟨t, 1⟩ → (advance c).pc.toNat = (c.pc.toNat + 4 * c.bun.len) % 2 ^ 18
        ∧ (advance c).br = some ⟨t, 2⟩)
    ∧ (∀ t, c.br = none → c.bun.taken = some t → (advance c).pc.toNat = (c.pc.toNat + 4 * c.bun.len) % 2 ^ 18
        ∧ (advance c).br = some ⟨t, 1⟩ ∧ (advance c).loops = c.loops)
    ∧ (c.br = none → c.bun.taken = none → c.bun.jump = none →
      (∀ e es, c.loops = e :: es → e.fin = c.pc → 1 < e.rem.toNat →
        (advance c).pc = e.start ∧ (advance c).loops = { e with rem := e.rem - 1 } :: es)
      ∧ (∀ e es, c.loops = e :: es → e.fin = c.pc → e.rem.toNat ≤ 1 → advance c = advance { c with loops := es })
      ∧ ((∀ e ∈ c.loops.head?, e.fin ≠ c.pc) → (advance c).pc.toNat = (c.pc.toNat + 4 * c.bun.len) % 2 ^ 18
        ∧ (advance c).loops = c.loops))

/-- R83, R84, R288: LOOP and END, and which bundle follows a bundle.
Where the spec leaves a choice, the statement follows the model's: log 63. -/
def Obligations.LoopsAndSequence : Prop := LoopAndEndResults ∧ SequencerRules

/-! ### CSRs and the trap queue (R85 to R87, R190 to R193) -/

/-- R85: with an assigned number that the core may name, CSRR gives the CSR's value after 1 issue cycle; on a control core
WDATA, number 0xF9, gives what the window shows. A control-core CSR named on a compute core, or by Bramble, faults PRIV with its
number. -/
def Sys2Proof.Machine.Claims.CsrReadResults : Prop :=
  ∀ (p : Pred) (d : Reg) (o : Opnd) (s : State) (n : Word),
    predOn (core s) .s p = true → rdO (core s) .s o = .ok n → csrKnown n.toNat = true →
    (n.toNat < 0xF0 → exec (.csrr p d o) s
      = .next (delivered .s (markO o) (lands .s d (coreCsr s s.cur (core s) n.toNat) 1) s))
    ∧ (0xF0 ≤ n.toNat → n ≠ 0xF9 → 256 ≤ s.cur → (core s).bramble = false → exec (.csrr p d o) s
      = .next (delivered .s (markO o) (lands .s d (ctrlCsr s (s.cur - 256) n.toNat) 1) s))
    ∧ (n = 0xF9 → 256 ≤ s.cur → (core s).bramble = false → exec (.csrr p d o) s
      = .next (delivered .s (markO o) (lands .s d (wdataRead (s.cur - 256) s).1 1) (wdataRead (s.cur - 256) s).2))
    ∧ (0xF0 ≤ n.toNat → s.cur < 256 ∨ (core s).bramble = true → exec (.csrr p d o) s
      = .next (takeTrap { code := 0x05, info := n } 0 false false s))

/-- The instructions that modify a CSR, with what each makes of an RW field's old value and s[a] (R85). -/
def Sys2Proof.Machine.Claims.csrOps : List ((Pred → Reg → Reg → Bool → Opnd → Instr) × CsrOp × (Word → Word → Word)) :=
  [(.csrw, .wr, fun _ v => v), (.csrs, .set, fun x v => x ||| v), (.csrc, .clr, fun x v => x &&& ~~~v)]

/-- R85, R87: CSRW, CSRS and CSRC on BCCNT and LCNT complete: the old value lands in s[d] after 1 issue cycle, and the RW field
takes s[a], is ORed with it, or loses its bits; the new count governs the bundles after its own, whose loop test uses the old one.
Only CSRW clears STAT.WCOL, by a 1. For every other CSR that the core may name, they complete with the value read and the write of
that CSR, which for OVP, LDEPTH and LCNT waits for the end of the bundle. R87, R85: A write of LDEPTH pops entries down to a lower depth and is ignored at or above the present one; a write of LCNT
sets the top entry's remaining count and is ignored at depth 0; a write of BCSEL within range selects that bank. -/
def Sys2Proof.Machine.Claims.CsrModifyResults : Prop :=
  (∀ x ∈ csrOps, ∀ (p : Pred) (d a : Reg) (la : Bool) (s : State) (v : Word),
    predOn (core s) .s p = true → rdX (core s) .s a = .ok v →
    (∀ (o : Opnd) (n : Word), rdO (core s) .s o = .ok n → csrKnown n.toNat = true →
      (n.toNat < 0xF0 ∨ (256 ≤ s.cur ∧ (core s).bramble = false)) →
      exec (x.1 p d a la o) s = .next (delivered .s (marksOf a la ++ markO o) (lands .s d (readCsr n.toNat s).1 1)
        (if n = 0x003 ∨ n = 0x018 ∨ n = 0x019 then
            updCore (fun c => { c with bun := { c.bun with late := some (n.toNat, lateValue x.2.1 n.toNat v c) } }) s
         else writeCsr x.2.1 n.toNat v (readCsr n.toNat s).2)))
    ∧ (∃ t, exec (x.1 p d a la (.lit 0x005)) s = .next t
      ∧ (core t).pend = (core s).pend ++ lands .s d (coreCsr s s.cur (core s) 0x005) 1 (core s)
      ∧ coreCsr t s.cur (core t) 0x005 = (x.2.2 (coreCsr s s.cur (core s) 0x005) v) &&& 0xFFFFFFFF
      ∧ (core t).csr = (core s).csr ∧ (core t).sp.mem = (core s).sp.mem ∧ othersKept s t)
    ∧ (∃ t, exec (x.1 p d a la (.lit 0x019)) s = .next t
      ∧ (core t).pend = (core s).pend ++ lands .s d (coreCsr s s.cur (core s) 0x019) 1 (core s)
      ∧ (core t).loops = (core s).loops
      ∧ ((core s).inEnd = false → (core s).br = none → (core s).bun.taken = none → (core s).bun.jump = none →
          (∀ e es, (core s).loops = e :: es → e.fin ≠ (core s).pc ∨ 1 < e.rem.toNat →
            (core (endBundle t)).loops = { e with rem := (x.2.2 (e.rem.setWidth 64) v).setWidth 32 } :: es)
          ∧ ((core s).loops = [] → (core (endBundle t)).loops = []))
      ∧ (core t).csr = (core s).csr ∧ othersKept s t)
    ∧ (∃ t, exec (x.1 p d a la (.lit 0x000)) s = .next t
      ∧ (core t).pend = (core s).pend ++ lands .s d (statWord (core s)) 1 (core s)
      ∧ (core t).csr.wcol = ((core s).csr.wcol && !(x.2.1 == .wr && v.getLsbD 0))
      ∧ (core t).csr.sres = (core s).csr.sres ∧ (core t).csr.fcause = (core s).csr.fcause ∧ othersKept s t))
  ∧ (∀ (s : State) (v : Word),
    (∃ t, exec (.ldepthWrite v) s = .next t ∧ othersKept s t
      ∧ ((v.setWidth 3).toNat < (core s).loops.length →
          (core t).loops = (core s).loops.drop ((core s).loops.length - (v.setWidth 3).toNat))
      ∧ ((core s).loops.length ≤ (v.setWidth 3).toNat → t = setCore s (core s)))
    ∧ (∃ t, exec (.lcntWrite v) s = .next t ∧ othersKept s t
      ∧ (∀ e es, (core s).loops = e :: es → (core t).loops = { e with rem := v.setWidth 32 } :: es)
      ∧ ((core s).loops = [] → t = setCore s (core s)))
    ∧ ((v.setWidth 9).toNat < 384 → ∃ t, exec (.csrWrite 0x004 v) s = .next t
      ∧ (core t).csr = { (core s).csr with bcsel := v.setWidth 9 } ∧ othersKept s t))

/-- R85 to R87, R193: CSRR, and CSRW, CSRS and CSRC.
Where the spec leaves a choice, the statement follows the model's: logs 62, 83 and 85. -/
def Obligations.CsrResults : Prop := CsrReadResults ∧ CsrModifyResults

/-- No record waits in a latch of a cluster. -/
def Sys2Proof.Machine.Claims.nothingLatched (s : State) (k : Nat) : Prop :=
  (clusterAt s k).latch = none ∧ ∀ i < 8, (coreAt s (8 * k + i)).latched = none

/-- R190, R192, R337: on a control core, TQPOP takes the head record off its cluster's queue, and an event among records is forwarded
to the host as an EVENT message; latched records then enter as entries are free, the control core's first. A latched record enters
a queue with five entries free: the control core's, else that of the core that faulted first, the lower core of two; with nothing
latched, or no room, nothing changes. A write to LASTFATAL's VALID bit clears VALID and COUNT. -/
def Sys2Proof.Machine.Claims.TrapQueueSteps : Prop :=
  ∀ (s : State) (k : Nat), s.cur = 256 + k →
    (∃ t, exec .tqpop s = .next t
      ∧ (∀ r rs, (clusterAt s k).q = r :: rs →
          (59 < rs.length ∨ nothingLatched s k → (clusterAt t k).q = rs)
          ∧ (∀ r', (clusterAt s k).latch = some r' → rs.length ≤ 59 →
              (clusterAt t k).latch = none ∧ ∃ more, (clusterAt t k).q = rs ++ r' :: more)
          ∧ t.link.out = s.link.out ++ (if fld r.w0 8 2 = 3 then
              [{ type := 0x04, ctx := fld r.w0 40 12, seq := s.link.seq, payload := recordBytes r }] else []))
      ∧ ((clusterAt s k).q = [] → nothingLatched s k → (clusterAt t k).q = [] ∧ t.link = s.link ∧ t.cores = s.cores))
    ∧ (∃ t, exec .trapRecordUnlatch s = .next t ∧ t.link = s.link ∧ t.ctxs = s.ctxs
      ∧ (∀ r, (clusterAt s k).latch = some r → (clusterAt s k).q.length ≤ 59 →
          (clusterAt t k).q = (clusterAt s k).q ++ [r] ∧ (clusterAt t k).latch = none ∧ t.cores = s.cores)
      ∧ (∀ i n r, (clusterAt s k).latch = none → (clusterAt s k).q.length ≤ 59 → i < 8 →
          (coreAt s (8 * k + i)).latched = some (n, r) →
          (∀ j < 8, ∀ n' r', (coreAt s (8 * k + j)).latched = some (n', r') → n < n' ∨ (n = n' ∧ i ≤ j)) →
          (clusterAt t k).q = (clusterAt s k).q ++ [r] ∧ (coreAt t (8 * k + i)).latched = none
            ∧ ∀ g, g ≠ 8 * k + i → coreAt t g = coreAt s g)
      ∧ (nothingLatched s k ∨ 59 < (clusterAt s k).q.length → t = s))
    ∧ (∃ t, exec .lastfatalClear s = .next t ∧ (clusterAt t k).lfValid = false ∧ (clusterAt t k).lfCount = 0
        ∧ (clusterAt t k).q = (clusterAt s k).q ∧ (clusterAt t k).lfCode = (clusterAt s k).lfCode ∧ t.cores = s.cores)

/-- R192, R193: a write through the window. Where it is refused it is ignored and WERR is set. Where it is served it sets the data
register that WSEL names, which becomes live and loses its poison, or one group of a vector register, the tag being kept, or its tag
alone; the one bit of a predicate or the whole of a lane mask; a generator state, of which 0 becomes 1; a core CSR, RP fields
included; s0, index 0 of the predicates and the other items of trap state ignore it. A served read gives the item and changes
nothing; a read that is refused, or of a dead register, gives 0 and sets WERR. -/
def Sys2Proof.Machine.Claims.WindowWrites : Prop :=
  ∀ (s : State) (k : Nat), s.cur = 256 + k → k < 32 →
    let q := clusterAt s k
    let g := 8 * k + wCore q
    let sl := slotOf (BitVec.ofNat 3 (wFile q))
    let r : Reg := BitVec.ofNat 5 (wReg q)
    (∀ v : Word,
      (wServed (coreAt s g) q false = false → exec (.wdataWrite v) s = .next (setCluster s k { q with werr := true }))
      ∧ (wServed (coreAt s g) q false = true → ∃ t, exec (.wdataWrite v) s = .next t
        ∧ (∀ g', g' ≠ g → coreAt t g' = coreAt s g') ∧ (core t).pend = (core s).pend ∧ t.dram = s.dram ∧ t.ctxs = s.ctxs
        ∧ (wFile q < 6 → wPred q = true →
            (wReg q ≠ 0 → getP (coreAt t g) sl (wReg q) = if isV sl then v else v &&& 1) ∧ (wReg q = 0 → t = s))
        ∧ (wFile q < 6 → wPred q = false → (sl = .s ∧ r = 0 → t = s)
            ∧ (¬(sl = .s ∧ r = 0) → isV sl = false → getX (coreAt t g) sl r = v)
            ∧ (isV sl = true → wTag q = false → fld (getV (coreAt t g) sl r).bits (64 * wPart q) 64 = v
                ∧ (∀ c, (getBank (coreAt s g) sl (bankOf sl r.toNat)).st = .full → c = coreAt s g →
                    (getV (coreAt t g) sl r).tag = (getV c sl r).tag ∧ (getV (coreAt t g) sl r).dw = (getV c sl r).dw))
            ∧ (isV sl = true → wTag q = true → tagKnown (fld v 0 6).toNat = true →
                (getV (coreAt t g) sl r).tag = fld v 0 6 ∧ (getV (coreAt t g) sl r).dw = fld v 6 2)
            ∧ (¬(sl = .s ∧ r = 0) → wTag q = false →
                isLive (coreAt t g) sl r = true ∧ (bankCount sl ≠ 0 → isPoison (coreAt t g) sl r = false)))
        ∧ (wFile q = 6 → (∀ i, i < 3 → wReg q = 4 + i →
              Map.get (coreAt t g).gens i 1 = (if v.setWidth 32 = (0 : BitVec 32) then 1 else v.setWidth 32) ∧ t.clusters = s.clusters)
            ∧ (wReg q < 4 ∨ 6 < wReg q → t = s))
        ∧ (wFile q = 7 → t = setCoreAt s g (writeCoreCsr .wr true (wCsr q) v (coreAt s g)))))
    ∧ (let dead := wFile q < 6 ∧ wPred q = false ∧ ¬(sl = .s ∧ r = 0) ∧ isLive (coreAt s g) sl r = false
      (wServed (coreAt s g) q true = true →
        (dead → exec .wdataRead s = .next (setCluster s k { q with werr := true }) ∧ (wdataRead k s).1 = 0)
        ∧ (¬dead → exec .wdataRead s = .next s
          ∧ (wFile q < 6 → wPred q = true → (wdataRead k s).1 = getP (coreAt s g) sl (wReg q))
          ∧ (wFile q < 6 → wPred q = false → isV sl = false → (wdataRead k s).1 = if sl = .s ∧ r = 0 then 0 else getX (coreAt s g) sl r)
          ∧ (wFile q < 6 → wPred q = false → isV sl = true → wTag q = false →
              (wdataRead k s).1 = fld (getV (coreAt s g) sl r).bits (64 * wPart q) 64)
          ∧ (wFile q = 6 → (wReg q = 0 → (wdataRead k s).1 = (coreAt s g).pc.setWidth 64)
              ∧ (wReg q = 7 → (wdataRead k s).1 = BitVec.ofNat 64 (coreAt s g).st.code))))
      ∧ (wServed (coreAt s g) q true = false →
        exec .wdataRead s = .next (setCluster s k { q with werr := true }) ∧ (wdataRead k s).1 = 0))

/-- R190, R192, R193, R337: the trap queue and its latches, and the windows of a control core.
Where the spec leaves a choice, the statement follows the model's: logs 62 and 103. -/
def Obligations.ControlCoreSteps : Prop := TrapQueueSteps ∧ WindowWrites

/-! ### Taking a fault and returning from one (R184 to R196) -/

/-- R186, R189, R190: on a compute core, a fault that is not fatal leaves the core TRAPPED at the bundle at hand with SRES
set, and its record, which holds code, class, SRES, FSLOT, DEFER, the delay position, the core, the context, PC, the pending
target, INFO and word 3, joins its cluster's queue, where five entries are free: behind those that it holds, if none of them entered
in this reference cycle; registers, memory and everything else are as before. -/
def Obligations.FaultIsTaken : Prop :=
  ∀ (e : Exc) (sres : Nat) (async dec : Bool) (s : State),
    s.cur < 256 → e.code < 256 → e.code ≠ 0x3F → sres < 8 → e.fslot < 8 → (∀ b ∈ (core s).br, b.dpos < 4) →
    (clusterAt s (s.cur / 8)).q.length ≤ 59 →
    let t := takeTrap e sres async dec s
    (core t).st = .trapped ∧ (core t).csr.sres.toNat = sres ∧ (core t).pc = (core s).pc ∧ (core t).br = (core s).br
      ∧ (core t).files = (core s).files ∧ (core t).sp = (core s).sp ∧ (core t).pend = (core s).pend
      ∧ (core t).loops = (core s).loops ∧ othersKept s t ∧ t.dram = s.dram ∧ t.regions = s.regions ∧ t.ctxs = s.ctxs
      ∧ ∃ r, r ∈ (clusterAt t (s.cur / 8)).q ∧ (clusterAt t (s.cur / 8)).q.length = (clusterAt s (s.cur / 8)).q.length + 1
        ∧ ((clusterAt s (s.cur / 8)).newAt ≠ s.now ∨ (clusterAt s (s.cur / 8)).newN = 0 →
            (clusterAt t (s.cur / 8)).q = (clusterAt s (s.cur / 8)).q ++ [r])
        ∧ (fld r.w0 0 8).toNat = e.code ∧ (fld r.w0 8 2).toNat = excClass e.code ∧ (fld r.w0 10 3).toNat = sres
        ∧ (fld r.w0 13 3).toNat = e.fslot ∧ r.w0.getLsbD 16 = e.defer ∧ r.w0.getLsbD 19 = false ∧ r.w0.getLsbD 20 = async
        ∧ (fld r.w0 32 8).toNat = s.cur ∧ fld r.w0 40 12 = (core s).ctx
        ∧ (fld r.w0 17 2).toNat = (match (core s).br with | some b => b.dpos | none => 0)
        ∧ fld r.w1 0 18 = (core s).pc ∧ (∀ b ∈ (core s).br, fld r.w1 18 18 = b.tgt)
        ∧ r.w2 = e.info ∧ r.w3 = e.w3

/-- R195: TRAP with a true predicate commits, ends its marked register, and the core takes fault TRAP, recoverable, with INFO the
operand, FSLOT 0 and SRES 1; a pending branch stays pending, and RETRY goes on with V0. With a false predicate TRAP does
nothing but end its marked register. R42: an RFT named on a compute core faults PRIV with the slot word, whatever its predicate, and is not carried out. On a compute core every operation of CTXCTL faults PRIV alike. -/
def Obligations.TrapAndPrivilege : Prop :=
  (∀ (p : Pred) (o : Opnd) (s : State) (v : Word), predOn (core s) .s p = true → rdO (core s) .s o = .ok v →
    exec (.trap p o) s
      = .next (takeTrap { code := 0x07, info := v, fslot := 0 } 1 false false (updCore (killMarks .s (markO o)) s))
    ∧ (s.cur < 256 → (core s).inEnd = false →
      let t := takeTrap { code := 0x07, info := v, fslot := 0 } 1 false false (updCore (killMarks .s (markO o)) s)
      (core t).st = .trapped ∧ (core t).csr.sres = 1 ∧ (core t).br = (core s).br
      ∧ (∃ tr, (core t).trap = some tr ∧ tr.exc.code = 0x07 ∧ tr.exc.info = v ∧ tr.exc.fslot = 0 ∧ tr.sres = 1 ∧ tr.cls = 1)
      ∧ ((∃ x ∈ (core s).bun.slots, x.1 = .s) → ∀ (q : Pred) (d a : Reg) (u : State), u.cur = 256 + s.cur / 8 → coreAt u s.cur = core t → predOn (core u) .s q = true →
        rdX (core u) .s a = .ok (BitVec.ofNat 64 (s.cur % 8)) →
        ∃ u', exec (.rft q d a) u = .next u' ∧ (coreAt u' s.cur).st = .running ∧ (coreAt u' s.cur).resume = some 1
          ∧ (coreAt u' s.cur).br = (core s).br)))
  ∧ (∀ (p : Pred) (o : Opnd) (s : State), predOn (core s) .s p = false →
    exec (.trap p o) s = .next (updCore (killMarks .s (markO o)) s))
  ∧ (∀ (p : Pred) (d a : Reg) (s : State), s.cur < 256 → ∀ i ∈ [Instr.rft p d a, .rftSkip p d a],
    exec i s = .next (takeTrap { code := 0x05, info := (core s).bun.word.setWidth 64 } 0 false true s))
  ∧ (∀ (p : Pred) (d a b : Reg) (s : State), s.cur < 256 →
    ∀ i ∈ [Instr.ctxctlNew p d a b, .ctxctlGrant p d a b, .ctxctlSave p d a b, .ctxctlResume p d a b, .ctxctlSettier p d a b,
           .ctxctlRoot p d a b, .ctxctlEnd p d a b, .ctxctlQuery p d a b],
    exec i s = .next (takeTrap { code := 0x05, info := (core s).bun.word.setWidth 64 } 0 false true s))

/-- R196: on a control core, RFT of a trapped core of its cluster whose fault is recoverable completes: status 0 lands in s[d]
after 1 issue cycle, and the core is RUNNING with no trap. RETRY of a fault at issue goes on with the slot that SRES names, the
bundle being whole again where none of its slots has issued, and SKIP with the slot after it. RFT of a core that is not trapped gives status 1 and changes no other core. -/
def Obligations.ReturnFromFault : Prop :=
  ∀ (p : Pred) (d a : Reg) (s : State) (k : Word) (c : Core),
    256 ≤ s.cur → predOn (core s) .s p = true → rdX (core s) .s a = .ok k → k.toNat < 8 →
    c = coreAt s (8 * (s.cur - 256) + k.toNat) → 8 * (s.cur - 256) + k.toNat < 256 →
    (∀ tr, c.st = .trapped → c.trap = some tr → tr.cls < 2 → tr.async = false → tr.atDecode = false → tr.inEnd = false →
      tr.exc.fslot ≠ 7 →
      (∃ t, exec (.rft p d a) s = .next t ∧ (core t).pend = (core s).pend ++ lands .s d 0 1 (core s)
        ∧ (coreAt t (8 * (s.cur - 256) + k.toNat)).st = .running
        ∧ (coreAt t (8 * (s.cur - 256) + k.toNat)).trap = none
        ∧ (coreAt t (8 * (s.cur - 256) + k.toNat)).resume
            = (if ∀ x ∈ c.bun.slots, tr.sres ≤ x.1.num then none else some tr.sres)
        ∧ (coreAt t (8 * (s.cur - 256) + k.toNat)).pc = c.pc)
      ∧ (∃ t, exec (.rftSkip p d a) s = .next t ∧ (core t).pend = (core s).pend ++ lands .s d 0 1 (core s)
        ∧ (coreAt t (8 * (s.cur - 256) + k.toNat)).st = .running
        ∧ (coreAt t (8 * (s.cur - 256) + k.toNat)).trap = none
        ∧ (coreAt t (8 * (s.cur - 256) + k.toNat)).resume = some (tr.sres + 1)
        ∧ (coreAt t (8 * (s.cur - 256) + k.toNat)).pc = c.pc))
    ∧ (c.st ≠ .trapped → ∀ i ∈ [Instr.rft p d a, .rftSkip p d a],
      exec i s = .next (delivered .s [] (lands .s d 1 1) s))

/-! ### Moves between files, and register and scratchpad banks (R56, R57, R58, R61, R63, R67) -/

/-- The bits, and the mask of the bits, that a 64-bit value writes at a destination named by `x` (R56): a part of a vector
register, a whole lane mask, the one bit of a predicate, or a data register. -/
def Sys2Proof.Machine.Claims.movedWord (x : XOp) (v : Word) : VWord × VWord :=
  if x.dp then (if isV x.dfile then (v.setWidth 2048, mask64) else (if v = 0 then 0 else 1, 1))
  else if isV x.dfile then (v.setWidth 2048 <<< (64 * x.part.toNat), mask64 <<< (64 * x.part.toNat))
  else (v.setWidth 2048, mask64)

/-- A value on its way to the destination that `x` names, 3 cycles of the source slot's engine; a constant takes none (R56). In the slot's
own file it is a result of that slot (R269). -/
def Sys2Proof.Machine.Claims.onItsWay (sl : Slot) (x : XOp) (b : VWord × VWord) (tag : BitVec 6) (dw : BitVec 2) (c : Core) :
    List Landing :=
  if x.dreg = 0 ∧ (x.dp = true ∨ x.dfile = .s) then []
  else [{ due := c.csr.cyc + 3 * divisor c sl, born := c.csr.cyc, src := sl, file := x.dfile, isPred := x.dp
          reg := x.dreg.toNat, bits := b.1, mask := b.2, tag := tag, dw := dw, arrival := sl != x.dfile }]

/-- R56: XMOV of S, M, C0 and C1 with a true predicate sends the 64-bit register, XMOVP the predicate bit, which fills a whole
lane mask; XMOV of V0 and V1 with some bit of its mask set sends a whole vector register with its tag to a vector file, and
group PART elsewhere; XMOVP of V0 and V1 sends the lane mask. With no bit set nothing moves and nothing is read. Memory, and
everything but the last-use mark's register, is as before.
Where the spec leaves a choice, the statement follows the model's: log 86. -/
def Obligations.CrossFileMoves : Prop :=
  ∀ (p : Pred) (x : XOp) (s : State),
    (∀ (sl : Slot) (i : Instr), ((sl = .s ∧ i = .xmovS p x) ∨ (sl = .m ∧ i = .xmovM p x)
        ∨ (∃ w : CU, sl = w.slot ∧ i = .xmovC w p x)) →
      ∀ v, predOn (core s) sl p = true → rdX (core s) sl x.sreg = .ok v →
      exec i s = .next (delivered sl (marksOf x.sreg x.lu) (onItsWay sl x (movedWord x v) 0 0) s))
    ∧ (∀ (sl : Slot) (i : Instr), ((sl = .s ∧ i = .xmovpS p x) ∨ (sl = .m ∧ i = .xmovpM p x)
        ∨ (∃ w : CU, sl = w.slot ∧ i = .xmovpC w p x)) →
      predOn (core s) sl p = true →
      exec i s = .next (delivered sl []
        (onItsWay sl x (movedWord x (if getP (core s) sl x.sreg.toNat = 0 then 0
          else if x.dp && isV x.dfile then BitVec.allOnes 64 else getP (core s) sl x.sreg.toNat)) 0 0) s))
    ∧ (∀ (w : VU) (v : VReg), selMask (core s) w.slot p ≠ 0 → rdV (core s) w.slot x.sreg = .ok v →
      exec (.xmovV w p x) s = .next (delivered w.slot (marksOf x.sreg x.lu)
        (if isV x.dfile && !x.dp then onItsWay w.slot x (v.bits, BitVec.allOnes 2048) v.tag v.dw
         else onItsWay w.slot x (movedWord x (fld v.bits (64 * x.part.toNat) 64)) 0 0) s))
    ∧ (∀ w : VU, selMask (core s) w.slot p ≠ 0 →
      exec (.xmovpV w p x) s = .next (delivered w.slot []
        (onItsWay w.slot x (movedWord x (getP (core s) w.slot x.sreg.toNat)) 0 0) s))
    ∧ (∀ w : VU, selMask (core s) w.slot p = 0 →
      exec (.xmovV w p x) s = .next (delivered w.slot (marksOf x.sreg x.lu) (fun _ => []) s)
      ∧ exec (.xmovpV w p x) s = .next (delivered w.slot [] (fun _ => []) s))

/-- R67: BANK.R and BANK.WR of S with a true predicate, and of V0 and V1 with some bit of the mask set, complete on a bank that
the file has: the bank goes to retention, or starts its wake. A number beyond the file's banks faults ILLEGAL_OP. -/
def Sys2Proof.Machine.Claims.RegisterBankInstructions : Prop :=
  ∀ (p : Pred) (o : Opnd) (s : State),
    (∀ b : Word, predOn (core s) .s p = true → rdO (core s) .s o = .ok b →
      (b.toNat < 2 →
        exec (.bankRS p o) s = .next (updCore (fun c => killMarks .s (markO o) (bankRetain .s b.toNat c)) s)
        ∧ exec (.bankWRS p o) s = .next (updCore (fun c => killMarks .s (markO o) (startWake s.now none .s b.toNat c)) s))
      ∧ (2 ≤ b.toNat → ∀ i ∈ [Instr.bankRS p o, .bankWRS p o], exec i s = .next (slotFault .s (illegalOp s) s)))
    ∧ (∀ (w : VU) (b : Nat), selMask (core s) w.slot p ≠ 0 → bankOpnd (core s) w o = .ok b →
      (b < 4 →
        exec (.bankRV w p o) s = .next (updCore (fun c => killMarks w.slot (markO o) (bankRetain w.slot b c)) s)
        ∧ exec (.bankWRV w p o) s = .next (updCore (fun c => killMarks w.slot (markO o) (startWake s.now none w.slot b c)) s))
      ∧ (4 ≤ b → ∀ i ∈ [Instr.bankRV w p o, .bankWRV w p o], exec i s = .next (slotFault w.slot (illegalOp s) s)))

/-- R58, R67: retention takes a FULL bank to RET, leaves OFF and RET alone, and lets a WAKING one go to RET when its wake ends.
A wake takes 4 reference cycles from RET, which keeps the registers, and 12 from OFF, after which every register of the bank
reads 0; it leaves FULL and WAKING alone. Neither touches another bank, or a register outside the bank. -/
def Sys2Proof.Machine.Claims.RegisterBankPower : Prop :=
  ∀ (now : Nat) (acc : Option Slot) (sl : Slot) (b : Nat) (c : Core), b < (if isV sl then 4 else 2) →
    (let r := bankRetain sl b c
     (∀ k, k ≠ bankKey sl b → Map.get r.files.banks k {} = Map.get c.files.banks k {})
     ∧ (getBank r sl b).st = (if (getBank c sl b).st = .full then BankSt.ret else (getBank c sl b).st)
     ∧ ((getBank c sl b).st = .waking → (getBank r sl b).toRet = true)
     ∧ r.files.x = c.files.x ∧ r.files.v = c.files.v ∧ r.files.live = c.files.live)
    ∧ (let r := startWake now acc sl b c
       (∀ k, k ≠ bankKey sl b → Map.get r.files.banks k {} = Map.get c.files.banks k {})
       ∧ ((getBank c sl b).st = .ret → getBank r sl b = { st := .waking, wakeEnd := now + 4, fromRet := true, byAcc := acc }
          ∧ r.files.x = c.files.x ∧ r.files.v = c.files.v)
       ∧ ((getBank c sl b).st = .off → getBank r sl b = { st := .waking, wakeEnd := now + 12, byAcc := acc }
          ∧ (∀ n ∈ bankRegs sl b, n < 32 → getX r sl (BitVec.ofNat 5 n) = 0 ∧ getV r sl (BitVec.ofNat 5 n) = {})
          ∧ (∀ sl' n, n < 32 → (sl' ≠ sl ∨ n ∉ bankRegs sl b) → getX r sl' (BitVec.ofNat 5 n) = getX c sl' (BitVec.ofNat 5 n)
              ∧ getV r sl' (BitVec.ofNat 5 n) = getV c sl' (BitVec.ofNat 5 n)))
       ∧ ((getBank c sl b).st = .full ∨ (getBank c sl b).st = .waking → r = c)
       ∧ r.files.live = c.files.live ∧ r.files.p = c.files.p)

/-- R67, R63: BANK.SR and BANK.SW over a range of scratchpad complete: with a length of 0 nothing happens; over a range within
the scratchpad each bank that it spans and that a held region of the core's context overlaps goes from FULL to RET unless an
engine access to it is queued, or starts its wake of 16 reference cycles; a range beyond the scratchpad faults NO_RIGHT. -/
def Sys2Proof.Machine.Claims.ScratchpadBankInstructions : Prop :=
  ∀ (p : Pred) (a : Reg) (la : Bool) (o : Opnd) (s : State) (u v : Word),
    predOn (core s) .s p = true → rdX (core s) .s a = .ok u → rdO (core s) .s o = .ok v →
    (v = 0 → ∀ i ∈ [Instr.bankSR p a la o, .bankSW p a la o],
      exec i s = .next (updCore (killMarks .s (marksOf a la ++ markO o)) s))
    ∧ (v ≠ 0 → u.toNat + v.toNat ≤ 0x180000 →
      (∃ t, exec (.bankSW p a la o) s = .next t ∧ othersKept s t
        ∧ ∀ b < 384, getSpBank (core t) b =
            (if rangeInBank u.toNat v.toNat b ∧ ownsBank s b = true then
              (match (getSpBank (core s) b).st with
               | .ret => { st := .waking, wakeEnd := s.now + 16, fromRet := true }
               | .off => { st := .waking, wakeEnd := s.now + 16 }
               | _ => getSpBank (core s) b)
             else getSpBank (core s) b))
      ∧ (∃ t, exec (.bankSR p a la o) s = .next t ∧ othersKept s t
        ∧ ∀ b < 384, getSpBank (core t) b =
            (if rangeInBank u.toNat v.toNat b ∧ ownsBank s b = true ∧ (getSpBank (core s) b).st = .full ∧ bankQueued s b = false
             then { st := .ret } else getSpBank (core s) b)))
    ∧ (v ≠ 0 → 0x180000 < u.toNat + v.toNat → ∀ i ∈ [Instr.bankSR p a la o, .bankSW p a la o],
      exec i s = .next (takeTrap { code := 0x21, info := u } 0 false false s))

/-- R63, R67: BANK.R and BANK.WR of register banks, and BANK.SR and BANK.SW of ranges of scratchpad.
Where the spec leaves a choice, the statement follows the model's: log 17. -/
def Obligations.BankInstructions : Prop := RegisterBankInstructions ∧ ScratchpadBankInstructions

/-! ### Landings, wakes, freezes and asynchronous faults (R22, R25, R43, R48, R52, R55, R58, R59, R63, R187) -/

/-- The register that `l` names holds in `c'` what `l` brings, over what it held in `c`: the bits under its mask, the tag and
the digit width; a poisoned register first reads zero, and the register is live and not poisoned (R55, R57, R59). -/
def Sys2Proof.Machine.Claims.holds (l : Landing) (c c' : Core) : Prop :=
  let r : Reg := BitVec.ofNat 5 l.reg
  let m : Word := l.mask.setWidth 64
  if l.isPred then l.reg ≠ 0 → getP c' l.file l.reg
    = (Map.get c.files.p (predKey l.file l.reg) 0 &&& ~~~m) ||| (l.bits.setWidth 64 &&& m)
  else isLive c' l.file r = true ∧ isPoison c' l.file r = false
    ∧ (if isV l.file then getV c' l.file r
        = { bits := ((if isPoison c l.file r then 0 else (getV c l.file r).bits) &&& ~~~l.mask) ||| (l.bits &&& l.mask)
            tag := l.tag, dw := l.dw }
       else getX c' l.file r
        = ((if isPoison c l.file r then 0 else getX c l.file r) &&& ~~~m) ||| (l.bits.setWidth 64 &&& m))

/-- R25, R55, R56: a result that is due, and whose bank is FULL, lands in its register and is in flight no longer; one that is
not due does not. Of two that land in one register in one issue cycle one is kept and STAT.WCOL is set: the later issued of
two results of the owning slot, and a result of the owning slot against a move from another file. -/
def Obligations.ResultsLand : Prop :=
  ∀ (s : State) (l : Landing), l.reg < 32 → (core s).landed = [] →
    ((core s).pend = [l] → l.due ≤ (core s).csr.cyc → bankReady (core s) l = true →
      ∃ t, exec (if l.arrival then .xmovArrival else .resultLanding) s = .next t
        ∧ (core t).pend = [] ∧ holds l (core s) (core t) ∧ (core t).csr = (core s).csr ∧ (core t).sp = (core s).sp
        ∧ othersKept s t)
    ∧ ((core s).pend = [l] → (core s).csr.cyc < l.due →
      ∀ i ∈ [Instr.xmovArrival, .resultLanding], ∃ t, exec i s = .next t ∧ core t = core s ∧ othersKept s t)
    ∧ (∀ m, (core s).pend = [l, m] → sameDest l m = true → l.due ≤ (core s).csr.cyc → m.due ≤ (core s).csr.cyc →
      bankReady (core s) l = true → l.arrival = false → (m.arrival = false → l.born < m.born) →
      ∃ t, exec .resultLanding s = .next t ∧ (core t).pend = [] ∧ (core t).csr.wcol = true
        ∧ holds (if m.arrival then l else m) (core s) (core t))

/-- R58, R59, R63: a bank's wake completes. From OFF, or from retention where parity holds, the bank is FULL and nothing else
changes; where the parity check of a wake from retention fails, RETENTION_LOSS with the bank as INFO goes to the slot whose
access started the wake, and to no slot but as an asynchronous fault otherwise. With BANK.R asked for meanwhile, it is in RET. A bank that does
not wake is left alone. -/
def Sys2Proof.Machine.Claims.WakesComplete : Prop :=
  ∀ (s : State) (file : Slot) (b : BitVec 2) (n : BitVec 9),
    (let k := getBank (core s) file b.toNat
     (k.st ≠ .waking → exec (.bankWakeComplete file b) s = .next s)
     ∧ (k.st = .waking → ∃ t, exec (.bankWakeComplete file b) s = .next t ∧ othersKept s t
        ∧ getBank (core t) file b.toNat = { st := if k.toRet then .ret else .full }
        ∧ (core t).files.x = (core s).files.x ∧ (core t).files.v = (core s).files.v ∧ (core t).pend = (core s).pend
        ∧ (k.fromRet = false ∨ Config.parityGood s.ctr = true →
            (core t).asyncs = (core s).asyncs ∧ (core t).accFaults = (core s).accFaults
            ∧ (core t).files.poison = (core s).files.poison)
        ∧ (k.fromRet = true → Config.parityGood s.ctr = false →
            (k.byAcc = none → (core t).asyncs
              = (core s).asyncs ++ [{ code := 0x12, info := BitVec.ofNat 64 (b.toNat + 32 * file.num) }])
            ∧ (∀ sl, k.byAcc = some sl → (core t).accFaults
              = (core s).accFaults ++ [(sl, { code := 0x12, info := BitVec.ofNat 64 (b.toNat + 32 * file.num) })])
            ∧ (∀ r ∈ bankRegs file b.toNat, r < 32 → (Map.get (core s).files.live file.num 0).getLsbD r = true →
                isPoison (core t) file (BitVec.ofNat 5 r) = true))))
    ∧ (let k := getSpBank (core s) n.toNat
       (k.st ≠ .waking → exec (.scratchpadBankWake n) s = .next s)
       ∧ (k.st = .waking → ∃ t, exec (.scratchpadBankWake n) s = .next t ∧ othersKept s t
          ∧ getSpBank (core t) n.toNat = { st := if k.toRet then .ret else .full }
          ∧ (core t).sp.mem = (core s).sp.mem ∧ (core t).pend = (core s).pend
          ∧ (k.fromRet = false ∨ Config.parityGood s.ctr = true →
              (core t).asyncs = (core s).asyncs ∧ (core t).sp.poison = (core s).sp.poison)
          ∧ (k.fromRet = true → Config.parityGood s.ctr = false → k.byAcc = none → (core t).asyncs
              = (core s).asyncs ++ [{ code := 0x12, info := BitVec.ofNat 64 (2 ^ 63 + n.toNat) }])))

/-- R58, R59, R63, R67: retention, wakes and the end of a wake.
Where the spec leaves a choice, the statement follows the model's: log 10. -/
def Obligations.RegisterBankResults : Prop := WakesComplete ∧ RegisterBankPower

/-- R187, R48, R43, R52, R22, R84: a running core that has a pending asynchronous fault takes it at the boundary with SRES 0; a
machine check of a compute core queues fault 0x3F and leaves the core DISABLED; a bundle that fails its decode checks takes
the fault at decode; a core frozen by nothing any longer runs; the bundle with no slot uses one issue cycle and passes on.
Where the spec leaves a choice, the statement follows the model's: log 39. -/
def Obligations.BoundarySteps : Prop :=
  ∀ s : State,
    (∀ e es, (core s).asyncs = e :: es → ((core s).st = .running ∨ (core s).st = .frozen) → (core s).drain = none →
      (core s).resume = none → e.code ≠ 0x3F →
      exec .asyncFaultTake s = .next (takeTrap e 0 true false (updCore (fun c => { c with asyncs := es }) s)))
    ∧ ((core s).asyncs = [] → exec .asyncFaultTake s = .next s)
    ∧ (∀ w, s.cur < 256 → (core s).st ≠ .disabled → (core s).drain = none → (clusterAt s (s.cur / 8)).q.length < 64 →
      ∃ t, exec (.machineCheck w) s = .next t ∧ (core t).st = .disabled
        ∧ ∃ r ∈ (clusterAt t (s.cur / 8)).q, (fld r.w0 0 8).toNat = 0x3F ∧ (fld r.w0 8 2).toNat = 2 ∧ r.w2 = w)
    ∧ (∀ e n, (core s).st = .running → (core s).bun.slots = [] → decodeAt s = .error (e, n) →
      exec .decodeFault s
        = .next (takeTrap e 0 false true (updCore (fun c => { c with bun := { c.bun with len := n } }) s)))
    ∧ ((core s).st = .frozen → holdCause s = none → exec .freezeEnd s = .next (updCore (fun c => { c with st := .running }) s))
    ∧ (∀ ew : BitVec 5, (core s).inEnd = false → (core s).bun.late = none → ∃ t, exec (.emptyBundle ew) s = .next t ∧ othersKept s t
        ∧ (core t).csr.cyc = (core s).csr.cyc + 1 ∧ (core t).pc = (advance (core s)).pc ∧ (core t).br = (advance (core s)).br
        ∧ (core t).loops = (advance (core s)).loops ∧ (core t).files = (core s).files ∧ (core t).sp = (core s).sp
        ∧ (core t).pend = (core s).pend ∧ (ew ≠ 0 → (s.now, ew.toNat) ∈ (core t).window))

/-! ### Clocks, refresh waits, power and yielding (R270, R325, R348 to R350) -/

/-- R348, R349, R353: CLKDIV on its own kind of core, with an operand from 1 to 4 that is 4 in QUICKSET, completes: the drain
begins and nothing else changes. Any other operand faults ILLEGAL_OP. At the end of a drain the divisor changes once the
engine is drained, and not before. -/
def Obligations.ClockDivisors : Prop :=
  ∀ (p : Pred) (o : Opnd) (s : State) (e : Engine) (i : Instr),
    (e, i) ∈ [(Engine.v, Instr.clkdivV p o), (.m, .clkdivM p o), (.c, .clkdivC p o), (.k, .clkdivK p o)] →
    (∀ n, predOn (core s) .s p = true → rdO (core s) .s o = .ok n →
      (1 ≤ n.toNat → n.toNat ≤ 4 → (e = .k ↔ 256 ≤ s.cur) → (s.dev.st = .quickset → n = 4) →
        exec i s = .next (updCore (fun c => killMarks .s (markO o) { c with drain := some (e, BitVec.ofNat 2 (n.toNat - 1)) }) s))
      ∧ (n.toNat = 0 ∨ 4 < n.toNat → exec i s = .next (slotFault .s (illegalOp s) s)))
    ∧ (∀ d, (core s).drain = some (e, d) →
      (drained e (core s) = true → ∃ t, exec .clkdivDrainEnd s = .next t ∧ othersKept s t ∧ (core t).drain = none
        ∧ (match e with
           | .v => (core t).csr = { (core s).csr with vdiv := d }
           | .m => (core t).csr = { (core s).csr with mdiv := d }
           | .c => (core t).csr = { (core s).csr with cdiv := d }
           | .k => (core t).csr = { (core s).csr with kdiv := d })
        ∧ (core t).pend = (core s).pend)
      ∧ (drained e (core s) = false → ∃ t, exec .clkdivDrainEnd s = .next t ∧ core t = core s ∧ othersKept s t))

/-! ### Rent: the region instructions (R226, R230, R233 to R239) -/

/-- The result word of the region instructions: the handle with the status above it (R236). -/
def Sys2Proof.Machine.Claims.rentStatus (st : Nat) (h : BitVec 32) : Word := BitVec.ofNat 64 (h.toNat + st * 2 ^ 32)

/-- The four RENT instructions with their kinds (R237). -/
def Sys2Proof.Machine.Claims.rentKinds (p : Pred) (d a : Reg) (la : Bool) (n : Word) : List (RKind × Instr) :=
  [(.sp, .rentSP p d a la n), (.is, .rentIS p d a la n), (.hbm, .rentHBM p d a la n), (.cap, .rentCAP p d a la n)]

/-- R237, R236, R248, R63: RENT with a legal size and term, an allowance that is not negative and, for SP and IS, an aligned
place within the storage, completes. Where the allowance does not cover size · rate · term the status is 4 and nothing else
changes; where the place of an SP or IS region is taken, 1. Where an entry and the space are there, the region is HELD by the
core's context in EXCLUSIVE-WRITE of the core, paid until the tick plus the term, the allowance pays the whole charge, its
scratchpad bytes read as zero, the handle-table entry of an HBM or capacity-tier region describes it, and the handle lands
after 16 issue cycles.
Where the spec leaves a choice, the statement follows the model's: logs 15, 28, 47 and 89. -/
def Obligations.RentResults : Prop :=
  ∀ (p : Pred) (d a : Reg) (la : Bool) (n : Word) (kind : RKind) (i : Instr) (s : State) (size place : Word) (cost : Nat),
    (kind, i) ∈ rentKinds p d a la n →
    predOn (core s) .s p = true → rdX (core s) .s a = .ok size → rdX (core s) .s (a + 1) = .ok place →
    size ≠ 0 → size.toNat % 64 = 0 → n ≠ 0 → n.toNat ≤ 2 ^ 20 → 0 ≤ myAlw s →
    (kind = .sp → place.toNat % 64 = 0 ∧ place.toNat + size.toNat ≤ 0x180000) →
    (kind = .is → place.toNat % 64 = 0 ∧ place.toNat + size.toNat ≤ 0x40000) →
    cost = size.toNat * kind.rate * n.toNat →
    (myAlw s < cost → exec i s = .next (delivered .s (marksOf a la) (lands .s d (rentStatus 4 0) 16) s))
    ∧ ((cost : Int) ≤ myAlw s → (kind = .sp ∨ kind = .is) → rangeTaken s kind s.cur place.toNat size.toNat = true →
      exec i s = .next (delivered .s (marksOf a la) (lands .s d (rentStatus 1 0) 16) s))
    ∧ ((cost : Int) ≤ myAlw s → (myCtx s).st ≠ .free →
      (if kind = .sp ∨ kind = .is then rangeTaken s kind s.cur place.toNat size.toNat = false
       else slotBad (myCtx s) place.toNat = false) →
      (kind = .hbm → hbmRoom s size.toNat = true) → (kind = .cap → (newLinks s size.toNat).isSome = true) →
      ∀ key, freeEntryOf s kind s.cur = some key →
      ∃ t r, exec i s = .next t ∧ Map.find? t.regions key = some r
        ∧ r.kind = kind ∧ r.st = .held ∧ r.owner = (core s).ctx ∧ r.size = size.toNat ∧ r.place = place.toNat
        ∧ r.pu = s.tick + n.toNat ∧ r.res = 0 ∧ r.subl = none
        ∧ r.phase = { mode := 2, pmask := 0x3F, hk := 0, holder := BitVec.ofNat 16 (coreNum s.cur), epoch := 0, pend := none }
        ∧ (∀ k, k ≠ key → Map.find? t.regions k = Map.find? s.regions k)
        ∧ (ctxAt t (core s).ctx).alw = satAlw ((myCtx s).alw - cost)
        ∧ (kind = .sp → ∀ b, place.toNat ≤ b → b < place.toNat + size.toNat →
            Memory.read (coreAt t (key / 1024)).sp.mem b = 0)
        ∧ ((kind = .hbm ∨ kind = .cap) → Map.get (ctxAt t (core s).ctx).handles place.toNat {}
            = { w0 := BitVec.ofNat 64 (7 + (if kind = .cap then 8 else 0) + (handleOf key r).toNat * 2 ^ 16), w1 := size
                w2 := BitVec.ofNat 64 r.base })
        ∧ (core t).pend = (core s).pend ++ lands .s d (rentStatus 0 (handleOf key r)) 16 (core s))

/-- The acting core's context may spend: its allowance, as the core's checks see it, is not negative, and it is a context (R226, R238,
R271). -/
def Sys2Proof.Machine.Claims.solvent (s : State) : Prop := 0 ≤ myAlw s ∧ (myCtx s).st ≠ .free

/-- R238: RENEW of an owner's HELD region within 2^24 ticks, and PREPAY of one, complete: the paid-until moves by the term, or
the reserve grows, the allowance pays, and status 0 lands after 16 issue cycles; where the allowance does not cover it the
status is 4 and nothing else changes. A negative allowance faults ALLOWANCE_EXHAUSTED, and a handle that names no region
faults NO_RIGHT with the register as INFO. -/
def Sys2Proof.Machine.Claims.RenewAndPrepay : Prop :=
  ∀ (p : Pred) (d a : Reg) (la : Bool) (o : Opnd) (s : State) (h v : Word),
    predOn (core s) .s p = true → rdX (core s) .s a = .ok h → rdO (core s) .s o = .ok v →
    (∀ key r, namedRegion s h = some (key, r) → r.owner = (core s).ctx → r.subl = none → r.st = .held → solvent s →
      (v ≠ 0 → v.toNat ≤ 2 ^ 20 → r.pu + v.toNat ≤ s.tick + 2 ^ 24 →
        let cost := r.size * r.kind.rate * v.toNat
        ((cost : Int) ≤ myAlw s → ∃ t, exec (.renew p d a la o) s = .next t
          ∧ Map.find? t.regions key = some { r with pu := r.pu + v.toNat }
          ∧ (∀ k, k ≠ key → Map.find? t.regions k = Map.find? s.regions k)
          ∧ (ctxAt t (core s).ctx).alw = satAlw ((myCtx s).alw - cost)
          ∧ (core t).pend = (core s).pend ++ lands .s d (rentStatus 0 0) 16 (core s))
        ∧ (myAlw s < cost → exec (.renew p d a la o) s
            = .next (delivered .s (marksOf a la ++ markO o) (lands .s d (rentStatus 4 0) 16) s)))
      ∧ (v ≠ 0 → v.toNat ≤ 2 ^ 62 →
        ((v.toNat : Int) ≤ myAlw s → ∃ t, exec (.prepay p d a la o) s = .next t
          ∧ Map.find? t.regions key = some { r with res := r.res + v.toNat }
          ∧ (∀ k, k ≠ key → Map.find? t.regions k = Map.find? s.regions k)
          ∧ (ctxAt t (core s).ctx).alw = satAlw ((myCtx s).alw - v.toNat)
          ∧ (core t).pend = (core s).pend ++ lands .s d (rentStatus 0 0) 16 (core s))
        ∧ (myAlw s < v.toNat → exec (.prepay p d a la o) s
            = .next (delivered .s (marksOf a la ++ markO o) (lands .s d (rentStatus 4 0) 16) s))))
    ∧ (v ≠ 0 → v.toNat ≤ 2 ^ 20 → ∀ i ∈ [Instr.renew p d a la o, .prepay p d a la o],
      (myAlw s < 0 →
        exec i s = .next (takeTrap { code := 0x22, info := BitVec.ofInt 64 (myAlw s) } 0 false false s))
      ∧ (0 ≤ myAlw s → namedRegion s h = none → exec i s = .next (takeTrap { code := 0x21, info := h } 0 false false s)))

/-- R235, R238, R239, R249: SUBLET of an owner's HELD region enters a HELD sublet for the tenant with its rights, its term
end no later than the parent's paid-until, OPEN with the right to write and SHARED-READ without, and the parent's
EPOCH advances. VACATE of an owner's SP or IS region without liens or waiters frees its entry with the next generation and
refunds the reserve and the whole paid ticks after this one; an HBM or capacity-tier region is SCRUBBED. RQRY gives the item
after 8 issue cycles, and 0 for a handle that names no region of the context. -/
def Sys2Proof.Machine.Claims.SubletVacateQuery : Prop :=
  ∀ (p : Pred) (d a : Reg) (la : Bool) (s : State) (h : Word),
    predOn (core s) .s p = true → rdX (core s) .s a = .ok h →
    (∀ (b : Reg) (lb : Bool) (off len terms : Word) (pk key : Nat) (r : Region),
      rdX (core s) .s (a + 1) = .ok off → rdX (core s) .s b = .ok len → rdX (core s) .s (b + 1) = .ok terms →
      fld terms 14 18 = 0 → 1 ≤ (fld terms 32 32).toNat → (fld terms 32 32).toNat ≤ 2 ^ 20 → len ≠ 0 →
      off.toNat % 64 = 0 → len.toNat % 64 = 0 → 0 ≤ myAlw s →
      namedRegion s h = some (pk, r) → r.owner = (core s).ctx → r.subl = none → off.toNat + len.toNat ≤ r.size → r.st = .held →
      freeEntryOf s r.kind (tableCore pk r) = some key → key ≠ pk →
      ∃ t x, exec (.sublet p d a la b lb) s = .next t ∧ Map.find? t.regions key = some x
        ∧ x.st = .held ∧ x.kind = r.kind ∧ x.base = r.base + off.toNat ∧ x.size = len.toNat
        ∧ x.subl = some { parent := handleOf pk r, tenant := fld terms 0 12, rd := terms.getLsbD 12, wr := terms.getLsbD 13
                          te := min (s.tick + (fld terms 32 32).toNat) r.pu }
        ∧ x.phase.mode = (if terms.getLsbD 13 then 0 else 1)
        ∧ (∃ r', Map.find? t.regions pk = some r' ∧ r'.phase.epoch = r.phase.epoch + 1 ∧ r'.pu = r.pu)
        ∧ (core t).pend = (core s).pend ++ lands .s d (rentStatus 0 (handleOf key x)) 16 (core s))
    ∧ (∀ key r, namedRegion s h = some (key, r) → r.owner = (core s).ctx → r.subl = none → lienCount s key r = 0 →
      syncBearing s key r = false → r.st ≠ .scrubbed → (myCtx s).st ≠ .free →
      ∃ t, exec (.vacate p d a la) s = .next t
        ∧ (ctxAt t (core s).ctx).alw = satAlw ((myCtx s).alw + (r.res + r.size * r.kind.rate * (r.pu - s.tick - 1) : Nat))
        ∧ (r.kind = .sp ∨ r.kind = .is → Map.find? t.regions key = some { gen := r.gen + 1 })
        ∧ (r.kind = .hbm ∨ r.kind = .cap → ∃ r', Map.find? t.regions key = some r' ∧ r'.st = .scrubbed ∧ r'.res = 0
            ∧ r'.gen = r.gen)
        ∧ (core t).pend = (core s).pend ++ lands .s d (rentStatus 0 0) 16 (core s))
    ∧ (∀ item : BitVec 3,
      (namedRegion s h = none → exec (.rqry p d a la item) s = .next (delivered .s (marksOf a la) (lands .s d 0 8) s))
      ∧ (∀ key r, namedRegion s h = some (key, r) → r.owner = (core s).ctx →
        exec (.rqry p d a la item) s
          = .next (delivered .s (marksOf a la) (lands .s d (rqryItem s key r item.toNat) 8) s)
        ∧ rqryItem s key r 2 = BitVec.ofNat 64 r.res ∧ rqryItem s key r 3 = BitVec.ofNat 64 r.size
        ∧ rqryItem s key r 4 = BitVec.ofNat 64 r.place ∧ (r.subl = none → rqryItem s key r 1 = BitVec.ofNat 64 r.pu)
        ∧ (rqryItem s key r 0).toNat % 8 = r.st.code))

/-- R235, R236, R238, R239, R249: RENEW and PREPAY, and SUBLET, VACATE and RQRY.
Where the spec leaves a choice, the statement follows the model's: logs 51, 52 and 89. -/
def Obligations.RegionTermResults : Prop := RenewAndPrepay ∧ SubletVacateQuery

/-! ### Rent: what time brings (R60, R228, R232 to R235, R284) -/

/-- The region of `t` at a key, in a state of life. -/
def Sys2Proof.Machine.Claims.regionIs (t : State) (key : Nat) (f : Region → Prop) : Prop :=
  ∃ r, Map.find? t.regions key = some r ∧ f r

/-- R233, R234, R284, R235: when paid-until comes, a HELD region draws 64 ticks from a reserve that holds them; without a
reserve it goes LAPSED with 16 ticks of grace where it has neither liens nor waiters, LIENED under a lien, OVERDUE with a
waiter. A launch region pays its next term, below zero if need be. A LAPSED region whose grace ends is freed or scrubbed, with
its reserve refunded. A sublet whose term ends is freed, or LIENED under a lien. Zero-fill frees a SCRUBBED region whose bytes
then read as zero.
Where the spec leaves a choice, the statement follows the model's: log 89. -/
def Obligations.RentClock : Prop :=
  ∀ (s : State) (h : BitVec 32) (k : Nat) (r : Region), regionOf s.regions h = some (k, r) →
    (r.st = .held → r.subl = none → r.term = none → r.pu = s.tick → 0 < r.size →
      ∃ t, exec (.paidUntilReached h) s = .next t ∧ t.tick = s.tick
        ∧ (64 * (r.size * r.kind.rate) ≤ r.res → regionIs t k (fun x =>
            x.st = .held ∧ x.pu = r.pu + 64 ∧ x.res = r.res - 64 * (r.size * r.kind.rate)))
        ∧ (r.res < r.size * r.kind.rate → syncBearing s k r = true → regionIs t k (fun x => x.st = .overdue))
        ∧ (r.res < r.size * r.kind.rate → syncBearing s k r = false → 0 < lienCount s k r →
            regionIs t k (fun x => x.st = .liened))
        ∧ (r.res < r.size * r.kind.rate → syncBearing s k r = false → lienCount s k r = 0 →
            regionIs t k (fun x => x.st = .lapsed ∧ x.ge = s.tick + 16)))
    ∧ (∀ n, r.term = some n → r.st = .held → r.pu ≤ s.tick → (ctxAt s r.owner).st ≠ .free →
      ∃ t, exec (.launchRegionRenewal h) s = .next t ∧ Map.find? t.regions k = some { r with pu := r.pu + n }
        ∧ (ctxAt t r.owner).alw = satAlw ((ctxAt s r.owner).alw - (r.size * r.kind.rate * n : Nat)))
    ∧ (r.st = .lapsed → r.ge ≤ s.tick → (ctxAt s r.owner).st ≠ .free →
      ∃ t, exec (.graceEnd h) s = .next t ∧ (ctxAt t r.owner).alw = satAlw ((ctxAt s r.owner).alw + r.res)
        ∧ (r.kind = .sp ∨ r.kind = .is → Map.find? t.regions k = some { gen := r.gen + 1 })
        ∧ (r.kind = .hbm ∨ r.kind = .cap → regionIs t k (fun x => x.st = .scrubbed ∧ x.res = 0)))
    ∧ (∀ b, r.subl = some b → r.st = .held → b.te ≤ s.tick →
      ∃ t, exec (.subletTermEnd h) s = .next t
        ∧ (lienCount s k r = 0 → Map.find? t.regions k = some { gen := r.gen + 1 })
        ∧ (0 < lienCount s k r → regionIs t k (fun x => x.st = .liened ∧ x.base = r.base ∧ x.size = r.size ∧ x.subl = r.subl ∧ x.phase = r.phase)))
    ∧ (r.st = .scrubbed → ∃ t, exec (.zeroFillComplete h) s = .next t ∧ Map.find? t.regions k = some { gen := r.gen + 1 }
        ∧ (r.kind = .hbm → ∀ a, r.base ≤ a → a < r.base + r.size → Memory.read t.dram.hbm a = 0)
        ∧ (r.kind = .cap → ∀ a, r.base ≤ a → a < r.base + r.size → Memory.read t.dram.cap a = 0)
        ∧ (∀ k', k' ≠ k → Map.find? t.regions k' = Map.find? s.regions k'))

/-- R228, R60, R153: a tick boundary completes and begins the next tick. Where the device holds no region, image, prefix entry, page
table or debt, and one core runs a context, the boundary debits that context 4,194,304 grains for each bound tile, 16,384 for each S
bank that is not OFF and 262,144 for each V0 and V1 bank that is not OFF.
Where the spec leaves a choice, the statement follows the model's: logs 75 and 89. -/
def Obligations.TickBoundary : Prop :=
  ∀ s : State, ∃ t, exec .tickBoundary s = .next t ∧ t.tick = s.tick + 1 ∧ t.now = s.now
    ∧ (∀ g c, s.regions = [] → s.images = [] → s.pxi = [] → s.cores = [(g, c)] → g < 256 → c.st = .running →
      (ctxAt s c.ctx).st ≠ .free → (∀ x ∈ s.ctxs, x.2.tables = [] ∧ x.2.debt = 0) →
      (ctxAt t c.ctx).alw = satAlw ((ctxAt s c.ctx).alw
        - (4194304 * c.pme.tiles.length + 16384 * ((List.range 2).filter (fun b => (getBank c .s b).st ≠ .off)).length
          + 262144 * (((List.range 4).filter (fun b => (getBank c .v0 b).st ≠ .off)).length
            + ((List.range 4).filter (fun b => (getBank c .v1 b).st ≠ .off)).length) : Nat)))

/-! ### Order and ownership (R243, R248, R255 to R260) -/

/-- R255, R256: FENCE completes and holds back what the engines of its class start later; on the slot, matrix and gather
classes, whose accesses keep their order, it changes nothing. FENCEX changes nothing.
Where the spec leaves a choice, the statement follows the model's: log 21. -/
def Obligations.Fences : Prop :=
  ∀ (p : Pred) (path rpath scope : BitVec 3) (s : State), predOn (core s) .s p = true →
    (∃ t, exec (.fence p path scope) s = .next t ∧ othersKept s t
      ∧ (core t).files = (core s).files ∧ (core t).sp = (core s).sp ∧ (core t).pend = (core s).pend ∧ (core t).csr = (core s).csr
      ∧ (path.toNat = 4 → (core t).coFence = (core s).eseq ∧ (core t).holds = (core s).holds)
      ∧ (path.toNat = 0 ∨ path.toNat = 2 ∨ path.toNat = 3 → core t = core s)
      ∧ (path.toNat = 1 ∨ path.toNat = 5 → core t = addHold 0xFF (decide (path.toNat = 5)) (core s)))
    ∧ exec (.fencex p path rpath scope) s = .next (updCore (killMarks .s []) s)

/-- The result of an ACQ or a REL: the EPOCH with the status above it, after 8 issue cycles (R257). -/
def Sys2Proof.Machine.Claims.acqAnswer (d : Reg) (e : BitVec 16) (st : Nat) (c : Core) : List Landing :=
  lands .s d (BitVec.ofNat 64 (e.toNat + st * 2 ^ 16)) 8 c

/-- The region of `t` at `key` is `r` with the phase word `w` and the rest as it was. -/
def Sys2Proof.Machine.Claims.phaseNow (t : State) (key : Nat) (r : Region) (w : Phase) : Prop :=
  ∃ x, Map.find? t.regions key = some x ∧ x.phase = w ∧ x.st = r.st ∧ x.size = r.size ∧ x.pu = r.pu ∧ x.owner = r.owner

/-- R257, R258: on a region of the context that is HELD or OVERDUE, with a legal request, ACQ.W takes an OPEN region for
the core, ACQ.R makes it SHARED-READ, and each advances the EPOCH; ACQ.T tells whether the phase would admit the core's
accesses, and ACQ.Q gives the phase word, and neither changes it; a region that another core holds exclusively answers ACQ.W
with status 1. Where no such region is named all of them, and REL, fault NO_RIGHT, and EXPIRY where it is neither HELD nor OVERDUE. -/
def Sys2Proof.Machine.Claims.AcquireResults : Prop :=
  ∀ (p : Pred) (d a b : Reg) (la lb : Bool) (s : State) (h q : Word),
    predOn (core s) .s p = true → rdX (core s) .s a = .ok h → rdX (core s) .s b = .ok q →
    (∀ key r, phaseTarget s h = .ok (key, r) → fld q 8 56 = 0 → fld q 2 6 ≠ 0 →
      (fld q 0 2 = 0 → r.phase.mode = 0 →
        (∃ t, exec (.acqW p d a la b lb) s = .next t
          ∧ phaseNow t key r { r.phase with mode := 2, hk := 0, holder := BitVec.ofNat 16 (coreNum s.cur), pmask := fld q 2 6
                                            epoch := r.phase.epoch + 1 }
          ∧ (core t).pend = (core s).pend ++ acqAnswer d (r.phase.epoch + 1) 0 (core s))
        ∧ (∃ t, exec (.acqR p d a la b lb) s = .next t
          ∧ phaseNow t key r { r.phase with mode := 1, pmask := fld q 2 6, epoch := r.phase.epoch + 1 }
          ∧ (core t).pend = (core s).pend ++ acqAnswer d (r.phase.epoch + 1) 0 (core s)))
      ∧ (fld q 0 2 = 0 → r.phase.mode = 2 → r.phase.hk = 0 → r.phase.holder ≠ BitVec.ofNat 16 (coreNum s.cur) →
        Map.find? s.regions key = some r →
        exec (.acqW p d a la b lb) s
          = .next (delivered .s (marksOf a la ++ marksOf b lb) (acqAnswer d r.phase.epoch 1) s))
      ∧ (fld q 0 2 = 1 ∨ fld q 0 2 = 2 → ∃ st t, exec (.acqT p d a la b lb) s = .next t ∧ (st = 0 ∨ st = 4)
        ∧ Map.find? t.regions key = some r ∧ (core t).pend = (core s).pend ++ acqAnswer d r.phase.epoch st (core s)
        ∧ (st = 0 ↔ ∀ x ∈ [Path.sl, .cp, .mx, .ga, .co, .lk], (fld q 2 6).getLsbD x.code = true →
            phaseAdmits s r.phase s.cur (if fld q 0 2 = 1 then .read else .write) x = true)))
    ∧ (∀ key r, phaseTarget s h = .ok (key, r) →
      exec (.acqQ p d a la) s = .next (delivered .s (marksOf a la) (lands .s d (phaseWord r.phase) 8) s)
      ∧ fld (phaseWord r.phase) 0 2 = r.phase.mode ∧ fld (phaseWord r.phase) 2 6 = r.phase.pmask
      ∧ fld (phaseWord r.phase) 8 2 = r.phase.hk ∧ fld (phaseWord r.phase) 10 16 = r.phase.holder
      ∧ fld (phaseWord r.phase) 26 16 = r.phase.epoch)
    ∧ (∀ i, i = .acqQ p d a la ∨ (acqLegal q = true ∧ i ∈ [Instr.acqW p d a la b lb, .acqR p d a la b lb])
        ∨ (acqTLegal q = true ∧ i = .acqT p d a la b lb) ∨ (relLegal (core s) q = true ∧ i = .rel p d a la b lb) →
      (namedRegion s h = none → exec i s = .next (takeTrap { code := 0x21, info := h } 0 false false s))
      ∧ (∀ key r, namedRegion s h = some (key, r) → r.owner = (core s).ctx → r.subl = none → r.st ≠ .held → r.st ≠ .overdue →
        exec i s = .next (takeTrap { code := 0x20, info := h } 0 false false s)))

/-- R256, R259, R260: REL with a legal target, by a core that may release the phase and has nothing in flight to the region,
completes with status 0: an unbound phase takes the target with the next EPOCH and no granule tags; a bound one keeps its
phase and waits with the target for the group's next phase change. A core that may not release it gets status 3. -/
def Sys2Proof.Machine.Claims.ReleaseResults : Prop :=
  ∀ (p : Pred) (d a b : Reg) (la lb : Bool) (s : State) (h q : Word) (key : Nat) (r : Region),
    predOn (core s) .s p = true → rdX (core s) .s a = .ok h → rdX (core s) .s b = .ok q →
    relLegal (core s) q = true → phaseTarget s h = .ok (key, r) →
    (mayRelease s r.phase s.cur = true → regionBusy s s.cur key r [.sl, .cp, .mx, .ga, .co, .lk] false = false →
      (fld q 8 2 ≠ 1 ∨ r.tagRes = true) →
      ∃ t, exec (.rel p d a la b lb) s = .next t
        ∧ (bound r.phase = false →
          phaseNow t key r { mode := fld q 0 2, pmask := fld q 2 6, hk := fld q 8 2, holder := fld q 10 16
                             epoch := r.phase.epoch + 1, pend := none }
          ∧ (∀ x, Map.find? t.regions key = some x → x.tags = [])
          ∧ (core t).pend = (core s).pend ++ acqAnswer d (r.phase.epoch + 1) 0 (core s))
        ∧ (bound r.phase = true → phaseNow t key r { r.phase with pend := some (fld q 0 26) }
          ∧ (core t).pend = (core s).pend ++ acqAnswer d r.phase.epoch 0 (core s)))
    ∧ (mayRelease s r.phase s.cur = false → Map.find? s.regions key = some r →
      exec (.rel p d a la b lb) s = .next (delivered .s (marksOf a la ++ marksOf b lb) (acqAnswer d r.phase.epoch 3) s))

/-- R256 to R260: ACQ in its four forms, and REL.
Where the spec leaves a choice, the statement follows the model's: log 52. -/
def Obligations.PhaseInstructions : Prop := AcquireResults ∧ ReleaseResults

/-! ### Barriers (R291, R296 to R300) -/

/-- The spec word of a barrier instruction is legal and names barrier `b` of the core's group `g`, which is not BROKEN (R298). -/
def Sys2Proof.Machine.Claims.barrierNamed (arm : Bool) (o : Opnd) (s : State) (v : Word) (g : BitVec 16) (b : BitVec 12) : Prop :=
  rdO (core s) .s o = .ok v ∧ fld v 23 41 = 0 ∧ (arm = false → fld v 14 9 = 0) ∧ b = fld v 0 12
    ∧ g = fld (core s).csr.dmr (16 * (fld v 12 2).toNat) 16 ∧ g ≠ 0 ∧ (groupAt s g).st ≠ .broken

/-- R298: BARM over a region that backs a barrier binds an unbound barrier, ARMED with the count of its spec word (0 stands for
the group's size), and answers FIRST; on a barrier bound with the same count and region it answers without FIRST and changes
nothing. The result, PH with the status and FIRST, lands after 8 issue cycles. A region that does not back it faults NO_RIGHT. R296, R298, R299: BARR by a member that has not arrived counts its arrival at once on the barrier's own die, the last one
making it RELEASING, and on another die sends it on its way; the result, PH with LAST, lands after 8 issue cycles. BTRY gives in a
predicate whether the core's last phase has been released. BWAIT passes once it has been, and until then the core is FROZEN
under cause 9. BALR, where every member lies on the core's die, arrives and is FROZEN under cause 9, and passes once the
barrier has been released. -/
def Sys2Proof.Machine.Claims.BarrierInstructions : Prop :=
  (∀ (p : Pred) (d a : Reg) (la : Bool) (o : Opnd) (s : State) (v h : Word) (g : BitVec 16) (b : BitVec 12) (n : Nat),
    predOn (core s) .s p = true → rdX (core s) .s a = .ok h → barrierNamed true o s v g b →
    n = (if (fld v 14 9).toNat = 0 then (membersOf s g).length else (fld v 14 9).toNat) →
    (backs s h = true → 0 < n → n ≤ (membersOf s g).length →
      (barrierAt s g b = none → (s.barriers.filter (fun x => x.die = homeDie s g)).length < 4096 →
        ∃ t x, exec (.barm p d a la o) s = .next t ∧ barrierAt t g b = some x ∧ x.st = .armed ∧ x.count = n ∧ x.arr = []
          ∧ x.backing = fld h 0 32
          ∧ (core t).pend = (core s).pend ++ lands .s d (BitVec.ofNat 64 ((groupAt s g).ph.toNat + 2 ^ 40)) 8 (core s)
          ∧ othersKept s t)
      ∧ (∀ x, barrierAt s g b = some x → x.st ≠ .broken → x.count = n → x.backing = fld h 0 32 →
        exec (.barm p d a la o) s = .next (delivered .s (marksOf a la ++ markO o)
          (lands .s d (BitVec.ofNat 64 (groupAt s g).ph.toNat) 8) s)))
    ∧ (backs s h = false → (∀ x, barrierAt s g b = some x → x.st ≠ .broken) →
      exec (.barm p d a la o) s = .next (takeTrap { code := 0x21, info := h } 0 false false s)))
  ∧ (∀ (p : Pred) (o : Opnd) (s : State) (v : Word) (g : BitVec 16) (b : BitVec 12) (x : Barrier),
    predOn (core s) .s p = true → barrierNamed false o s v g b → barrierAt s g b = some x → x.st ≠ .broken →
    (∀ d : Reg, hasArrived x (myNo s) = false → x.st = .armed →
      ∃ t y, exec (.barr p d o) s = .next t ∧ barrierAt t g b = some y ∧ hasArrived y (myNo s) = true
        ∧ (dieNo s.cur = x.die → y.arr = x.arr ++ [myNo s]
            ∧ y.st = (if x.arr.length + 1 = x.count then .releasing else .armed) ∧ y.last = s.now)
        ∧ (dieNo s.cur ≠ x.die → y.arr = x.arr ∧ y.remote = x.remote ++ [myNo s])
        ∧ (core t).pend = (core s).pend ++ lands .s d (BitVec.ofNat 64 ((groupAt s g).ph.toNat
            + (if x.arr.length + x.remote.length + 1 = x.count then 2 ^ 40 else 0))) 8 (core s)
        ∧ othersKept s t ∧ t.groups = s.groups)
    ∧ (∀ d : BitVec 3, exec (.btry p d o) s
        = .next (delivered .s (markO o) (predLands .s d.toNat (if released x (myNo s) then 1 else 0) 1 1) s))
    ∧ (∀ n, Map.find? x.arrivedAt (myNo s) = some n →
      (released x (myNo s) = true →
        exec (.bwait p o) s = .next (updCore (fun c => killMarks .s (markO o) { c with waitOn := none }) s))
      ∧ (released x (myNo s) = false → ∃ t, exec (.bwait p o) s = .next t ∧ (core t).st = .frozen
          ∧ (core t).csr.fcause.toNat = 9 ∧ (core t).waitOn = some (g, b) ∧ (core t).files = (core s).files))
    ∧ ((core s).waitOn = some (g, b) → released x (myNo s) = true →
      exec (.balr p o) s = .next (updCore (fun c => killMarks .s (markO o) { c with waitOn := none }) s))
    ∧ ((core s).waitOn = none → hasArrived x (myNo s) = false → x.st = .armed → dieNo s.cur = x.die →
      (∀ m ∈ membersOf s g, dieNo (memberAt m) = dieNo s.cur) →
      ∃ t y, exec (.balr p o) s = .next t ∧ barrierAt t g b = some y ∧ y.arr = x.arr ++ [myNo s]
        ∧ (core t).st = .frozen ∧ (core t).csr.fcause.toNat = 9 ∧ (core t).waitOn = some (g, b)))

/-- No region stands OVERDUE or LIENED, so that no region changes its state when waiters or liens leave (R234). -/
def Sys2Proof.Machine.Claims.quiet (s : State) : Prop := ∀ x ∈ s.regions, x.2.st ≠ .overdue ∧ x.2.st ≠ .liened

/-- Every core is as before, but for the collective operations that it holds. -/
def Sys2Proof.Machine.Claims.onlyColls (s t : State) : Prop := ∀ n, coreAt t n = { coreAt s n with colls := (coreAt t n).colls }

/-- R260, R291, R296, R297: in cycle T the barrier of a group that is not BROKEN releases: the group's phase count advances and COMPUTE and COMMUNICATE
change places, the barrier is armed again with no arrival, and every region bound to the group takes the next EPOCH with no
granule tag, or the target of a REL that waits. A BROKEN group changes its phase no more. An arrival from another die is counted when it reaches the home die, and a
release reaches a core of another die one at a time. -/
def Sys2Proof.Machine.Claims.BarrierReleases : Prop :=
  ∀ (s : State) (g : BitVec 16) (b : BitVec 12) (x : Barrier), barrierAt s g b = some x → quiet s →
    (∀ n, x.st = .releasing → x.rel = some n → n ≤ s.now → phaseDone s g = true → openSets s g = [] → (groupAt s g).st ≠ .broken →
      ∃ t y, exec (.barrierRelease g b) s = .next t ∧ barrierAt t g b = some y ∧ y.st = .armed ∧ y.arr = []
        ∧ y.phase = x.phase + 1 ∧ (groupAt t g).ph = (groupAt s g).ph + 1
        ∧ (groupAt t g).st = (if (groupAt s g).st = .compute then .communicate else .compute)
        ∧ (∀ k r, (k, r) ∈ s.regions → r.st ≠ .free → r.phase.mode ≠ 0 → r.phase.hk = 1 → r.phase.holder = g →
            ∃ r', (k, r') ∈ t.regions ∧ r'.phase.epoch = r.phase.epoch + 1 ∧ r'.tags = []
              ∧ (∀ q, r.phase.pend = some q → r'.phase.mode = fld q 0 2 ∧ r'.phase.holder = fld q 10 16))
        ∧ onlyColls s t)
    ∧ ((groupAt s g).st = .broken → ∃ t, exec (.barrierRelease g b) s = .next t ∧ groupAt t g = groupAt s g
        ∧ t.regions = s.regions ∧ t.cores = s.cores)
    ∧ (∀ m, x.remote.filter (fun m => memberAt m == s.cur) = [m] → x.st = .armed →
        ∃ t y, exec (.barrierRemoteArrival g b) s = .next t ∧ barrierAt t g b = some y
        ∧ y.arr = x.arr ++ [m] ∧ y.remote = x.remote.erase m ∧ y.last = s.now ∧ t.cores = s.cores)
    ∧ (dieNo s.cur ≠ x.die → Map.get x.seen (myNo s) 0 < x.phase → ∃ t y, exec (.barrierRemoteRelease g b) s = .next t
        ∧ barrierAt t g b = some y ∧ Map.get y.seen (myNo s) 0 = Map.get x.seen (myNo s) 0 + 1 ∧ y.phase = x.phase
        ∧ t.cores = s.cores)

/-- R260, R291, R296 to R299: the barrier instructions, and the release of a barrier.
Where the spec leaves a choice, the statement follows the model's: log 57. -/
def Obligations.BarrierResults : Prop := BarrierInstructions ∧ BarrierReleases

/-! ### Collectives (R135, R292 to R295) -/

/-- R293, R294: with fewer than four in flight, COLL in COMMUNICATE with a legal count and extents that are equal or apart, whose
accesses pass, and CSNAP, whose store passes, complete: the operation is in flight with its operands, CSNAP with the sums of
the replicas of the 256 counters, which it clears unless .K is given, for the snapshots of higher cores in the same cycle too; its bytes are due 8 copy-engine cycles later. R293 to R295: a due snapshot whose banks are FULL and whose access passes is written as 256 little-endian words and leaves
flight. A set that every member has joined, of equal op, format and count, runs once its banks are FULL and its accesses
pass; where the members' operations differ each ends with ILLEGAL_OP. When a running set completes, the destination of every
member holds the same bytes.
Where the spec leaves a choice, the statement follows the model's: log 59. -/
def Obligations.Collectives : Prop :=
  (∀ (u : CU) (p : Pred) (lvl : BitVec 2) (s : State) (g : BitVec 16),
    predOn (core s) u.slot p = true → collFlying s s.cur < 4 → g = fld (core s).csr.dmr (16 * lvl.toNat) 16 → g ≠ 0 →
    (∀ (i32 : Bool) (op : BitVec 2) (src dst cnt : Reg) (a b n : Word) (s1 s2 : State),
      rdX (core s) u.slot src = .ok a → rdX (core s) u.slot dst = .ok b → rdX (core s) u.slot cnt = .ok n →
      (groupAt s g).st = .communicate → 1 ≤ n.toNat → n.toNat ≤ 16384 →
      (a = b ∨ a.toNat + 4 * n.toNat ≤ b.toNat ∨ b.toNat + 4 * n.toNat ≤ a.toNat) →
      checkLocal .co .read a.toNat (4 * n.toNat) 64 s = .ok s1 → checkLocal .co .write b.toNat (4 * n.toNat) 64 s1 = .ok s2 →
      ∃ t o, exec (.coll u p i32 op lvl src dst cnt) s = .next t ∧ (core t).colls = (core s).colls ++ [o]
        ∧ o.g = g ∧ o.op = op ∧ o.i32 = i32 ∧ o.cnt = n.toNat ∧ o.src = a.toNat ∧ o.dst = b.toNat ∧ o.slot = u.slot
        ∧ o.k = Map.get (groupAt s g).joined (myNo s) 0
        ∧ Map.get (groupAt t g).joined (myNo s) 0 = Map.get (groupAt s g).joined (myNo s) 0 + 1
        ∧ (core t).sp = (core s).sp ∧ (core t).pend = (core s).pend ∧ othersKept s t)
    ∧ (∀ (a : Reg) (keep : Bool) (ad : Word) (s1 : State), rdX (core s) u.slot a = .ok ad → (groupAt s g).st ≠ .broken →
      checkLocal .co .write ad.toNat 1024 64 s = .ok s1 →
      ∃ t o, exec (.csnap u p lvl a keep) s = .next t ∧ (core t).snaps = (core s).snaps ++ [o]
        ∧ o.g = g ∧ o.addr = ad.toNat ∧ o.slot = u.slot ∧ o.due = s.now + 8 * divisor (core s) u.slot
        ∧ ((∀ x ∈ s.cores, ∀ o' ∈ x.2.snaps, o'.g = g → o'.born ≠ s.now) → othersKept s t ∧ o.words.length = 256
          ∧ ((groupAt s g).incs = [] → ∀ i < 256, o.words[i]? = some (Map.get (groupAt s g).ctrs i 0
            + Map.get (groupAt s g).ctrs (256 + i) 0 + Map.get (groupAt s g).ctrs (512 + i) 0
            + Map.get (groupAt s g).ctrs (768 + i) 0)))
        ∧ (keep = false → (∀ x ∈ s.cores, ∀ o' ∈ x.2.snaps, o'.g = g → o'.born = s.now → o'.fresh = []) →
          (groupAt t g).ctrs = [] ∧ ∀ n o', s.cur < n → o' ∈ (coreAt t n).snaps → o'.g = g → o'.born = s.now →
            o'.words = List.replicate 256 0)
        ∧ (core t).sp = (core s).sp ∧ (core t).pend = (core s).pend))
  ∧ (∀ s : State,
    (∀ o s1, dueSnap s = some o → banksFull (core s) o.addr 1024 = true → Memory.wf (core s).sp.mem = true →
      o.words.length = 256 → holding (core s) = true → s.cur < 512 →
      collCheck o.born (core s).ctx s.cur .write o.addr 1024 s = .ok s1 →
      ∃ t, exec .csnapVisible s = .next t ∧ o ∉ (core t).snaps
        ∧ ∀ i < 256, ∀ w, o.words[i]? = some w → Memory.readLE (core t).sp.mem (o.addr + 4 * i) 4 = w.toNat)
    ∧ (∀ (g : BitVec 16) (k : Nat), setJoined s g k = true → k ∉ (groupAt s g).ran →
      (∀ x ∈ setOps s g k, collHeld s (memberAt x.1) (memberCore s x.1) x.2.after = false) →
      (∀ t1, setDiffers (setOps s g k) = false → setReady (setOps s g k) s = true → checkSet g (setOps s g k) 0 s = .ok t1 →
        ∃ t, exec (.collSetRun g k) s = .next t ∧ (groupAt t g).ran = (groupAt t1 g).ran ++ [k] ∧ t.cores = t1.cores)
      ∧ (setDiffers (setOps s g k) = true →
        exec (.collSetRun g k) s = .next (endSet g k (some setIllegal) s)))
    ∧ (∀ (g : BitVec 16) (k : Nat) (t1 : State), setJoined s g k = true → k ∈ (groupAt s g).ran →
      checkSet g (setOps s g k) 0 s = .ok t1 → (setOps s g k).Pairwise (fun x y => memberAt x.1 ≠ memberAt y.1) →
      (∀ c ∈ t1.cores, Memory.wf c.2.sp.mem = true) →
      ∃ t, exec (.collSetComplete g k) s = .next t ∧ k ∉ (groupAt t g).ran
        ∧ ∀ x ∈ setOps s g k, Memory.readBytes (coreAt t (memberAt x.1)).sp.mem x.2.dst (setResult t1 (setOps s g k)).length
            = setResult t1 (setOps s g k)))

/-! ### Message queues and graph nodes (R273 to R279, R287) -/

/-- The result word of the queue instructions: VAL, the status ST and CLAMP (R279). -/
def Sys2Proof.Machine.Claims.queueResult (val st : Nat) (clamp : Bool) : Word :=
  BitVec.ofNat 64 (val % 2 ^ 32 + st * 2 ^ 32 + (if clamp then 2 ^ 40 else 0))

/-- R273, R279: QPUT on an outbound queue sends the 64 bytes to the host; on a queue with room it appends them at the tail, and
on a full one it answers FULL and changes nothing. QTAKE writes the head message to scratchpad and answers how many are
left; on an empty queue it answers EMPTY, and with .W makes a fit node the waiter, or answers BUSY where there is a waiter or
the node is not fit. Results land after 32 issue cycles. A queue that is absent, another context's or of the wrong direction
faults QUEUE with its id, and so does id 0; reserved bits of QTAKE's s[a] fault ILLEGAL_OP.
Where the spec leaves a choice, the statement follows the model's: log 31. -/
def Obligations.QueueMessages : Prop :=
  (∀ (p : Pred) (d a b : Reg) (la lb w : Bool) (s : State) (x y : Word),
    predOn (core s) .s p = true → rdX (core s) .s a = .ok x → rdX (core s) .s b = .ok y →
    let qid := (fld x 0 16).toNat
    let bad := fun dir : BitVec 2 => qid = 0 ∨ Map.find? s.queues qid = none
      ∨ ∃ q, Map.find? s.queues qid = some q ∧ (q.owner ≠ (core s).ctx ∨ q.dir = dir)
    (bad 0 → exec (.qput p d a la b lb) s = .next (slotFault .s (exc 0x29 (BitVec.ofNat 64 qid)) s))
    ∧ (bad 1 → exec (.qtake p d a la b lb w) s = .next (slotFault .s (exc 0x29 (BitVec.ofNat 64 qid)) s))
    ∧ (¬ bad 1 → fld x 48 16 ≠ 0 → exec (.qtake p d a la b lb w) s = .next (slotFault .s (illegalOp s) s)))
  ∧ ∀ (p : Pred) (d a b : Reg) (la lb : Bool) (s : State) (x y : Word) (qid : Nat) (q : MQueue),
    predOn (core s) .s p = true → rdX (core s) .s a = .ok x → rdX (core s) .s b = .ok y → qid = (fld x 0 16).toNat → qid ≠ 0 →
    Map.find? s.queues qid = some q → q.owner = (core s).ctx →
    (∀ msg s1, q.dir ≠ 0 → read64 y.toNat s = .ok (msg, s1) →
      (q.dir = 1 → ∃ t, exec (.qput p d a la b lb) s = .next t
        ∧ t.link.out = s.link.out ++ [{ type := 0x01, ctx := q.owner, queue := BitVec.ofNat 16 qid, seq := s.link.seq, payload := msg }]
        ∧ (core t).pend = (core s).pend ++ lands .s d (queueResult 0 0 false) 32 (core s))
      ∧ (∀ base, q.dir ≠ 1 → queueBase s q = some base → queueCount q < q.slots → Memory.wf s.dram.hbm = true →
        ∃ t q', exec (.qput p d a la b lb) s = .next t ∧ Map.find? t.queues qid = some q' ∧ q'.tail = q.tail + 1 ∧ q'.head = q.head
          ∧ Memory.readBytes t.dram.hbm (base + 64 * (q.tail.toNat % q.slots)) 64 = msg
          ∧ (core t).pend = (core s).pend ++ lands .s d (queueResult 0 0 false) 32 (core s))
      ∧ (q.dir ≠ 1 → q.slots ≤ queueCount q → exec (.qput p d a la b lb) s
          = .next (delivered .s (marksOf a la ++ marksOf b lb) (lands .s d (queueResult 0 1 false) 32) s1)))
    ∧ (∀ (w : Bool) (s1 : State), q.dir ≠ 1 → fld x 48 16 = 0 → checkLocal .sl .write y.toNat 64 64 s = .ok s1 →
      (∀ msg, headMsg s q = some msg → Memory.wf (core s).sp.mem = true →
        ∃ t, exec (.qtake p d a la b lb w) s = .next t ∧ Map.find? t.queues qid = some { q with head := q.head + 1 }
          ∧ Memory.readBytes (core t).sp.mem y.toNat 64 = msg
          ∧ (core t).pend = (core s).pend ++ lands .s d (queueResult (queueCount q - 1) 0 false) 32 (core s))
      ∧ (headMsg s q = none →
        (w = false → exec (.qtake p d a la b lb w) s
          = .next (delivered .s (marksOf a la ++ marksOf b lb) (lands .s d (queueResult 0 2 false) 32) s))
        ∧ (w = true → q.waiter = none → canWait s (core s).ctx qid (fld x 16 32) = true →
          exec (.qtake p d a la b lb w) s = .next (delivered .s (marksOf a la ++ marksOf b lb)
            (lands .s d (queueResult 0 2 false) 32) (setQueue qid { q with waiter := some (fld x 16 32) } s)))
        ∧ (w = true → q.waiter ≠ none ∨ canWait s (core s).ctx qid (fld x 16 32) = false → exec (.qtake p d a la b lb w) s
          = .next (delivered .s (marksOf a la ++ marksOf b lb) (lands .s d (queueResult 0 3 false) 32) s))))

/-- R274, R275, R279, R287: GNEW with a legal descriptor and a FREE entry makes a BUILT node of the context without
predecessors, its priority lowered to the context's CEIL with CLAMP, and answers its id; without a FREE entry it answers FULL.
a kernel of more than one die in QUICKSET answers LIMIT, and reserved bits or an illegal descriptor fault ILLEGAL_OP. LAUNCH
makes a kernel node READY at once. GDEP adds an edge and raises the successor's count; where the successor is stale or not
BUILT it answers STATE, where the predecessor is stale, GONE, and at the bound on either count, LIMIT. GARM arms a BUILT node:
with predecessors it is ARMED, without them READY, or as an event node WAITING, or DONE where its word has reached the target;
a node that is not BUILT answers STATE. Results land after 16 issue cycles.
Where the spec leaves a choice, the statement follows the model's: logs 15, 32 and 49. -/
def Obligations.GraphNodes : Prop :=
  ∀ (p : Pred) (d a b : Reg) (la lb : Bool) (s : State) (x y : Word),
    predOn (core s) .s p = true → rdX (core s) .s a = .ok x → rdX (core s) .s b = .ok y →
    (∀ bs s1 (k : BitVec 2), fld y 10 54 = 0 → read64 x.toNat s = .ok (bs, s1) → k ≠ 3 →
      (descOk (kindOf k) (descWords bs) = false → exec (.gnew p d a la b lb k) s = .next (slotFault .s (illegalOp s) s))
      ∧ (descOk (kindOf k) (descWords bs) = true → tooWide s (kindOf k) (descWords bs) = true → exec (.gnew p d a la b lb k) s
          = .next (delivered .s (marksOf a la ++ marksOf b lb) (lands .s d (queueResult 0 6 false) 16) s1))
      ∧ (descOk (kindOf k) (descWords bs) = true → tooWide s (kindOf k) (descWords bs) = false →
      (∀ key, pickFree s (nodeFree s) 0 65536 = some key →
        (∃ t n, exec (.gnew p d a la b lb k) s = .next t ∧ Map.find? t.nodes key = some n
          ∧ n.st = .built ∧ n.kind = kindOf k ∧ n.owner = (core s).ctx ∧ n.cnt = 0 ∧ n.succ = [] ∧ n.desc = descWords bs
          ∧ n.prio.toNat = min (fld y 0 8).toNat (myCtx s).ceil.toNat ∧ n.skip = y.getLsbD 8 ∧ n.pre = y.getLsbD 9
          ∧ (core t).pend = (core s).pend ++ lands .s d
              (queueResult (nodeId key n).toNat 0 (decide ((myCtx s).ceil.toNat < (fld y 0 8).toNat))) 16 (core s))
        ∧ (k = 0 → ∃ t n, exec (.launch p d a la b lb) s = .next t ∧ Map.find? t.nodes key = some n
          ∧ n.st = .ready ∧ n.ready = s.now ∧ n.kind = .kernel ∧ n.desc = descWords bs
          ∧ (core t).pend = (core s).pend ++ lands .s d
              (queueResult (nodeId key n).toNat 0 (decide ((myCtx s).ceil.toNat < (fld y 0 8).toNat))) 16 (core s)))
      ∧ (pickFree s (nodeFree s) 0 65536 = none → exec (.gnew p d a la b lb k) s
          = .next (delivered .s (marksOf a la ++ marksOf b lb) (lands .s d (queueResult 0 1 false) 16) s1))))
    ∧ (fld y 10 54 ≠ 0 → ∀ k : BitVec 2, exec (.gnew p d a la b lb k) s = .next (slotFault .s (illegalOp s) s))
    ∧ (∀ kb m, myNode s y = some (kb, m) → m.st = .built →
      (∀ ka n, myNode s x = some (ka, n) → ka ≠ kb → m.cnt < 65535 → n.succ.length < 64 →
        ∃ t, exec (.gdep p d a la b lb) s = .next t ∧ Map.find? t.nodes kb = some { m with cnt := m.cnt + 1 }
          ∧ Map.find? t.nodes ka = some { n with succ := n.succ ++ [nodeId kb m] }
          ∧ (core t).pend = (core s).pend ++ lands .s d (queueResult 0 0 false) 16 (core s))
      ∧ (∀ ka n, myNode s x = some (ka, n) → m.cnt = 65535 ∨ n.succ.length = 64 → exec (.gdep p d a la b lb) s
          = .next (delivered .s (marksOf a la ++ marksOf b lb) (lands .s d (queueResult 0 6 false) 16) s))
      ∧ (myNode s x = none → exec (.gdep p d a la b lb) s
          = .next (delivered .s (marksOf a la ++ marksOf b lb) (lands .s d (queueResult 0 4 false) 16) s)))
    ∧ (myNode s y = none ∨ (∃ kb m, myNode s y = some (kb, m) ∧ m.st ≠ .built) → exec (.gdep p d a la b lb) s
        = .next (delivered .s (marksOf a la ++ marksOf b lb) (lands .s d (queueResult 0 5 false) 16) s))
    ∧ (∀ k n, myNode s x = some (k, n) → n.st = .built →
      (0 < n.cnt → ∃ t, exec (.garm p d a la) s = .next t ∧ Map.find? t.nodes k = some { n with st := .armed }
        ∧ (core t).pend = (core s).pend ++ lands .s d (queueResult 0 0 false) 16 (core s))
      ∧ (n.cnt = 0 → n.kind ≠ .event → ∃ t n', exec (.garm p d a la) s = .next t ∧ Map.find? t.nodes k = some n'
        ∧ n'.st = .ready ∧ n'.ready = s.now
        ∧ (core t).pend = (core s).pend ++ lands .s d (queueResult 0 0 false) 16 (core s))
      ∧ (n.cnt = 0 → n.kind = .event → ∃ t n', exec (.garm p d a la) s = .next t ∧ Map.find? t.nodes k = some n'
        ∧ (wordReached s n = false → n' = { n with st := .waiting })
        ∧ (wordReached s n = true → n.succ = [] → n'.st = .free ∧ n'.gen = n.gen + 1)
        ∧ (core t).pend = (core s).pend ++ lands .s d (queueResult 0 0 false) 16 (core s)))
    ∧ (myNode s x = none ∨ (∃ k n, myNode s x = some (k, n) ∧ n.st ≠ .built) → exec (.garm p d a la) s
        = .next (delivered .s (marksOf a la) (lands .s d (queueResult 0 5 false) 16) s))

/-! ### Contexts (R42, R261 to R264, R269 to R271) -/

/-- R271: on a control core, with true predicate, readable operands and reserved bits of zero, the operations of CTXCTL complete and
status lands in bits [39:32] after 8 issue cycles: NEW makes a FREE id LIVE; GRANT adds to the allowance, which
the checks of the same cycle do not see yet, SETTIER sets tier and
CEIL, and ROOT the table root of a context that is neither FREE nor ENDING; SAVE begins the save of a core that runs; RESUME
begins the restore of an IDLE core from its image; END takes the context to ENDING and drops its images, but without KILL none that a core reads back; QUERY reads. NEW answers 1 for an id that is not FREE and 4
for a negative allowance; the others answer 1 on a FREE context and, but for QUERY, 2 on an ENDING one; SAVE answers 3 for a
core that does not run, 2 for one of an ENDING context, and 5 without space in HBM; RESUME answers 3 for a core that is not IDLE,
4 where the allowance is negative, and 6 without an image. Reserved bits fault ILLEGAL_OP.
Where the spec leaves a choice, the statement follows the model's: logs 11, 47 and 55. -/
def Obligations.ContextControl : Prop :=
  ∀ (p : Pred) (d a b : Reg) (s : State) (x y : Word) (id : BitVec 12),
    256 ≤ s.cur → predOn (core s) .s p = true → rdX (core s) .s a = .ok x → rdX (core s) .s b = .ok y → id = fld x 0 12 →
    let answers := fun k : Nat => (.next (delivered .s [] (lands .s d (BitVec.ofNat 64 (k * 2 ^ 32)) 8) s) : Out)
    (fld x 12 4 = 0 → fld x 42 22 = 0 → (ctxAt s id).st = .free → id ≠ 0xFFF → y.toNat < 2 ^ 63 →
      ∃ t, exec (.ctxctlNew p d a b) s = .next t
        ∧ ctxAt t id = { st := .live, alw := y.toNat, tier := fld x 32 2, ceil := fld x 34 8
                         htlen := (fld x 16 16).toNat + 1, key := Config.ctxKey s.ctr }
        ∧ (core t).pend = (core s).pend ++ lands .s d 0 8 (core s) ∧ othersKept s t)
    ∧ (∀ i ∈ [Instr.ctxctlGrant p d a b, .ctxctlSettier p d a b, .ctxctlRoot p d a b, .ctxctlEnd p d a b],
      (ctxAt s id).st = .free ∨ (ctxAt s id).st = .ending → fld x 12 52 = 0 →
      (y = 0 ∨ i = .ctxctlGrant p d a b ∨ (y = 1 ∧ i = .ctxctlEnd p d a b)) →
      exec i s = answers (if (ctxAt s id).st = .free then 1 else 2))
    ∧ (fld x 12 4 = 0 → fld x 42 22 = 0 →
      ((ctxAt s id).st ≠ .free → exec (.ctxctlNew p d a b) s = answers 1)
      ∧ ((ctxAt s id).st = .free → id ≠ 0xFFF → 2 ^ 63 ≤ y.toNat → exec (.ctxctlNew p d a b) s = answers 4))
    ∧ (∀ i ∈ [Instr.ctxctlGrant p d a b, .ctxctlSettier p d a b, .ctxctlRoot p d a b, .ctxctlEnd p d a b, .ctxctlQuery p d a b],
      fld x 12 52 ≠ 0 → exec i s = .next (slotFault .s (illegalOp s) s))
    ∧ (∀ g, g = 8 * (s.cur - 256) + (fld x 0 3).toNat → fld x 3 61 = 0 →
      (y = 0 →
        ((coreAt s g).st ∉ [CoreSt.running, .frozen, .trapped] → exec (.ctxctlSave p d a b) s = answers 3)
        ∧ ((coreAt s g).st ∈ [CoreSt.running, .frozen, .trapped] →
          ((ctxAt s (coreAt s g).ctx).st = .ending → exec (.ctxctlSave p d a b) s = answers 2)
          ∧ ((ctxAt s (coreAt s g).ctx).st ≠ .ending → hbmCapacity s < hbmUsed s + 69632 →
            exec (.ctxctlSave p d a b) s = answers 5)))
      ∧ (fld y 12 52 = 0 → (ctxAt s (fld y 0 12)).st ∈ [CtxSt.live, .active, .parked] →
        ((coreAt s g).st ≠ .idle → exec (.ctxctlResume p d a b) s = answers 3)
        ∧ ((coreAt s g).st = .idle → alwSeen s (fld y 0 12) < 0 → exec (.ctxctlResume p d a b) s = answers 4)
        ∧ ((coreAt s g).st = .idle → 0 ≤ alwSeen s (fld y 0 12) → imageFor s g (fld y 0 12) = none →
          exec (.ctxctlResume p d a b) s = answers 6)))
    ∧ (fld x 12 52 = 0 → (ctxAt s id).st = .live ∨ (ctxAt s id).st = .active ∨ (ctxAt s id).st = .parked →
      (∃ t, exec (.ctxctlGrant p d a b) s = .next t
        ∧ ctxAt t id = { ctxAt s id with alw := max (-2 ^ 63) (min ((ctxAt s id).alw + y.toInt) (2 ^ 63 - 1)), granted := (ctxAt t id).granted }
        ∧ alwSeen t id = alwSeen s id
        ∧ (core t).pend = (core s).pend ++ lands .s d 0 8 (core s))
      ∧ (fld y 10 54 = 0 → ∃ t, exec (.ctxctlSettier p d a b) s = .next t
        ∧ ctxAt t id = { ctxAt s id with tier := fld y 0 2, ceil := fld y 2 8 }
        ∧ (core t).pend = (core s).pend ++ lands .s d 0 8 (core s))
      ∧ (fld y 0 14 = 0 → fld y 56 8 = 0 → ∃ t, exec (.ctxctlRoot p d a b) s = .next t
        ∧ ctxAt t id = { ctxAt s id with root := fld y 0 56, tables := (ctxAt t id).tables }
        ∧ (core t).pend = (core s).pend ++ lands .s d 0 8 (core s))
      ∧ (fld y 1 63 = 0 → ∃ t, exec (.ctxctlEnd p d a b) s = .next t ∧ (ctxAt t id).st = .ending
        ∧ (∀ i ∈ t.images, i.ctx = id → y.getLsbD 0 = false ∧ readBack s i = true)
        ∧ (core t).pend = (core s).pend ++ lands .s d 0 8 (core s)))
    ∧ (fld x 12 52 = 0 → fld y 1 63 = 0 →
      exec (.ctxctlQuery p d a b) s = .next (delivered .s [] (lands .s d (queryWord s x y) 8) s)
      ∧ ((ctxAt s id).st = .free → queryWord s x y = BitVec.ofNat 64 (1 * 2 ^ 32))
      ∧ ((ctxAt s id).st ≠ .free → y.getLsbD 0 = true → queryWord s x y = BitVec.ofInt 64 (ctxAt s id).alw)
      ∧ ((ctxAt s id).st ≠ .free → y.getLsbD 0 = false → (fld (queryWord s x y) 0 3).toNat = (ctxAt s id).st.code
          ∧ fld (queryWord s x y) 3 2 = (ctxAt s id).tier ∧ fld (queryWord s x y) 5 8 = (ctxAt s id).ceil))
    ∧ (∀ g, g = 8 * (s.cur - 256) + (fld x 0 3).toNat → g < 256 → fld x 3 61 = 0 →
      (y = 0 → (coreAt s g).st = .running ∨ (coreAt s g).st = .frozen ∨ (coreAt s g).st = .trapped → (ctxAt s (coreAt s g).ctx).st ≠ .ending → hbmUsed s + 69632 ≤ hbmCapacity s →
        ((coreAt s g).drain = none ∧ (coreAt s g).resume = none) ∨ (coreAt s g).trap ≠ none →
        ∃ t, exec (.ctxctlSave p d a b) s = .next t ∧ (coreAt t g).st = .saving ∧ (coreAt t g).save = some .handler
          ∧ (coreAt t g).files = (coreAt s g).files ∧ (core t).pend = (core s).pend ++ lands .s d 0 8 (core s))
      ∧ (∀ i, fld y 12 52 = 0 → (coreAt s g).st = .idle → 0 ≤ alwSeen s (fld y 0 12) →
        (ctxAt s (fld y 0 12)).st = .live ∨ (ctxAt s (fld y 0 12)).st = .active ∨ (ctxAt s (fld y 0 12)).st = .parked →
        imageFor s g (fld y 0 12) = some i →
        ∃ t, exec (.ctxctlResume p d a b) s = .next t ∧ (coreAt t g).st = .loading ∧ (coreAt t g).restore = true
          ∧ (coreAt t g).ctx = i.ctx ∧ (core t).pend = (core s).pend ++ lands .s d 0 8 (core s)))

/-- R263, R264, R269, R270: CTXSW on a compute core commits, and the core saves when its bundle has ended; on a control core it faults ILLEGAL_OP. A save that waits for nothing
ends with an image of the core and the core IDLE without a context. A restore gives the core back its registers, loops and PC
from the image, which is released. An ENDING context that no core holds becomes FREE, its images and queues are gone, and the
host gets the final account.
Where the spec leaves a choice, the statement follows the model's: logs 34, 53, 55, 58 and 90. -/
def Obligations.SavesAndRestores : Prop :=
  ∀ (s : State),
    (∀ p, predOn (core s) .s p = true → s.cur < 256 →
      exec (.ctxsw p) s = .next (updCore (fun c => { c with bun := { c.bun with yields := true } }) s))
    ∧ (∀ p, predOn (core s) .s p = true → 256 ≤ s.cur → exec (.ctxsw p) s = .next (slotFault .s (illegalOp s) s))
    ∧ (∀ c : Core, c.inEnd = false → c.bun.yields = true → ∀ s1, s1 = setCore s c → (core (endBundle s1)).save = some .yield)
    ∧ ((core s).st = .saving → saveReady s = true → (core s).snaps = [] → (core s).mirrorQ = [] →
      ∃ t i, exec .saveComplete s = .next t ∧ (core t).st = .idle ∧ (core t).ctx = 0
        ∧ i ∈ t.images ∧ i.core = s.cur ∧ i.ctx = (core s).ctx ∧ i.node = (core s).node
        ∧ i.saved.files = (core s).files ∧ i.saved.pc = (core s).pc ∧ i.saved.loops = (core s).loops
        ∧ i.saved.br = (core s).br ∧ (core t).sp = (core s).sp ∧ (core t).istore = (core s).istore)
    ∧ (∀ i, (core s).st = .loading → (core s).restore = true → s.images.find? (fun i => i.core == s.cur && i.ctx == (core s).ctx && i.node == (core s).node) = some i → i.trapped = false →
      ∃ t, exec .restoreComplete s = .next t ∧ (core t).st = .running ∧ (core t).files = i.saved.files
        ∧ (core t).pc = i.saved.pc ∧ (core t).loops = i.saved.loops ∧ (core t).br = i.saved.br
        ∧ (core t).sp = (core s).sp ∧ (core t).istore = (core s).istore ∧ t.images = s.images.filter (fun m => m != i))
    ∧ (∀ id : BitVec 12, (ctxAt s id).st = .ending → holders s id = [] →
      ∃ t, exec (.contextFree id) s = .next t ∧ ctxAt t id = {}
        ∧ (∀ i ∈ t.images, i.ctx ≠ id) ∧ (∀ q ∈ t.queues, q.2.owner ≠ id)
        ∧ ∃ m ∈ t.link.out, m.type = 0x05 ∧ m.ctx = id)

/-! ### The vector slots (R88 to R136) -/

/-- Element `i` of `n` bits of a vector register (R89). -/
def Sys2Proof.Machine.Claims.el (n : Nat) (v : VWord) (i : Nat) : Nat := v.toNat / 2 ^ (n * i) % 2 ^ n

/-- The bits of the selected mask that govern elements of `n` bits: a 64-bit element follows its lower lane (R111). -/
def Sys2Proof.Machine.Claims.governs (n : Nat) (m : Word) : Word := if n = 64 then m &&& 0x5555555555555555 else m

/-- A vector result on its way to `d`, `lat` engine cycles after issue (R25, R50). -/
def Sys2Proof.Machine.Claims.vresult (w : VU) (d : Reg) (bits mask : VWord) (tag : BitVec 6) (dw : BitVec 2) (lat : Nat) (c : Core) :
    Landing :=
  { due := c.csr.cyc + lat * divisor c w.slot, born := c.csr.cyc, src := w.slot, file := w.slot, isPred := false
    reg := d.toNat, bits := bits, mask := mask, tag := tag, dw := dw, arrival := false }

/-- `i` completes with a result of elements of `n` bits for `d`: the governed lanes of it are written, element `k` as `e k`, with
the tag and the digit width; where no lane is governed nothing is written. The marks `ms` take effect and the rest of `s` is
unchanged but for the state `s1` that the instruction's own checks leave (R91, R111). -/
def Sys2Proof.Machine.Claims.gives (w : VU) (p : Pred) (d : Reg) (ms : List Reg) (tag : BitVec 6) (dw : BitVec 2) (n lat : Nat)
    (e : Nat → Nat) (i : Instr) (s s1 : State) : Prop :=
  let m := governs n (selMask (core s) w.slot p)
  (m = 0 → exec i s = .next (delivered w.slot ms (fun _ => []) s1))
  ∧ (m ≠ 0 → ∃ bits mask : VWord,
      exec i s = .next (delivered w.slot ms (fun c => [vresult w d bits mask tag dw lat c]) s1)
      ∧ (∀ k < 2048, mask.getLsbD k = (selMask (core s) w.slot p).getLsbD (if n = 64 then 2 * (k / 64) else k / 32))
      ∧ (∀ k < 2048 / n, el n bits k = e k % 2 ^ n))

/-- `i` completes with a lane-mask result for `d`: bit `k` of the selected lanes is `f k`; nothing else changes (R115, R120). -/
def Sys2Proof.Machine.Claims.givesMask (w : VU) (p : Pred) (d : BitVec 3) (ms : List Reg) (lat : Nat) (f : Nat → Bool) (i : Instr)
    (s : State) : Prop :=
  ∃ v : Word, (∀ k < 64, v.getLsbD k = f k)
    ∧ exec i s = .next (delivered w.slot ms
        (fun c => if selMask (core s) w.slot p = 0 then [] else predLands w.slot d.toNat v (selMask (core s) w.slot p) lat c) s)

/-- minimumNumber, or maximumNumber with `gt` (R96): the other operand of a NaN, −0 below +0. -/
def Sys2Proof.Machine.Claims.extremum (gt : Bool) (F : Fmt) (x y : Nat) : Nat :=
  if (F.read x).isNan then (if (F.read y).isNan then F.nan else y)
  else if (F.read y).isNan then x
  else if (if gt then (F.read x).below (F.read y) else (F.read y).below (F.read x)) then y else x

/-- The two-operand float instructions with their elements and latencies (R114): the exact result rounded once. -/
def Sys2Proof.Machine.Claims.floatOps (rtz : Bool) :
    List ((VU → Pred → Reg → Reg → Bool → Reg → Bool → Instr) × (Fmt → Nat → Nat → Nat) × Nat) :=
  let m : Mode := if rtz then .rtz else .rne
  [(fun u p d a la b lb => .vadd u p d a la b lb rtz, fun F x y => F.round m false ((F.read x).add (F.read y)), 3),
   (fun u p d a la b lb => .vsub u p d a la b lb rtz, fun F x y => F.round m false ((F.read x).add (F.read y).neg), 3),
   (fun u p d a la b lb => .vmul u p d a la b lb rtz, fun F x y => F.round m false ((F.read x).mul (F.read y)), 4),
   (.vmin, extremum false, 3), (.vmax, extremum true, 3)]

/-- The one-operand float instructions of the tag family F (R117, R122): the faithful functions give one of the two neighbours of
the exact value, which `up` tells. -/
def Sys2Proof.Machine.Claims.floatUnaryOps (up : Bool) :
    List ((VU → Pred → Reg → Reg → Bool → Instr) × (Fmt → Nat → Nat) × Nat) :=
  [(.vrcp, fun F x => F.rcp up (F.read x), 8), (.vrsq, fun F x => F.rsq up (F.read x), 8),
   (.vexp2, fun F x => F.exp2 up (F.read x), 8), (.vlog2, fun F x => F.log2 up (F.read x), 8)]

/-- The value of an integer element of a tag (R102). -/
def Sys2Proof.Machine.Claims.intValue (t x : Nat) : Int :=
  if t = 11 ∨ x % 2 ^ elemBits t < 2 ^ (elemBits t - 1) then ((x % 2 ^ elemBits t : Nat) : Int)
  else ((x % 2 ^ elemBits t : Nat) : Int) - 2 ^ elemBits t

/-- An integer clamped to the range of an integer tag, as bits (R102). -/
def Sys2Proof.Machine.Claims.clamped (t : Nat) (v : Int) : Nat :=
  let lo : Int := if t = 11 then 0 else -(2 ^ (elemBits t - 1))
  let hi : Int := if t = 11 then 255 else 2 ^ (elemBits t - 1) - 1
  (max lo (min v hi) % 2 ^ elemBits t).toNat

/-- The two-operand integer instructions with their elements (R118). -/
def Sys2Proof.Machine.Claims.integerOps : List ((VU → Pred → Reg → Reg → Bool → Reg → Bool → Instr) × (Nat → Nat → Nat → Nat)) :=
  [(.viadd, fun _ x y => x + y), (.visub, fun t x y => x + (2 ^ elemBits t - y)), (.vimul, fun _ x y => x * y),
   (.viadds, fun t x y => clamped t (intValue t x + intValue t y)),
   (.visubs, fun t x y => clamped t (intValue t x - intValue t y)),
   (.vimin, fun t x y => if intValue t x ≤ intValue t y then x else y),
   (.vimax, fun t x y => if intValue t x ≤ intValue t y then y else x),
   (.vshl, fun t x y => x * 2 ^ (y % elemBits t)), (.vshr, fun t x y => x / 2 ^ (y % elemBits t)),
   (.vsra, fun t x y => (intValue t x / 2 ^ (y % elemBits t) % 2 ^ elemBits t).toNat)]

/-- R91, R109 to R114, R117, R118, R122: on sources of one tag of the family each arithmetic instruction of the vector slots
completes: every governed element is the element operation of the sources' elements, floats rounded once, integers modulo
their width, with the tag of a, after its latency. A first source whose tag is not of the family, or a second one of another tag
than the first, faults FORMAT_TAG with the register and its tag as INFO.
Where the spec leaves a choice, the statement follows the model's: log 7. -/
def Obligations.VectorArithmeticResults : Prop :=
  ∀ (w : VU) (p : Pred) (d a b : Reg) (la lb : Bool) (s : State) (x y : VReg),
    rdV (core s) w.slot a = .ok x → rdV (core s) w.slot b = .ok y →
    let t := x.tag.toNat
    let n := elemBits t
    (∀ F, fmtOf t = some F → t ≤ 3 →
      (y.tag = x.tag → ∀ rtz, ∀ q ∈ floatOps rtz, gives w p d (marksOf a la ++ marksOf b lb) x.tag 0 n q.2.2
        (fun k => q.2.1 F (el n x.bits k) (el n y.bits k)) (q.1 w p d a la b lb) s s)
      ∧ (∀ z, rdV (core s) w.slot d = .ok z → y.tag = x.tag → z.tag = x.tag → ∀ rtz : Bool, gives w p d (marksOf a la ++ marksOf b lb) x.tag 0 n 5
        (fun k => F.round (if rtz then .rtz else .rne) false
          (((F.read (el n x.bits k)).mul (F.read (el n y.bits k))).add (F.read (el n z.bits k)))) (.vfma w p d a la b lb rtz) s s)
      ∧ (∀ j < 4, ∃ up : Nat → Bool, ∀ q0 ∈ (floatUnaryOps false)[j]?, gives w p d (marksOf a la) x.tag 0 n q0.2.2
        (fun k => (((floatUnaryOps (up k))[j]?).map (fun q => q.2.1 F (el n x.bits k))).getD 0) (q0.1 w p d a la) s s)
      ∧ (∀ mode : BitVec 2, gives w p d (marksOf a la) x.tag 0 n 3
        (fun k => match F.read (el n x.bits k) with
          | .nan => F.nan
          | .inf _ => el n x.bits k
          | .fin g m e => F.round .rne false (.fin g (roundInt mode.toNat g m e) 0)) (.vrnd w p d a la mode) s s))
    ∧ (1 ≤ t → t ≤ 5 →
      gives w p d (marksOf a la) x.tag 0 n 2 (fun k => el n x.bits k % 2 ^ (n - 1)) (.vabs w p d a la) s s
      ∧ gives w p d (marksOf a la) x.tag 0 n 2 (fun k => el n x.bits k + 2 ^ (n - 1)) (.vneg w p d a la) s s)
    ∧ (8 ≤ t → t ≤ 11 →
      (y.tag = x.tag → ∀ q ∈ integerOps, gives w p d (marksOf a la ++ marksOf b lb) x.tag 0 n 2
        (fun k => q.2 t (el n x.bits k) (el n y.bits k)) (q.1 w p d a la b lb) s s)
      ∧ (∀ z, rdV (core s) w.slot d = .ok z → y.tag = x.tag → z.tag = x.tag → gives w p d (marksOf a la ++ marksOf b lb) x.tag 0 n 2
        (fun k => el n z.bits k + el n x.bits k * el n y.bits k) (.vimac w p d a la b lb) s s)
      ∧ gives w p d (marksOf a la) x.tag 0 n 2
          (fun k => ((List.range n).filter (fun i => (el n x.bits k).testBit i)).length) (.vpopc w p d a la) s s)
    ∧ (let wrong := fun (r : Reg) (v : VReg) => (.next (takeTrap
        { code := 0x13, info := BitVec.ofNat 64 (r.toNat + 32 * w.slot.num) ||| BitVec.ofNat 64 (v.tag.toNat * 2 ^ 9)
          fslot := w.slot.num } w.slot.num false false s) : Out)
      (∀ rtz, ∀ q ∈ floatOps rtz, (¬(1 ≤ t ∧ t ≤ 3) → exec (q.1 w p d a la b lb) s = wrong a x)
        ∧ (1 ≤ t → t ≤ 3 → y.tag ≠ x.tag → exec (q.1 w p d a la b lb) s = wrong b y))
      ∧ (¬(1 ≤ t ∧ t ≤ 3) → (∀ q ∈ floatUnaryOps false, exec (q.1 w p d a la) s = wrong a x)
        ∧ ∀ mode, exec (.vrnd w p d a la mode) s = wrong a x)
      ∧ (¬(1 ≤ t ∧ t ≤ 5) → ∀ i ∈ [Instr.vabs w p d a la, .vneg w p d a la], exec i s = wrong a x)
      ∧ (∀ q ∈ integerOps, (¬(8 ≤ t ∧ t ≤ 11) → exec (q.1 w p d a la b lb) s = wrong a x)
        ∧ (8 ≤ t → t ≤ 11 → y.tag ≠ x.tag → exec (q.1 w p d a la b lb) s = wrong b y))
      ∧ (¬(8 ≤ t ∧ t ≤ 11) → exec (.vpopc w p d a la) s = wrong a x))

/-- The lane-mask logic of the vector slots (R120). -/
def Sys2Proof.Machine.Claims.maskOps :
    List ((VU → Pred → BitVec 3 → BitVec 3 → BitVec 3 → Bool → Instr) × (Bool → Bool → Bool)) :=
  [(.vpand, fun x y => x && y), (.vpor, fun x y => x || y), (.vpxor, fun x y => x != y)]

/-- The conditions of VCMP on two float values (R96, R115). -/
def Sys2Proof.Machine.Claims.floatCond (cc : Nat) (a b : FVal) : Bool :=
  match cc with
  | 0 => a.eq b | 1 => !a.eq b | 2 => a.lt b | 3 => a.lt b || a.eq b | 4 => b.lt a | 5 => b.lt a || a.eq b
  | 6 => a.isNan || b.isNan | _ => !a.isNan && !b.isNan

/-- The conditions of VICMP on two integers (R115). -/
def Sys2Proof.Machine.Claims.integerCond (cc : Nat) (a b : Int) : Bool :=
  match cc with
  | 0 => a == b | 1 => a != b | 2 => decide (a < b) | 3 => decide (a ≤ b) | 4 => decide (b < a) | _ => decide (b ≤ a)

/-- R115, R120: VCMP and VICMP set a lane's bit when the condition holds of every element in the lane; the lane-mask
instructions combine masks bit by bit, VPSET takes a literal's bits or the nonzero lanes of a register, and VPCNT gives the
number of a mask's ones in every lane as INT32. Each completes, and nothing else changes. -/
def Sys2Proof.Machine.Claims.VectorMaskResults : Prop :=
  ∀ (w : VU) (p : Pred) (s : State),
    (∀ (d : BitVec 3) (a b : Reg) (la lb : Bool) (cc : BitVec 3) (x y : VReg),
      rdV (core s) w.slot a = .ok x → rdV (core s) w.slot b = .ok y → y.tag = x.tag →
      let n := elemBits x.tag.toNat
      (∀ F, fmtOf x.tag.toNat = some F → x.tag.toNat ≤ 3 → givesMask w p d (marksOf a la ++ marksOf b lb) 3
        (fun l => (List.range (32 / n)).all (fun j => floatCond cc.toNat (F.read (el n x.bits (32 / n * l + j)))
          (F.read (el n y.bits (32 / n * l + j))))) (.vcmp w p d a la b lb cc) s)
      ∧ (8 ≤ x.tag.toNat → x.tag.toNat ≤ 11 → givesMask w p d (marksOf a la ++ marksOf b lb) 2
        (fun l => (List.range (32 / n)).all (fun j => integerCond cc.toNat (intValue x.tag.toNat (el n x.bits (32 / n * l + j)))
          (intValue x.tag.toNat (el n y.bits (32 / n * l + j))))) (.vicmp w p d a la b lb cc) s))
    ∧ (∀ q ∈ maskOps, ∀ (d a b : BitVec 3) (g : Bool), givesMask w p d [] 2
        (fun l => q.2 ((getP (core s) w.slot a.toNat).getLsbD l) ((getP (core s) w.slot b.toNat).getLsbD l != g))
        (q.1 w p d a b g) s)
    ∧ (∀ d a : BitVec 3, givesMask w p d [] 2 (fun l => !(getP (core s) w.slot a.toNat).getLsbD l) (.vpnot w p d a) s)
    ∧ (∀ (d : BitVec 3) (v : Word), givesMask w p d [] 2 (fun l => v.getLsbD l) (.vpset w p d (.lit v)) s)
    ∧ (∀ (d : BitVec 3) (b : Reg) (lb : Bool) (x : VReg), rdV (core s) w.slot b = .ok x →
        givesMask w p d (marksOf b lb) 2 (fun l => el 32 x.bits l != 0) (.vpset w p d (.reg b lb)) s)
    ∧ (∀ (d : Reg) (a : BitVec 3), gives w p d [] 8 0 32 2
        (fun _ => ((List.range 64).filter (fun i => (getP (core s) w.slot a.toNat).getLsbD i)).length) (.vpcnt w p d a) s s)

/-- The bitwise instructions of the vector slots (R119). -/
def Sys2Proof.Machine.Claims.bitwiseOps : List ((VU → Pred → Reg → Reg → Bool → Reg → Bool → Instr) × (VWord → VWord → VWord)) :=
  [(.vand, fun x y => x &&& y), (.vor, fun x y => x ||| y), (.vxor, fun x y => x ^^^ y), (.vandn, fun x y => x &&& ~~~y)]

/-- The value and index of lane `l` of a pair of registers (R116). -/
def Sys2Proof.Machine.Claims.pairAt (x : VReg × VReg) (l : Nat) : KeyPair := (el 32 x.1.bits l, el 32 x.2.bits l)

/-- The two landings of a pair result: keys as FP32, indices as INT32 (R112, R116). -/
def Sys2Proof.Machine.Claims.givesPair (w : VU) (p : Pred) (d : Reg) (ms : List Reg) (e : Nat → KeyPair) (i : Instr) (s : State) : Prop :=
  (selMask (core s) w.slot p = 0 → exec i s = .next (delivered w.slot ms (fun _ => []) s))
  ∧ (selMask (core s) w.slot p ≠ 0 → ∃ ks is mask : VWord,
      exec i s = .next (delivered w.slot ms
        (fun c => [vresult w d ks mask 1 0 3 c, vresult w (d + 1) is mask 8 0 3 c]) s)
      ∧ (∀ k < 2048, mask.getLsbD k = (selMask (core s) w.slot p).getLsbD (k / 32))
      ∧ (∀ l < 64, el 32 ks l = (e l).1 ∧ el 32 is l = (e l).2))

/-- R116, R119, R126, R136: the bitwise instructions and VSEL give the bits with the common tag, or NONE where the tags differ;
VMOV copies, VTAG gives the bits a new tag, VTGET gives the tag, VIDX the element numbers. VCSWP.HI keeps in each lane the pair
that comes first in the total order, VCSWP.LO the other, and VCSWP.X exchanges across 2^k lanes, the lower lane keeping the
first. Each completes and nothing else changes. -/
def Sys2Proof.Machine.Claims.VectorMoveResults : Prop :=
  ∀ (w : VU) (p : Pred) (d a b : Reg) (la lb : Bool) (s : State) (x y : VReg),
    rdV (core s) w.slot a = .ok x → rdV (core s) w.slot b = .ok y →
    let same := x.tag = y.tag ∧ (x.tag = 0x18 → x.dw = y.dw)
    (∀ q ∈ bitwiseOps, (same → gives w p d (marksOf a la ++ marksOf b lb) x.tag x.dw 32 2
        (el 32 (q.2 x.bits y.bits)) (q.1 w p d a la b lb) s s)
      ∧ (¬same → gives w p d (marksOf a la ++ marksOf b lb) 0 0 32 2 (el 32 (q.2 x.bits y.bits)) (q.1 w p d a la b lb) s s))
    ∧ (∀ k : BitVec 3, same → gives w p d (marksOf a la ++ marksOf b lb) x.tag x.dw 32 2
        (fun l => if (getP (core s) w.slot k.toNat).getLsbD l then el 32 x.bits l else el 32 y.bits l) (.vsel w p d k a la b lb) s s)
    ∧ (∀ k : BitVec 3, ¬same → gives w p d (marksOf a la ++ marksOf b lb) 0 0 32 2
        (fun l => if (getP (core s) w.slot k.toNat).getLsbD l then el 32 x.bits l else el 32 y.bits l) (.vsel w p d k a la b lb) s s)
    ∧ gives w p d (marksOf a la) x.tag x.dw 32 2 (el 32 x.bits) (.vmov w p d a la) s s
    ∧ (∀ v : Word, tagWordOk v = true → gives w p d (marksOf a la) (fld v 0 6) (fld v 6 2)
        (vWidth (fld v 0 6) (fld v 6 2)) 2 (el (vWidth (fld v 0 6) (fld v 6 2)) x.bits) (.vtag w p d a la (.lit v)) s s)
    ∧ gives w p d (marksOf a la) 8 0 32 2 (fun _ => x.tag.toNat + 64 * x.dw.toNat) (.vtget w p d a la) s s
    ∧ (∀ f : BitVec 2, gives w p d [] (if f = 0 then 8 else if f = 1 then 9 else 11) 0
        (if f = 0 then 32 else if f = 1 then 16 else 8) 2 (fun k => k) (.vidx w p d f) s s)
    ∧ (∀ x1 y1, rdV (core s) w.slot (a + 1) = .ok x1 → rdV (core s) w.slot (b + 1) = .ok y1 →
      x.tag = 1 → x1.tag = 8 → y.tag = 1 → y1.tag = 8 →
      givesPair w p d (pairMarks a la ++ pairMarks b lb)
        (fun l => if pairBefore (pairAt (x, x1) l) (pairAt (y, y1) l) then pairAt (x, x1) l else pairAt (y, y1) l)
        (.vcswpHi w p d a la b lb) s
      ∧ givesPair w p d (pairMarks a la ++ pairMarks b lb)
        (fun l => if pairBefore (pairAt (x, x1) l) (pairAt (y, y1) l) then pairAt (y, y1) l else pairAt (x, x1) l)
        (.vcswpLo w p d a la b lb) s
      ∧ (∀ k : BitVec 3, k.toNat < 6 → givesPair w p d (pairMarks a la)
        (fun l =>
          let lo := pairAt (x, x1) (min l (l ^^^ 2 ^ k.toNat))
          let hi := pairAt (x, x1) (max l (l ^^^ 2 ^ k.toNat))
          if decide (l < l ^^^ 2 ^ k.toNat) = pairBefore lo hi then lo else hi) (.vcswpX w p d a la k) s))

/-- R115, R116, R119, R120, R126, R136: the compares and the lane-mask instructions, the bitwise instructions, the moves and the
compare-and-swaps of the vector slots.
Where the spec leaves a choice, the statement follows the model's: log 101. -/
def Obligations.VectorMaskAndMoveResults : Prop := VectorMaskResults ∧ VectorMoveResults

/-- A generator's state after `n` steps (R100). -/
def Sys2Proof.Machine.Claims.steps (n : Nat) (g : BitVec 32) : BitVec 32 := (List.range n).foldl (fun g _ => genStep g) g

/-- R121 to R125: VCVT, where the conversion is listed, converts each element with the rounding that mod selects, from ACCRAW under the
exponent in d; its stochastic mode draws for every element from the slot's generator, which advances once for each. VCLMP clamps a to ±|b|. VPERM permutes lanes or bytes of a by b,
VROT rotates a's bytes, VBCST repeats one lane or a literal. VRED gives every element the reduction of all elements, VSCAN the
inclusive scan. Each completes and nothing else changes.
Where the spec leaves a choice, the statement follows the model's: log 17. -/
def Obligations.VectorShuffleResults : Prop :=
  ∀ (w : VU) (p : Pred) (d a b : Reg) (la lb : Bool) (s : State) (x y : VReg),
    rdV (core s) w.slot a = .ok x → rdV (core s) w.slot b = .ok y →
    let t := x.tag.toNat
    let n := elemBits t
    (∀ (q : BitVec 5) (mode : BitVec 2) (sat : Bool) (eacc : Int) (s1 : State), convListed t q.toNat = true →
      (if t = 0x20 then ∃ z, rdV (core s) w.slot d = .ok z ∧ eacc = (z.bits.setWidth 10).toInt else eacc = 0) →
      s1 = (if mode = 2 then
              let g := steps (min (2048 / n) (2048 / elemBits q.toNat)) (Map.get (core s).gens (genOf w) 1)
              updCore (fun c => { c with gens := Map.put c.gens (genOf w) g }) s
            else s) →
      gives w p d (marksOf a la) (BitVec.ofNat 6 q.toNat) 0 (elemBits q.toNat) 3
        (fun k => if k < 2048 / n then convert t q.toNat
            (if mode = 2 then .sr (genDraw (steps (k + 1) (Map.get (core s).gens (genOf w) 1))) else if mode = 1 then .rtz else .rne)
            sat eacc (el n x.bits k) else 0)
        (.vcvt w p d a la q mode sat) s s1)
    ∧ (((1 ≤ t ∧ t ≤ 3) ∨ (8 ≤ t ∧ t ≤ 11)) → y.tag = x.tag → gives w p d (marksOf a la ++ marksOf b lb) x.tag 0 n 3
        (fun k => fClamp t (el n x.bits k) (el n y.bits k)) (.vclmp w p d a la b lb) s s)
    ∧ (x.tag ≠ 0 →
      (y.tag = 8 → gives w p d (marksOf a la ++ marksOf b lb) x.tag x.dw (vWidth x.tag x.dw) 3
        (el (vWidth x.tag x.dw) (permLanes x.bits y.bits)) (.vperm w p d a la b lb false) s s
        ∧ ∀ l < 64, el 32 (permLanes x.bits y.bits) l = el 32 x.bits (el 32 y.bits l % 64))
      ∧ (y.tag = 11 → gives w p d (marksOf a la ++ marksOf b lb) x.tag x.dw 32 3
        (el 32 (permBytes x.bits y.bits)) (.vperm w p d a la b lb true) s s
        ∧ ∀ l < 256, el 8 (permBytes x.bits y.bits) l = el 8 x.bits (el 8 y.bits l))
      ∧ (y.tag = 8 → gives w p d (marksOf a la ++ marksOf b lb) x.tag x.dw (vWidth x.tag x.dw) 3
        (el (vWidth x.tag x.dw) (x.bits.rotateRight (8 * (y.bits.toNat % 256)))) (.vrot w p d a la b lb) s s)
      ∧ (y.tag = 8 → ∀ f : BitVec 4, ∃ v : VWord, gives w p d (marksOf a la ++ marksOf b lb) x.tag x.dw (vWidth x.tag x.dw) 3
        (el (vWidth x.tag x.dw) v) (.vbcst w p d a la (.reg b lb) f) s s
        ∧ ∀ l < 64, el 32 v l = el 32 x.bits (el 32 y.bits 0 % 64)))
    ∧ (∀ (f : BitVec 4) (v : Word), gives w p d [] (BitVec.ofNat 6 f.toNat) 0 (elemBits f.toNat) 3 (fun _ => v.toNat)
        (.vbcst w p d a la (.lit v) f) s s)
    ∧ (((1 ≤ t ∧ t ≤ 3) ∨ t = 8) → ∀ op : BitVec 2,
      gives w p d (marksOf a la) x.tag 0 n 6 (fun _ => treeRed (redOp op.toNat t) 7 ((List.range (2048 / n)).map (el n x.bits)))
        (.vred w p d a la op) s s
      ∧ ∃ f : Nat → Nat, gives w p d (marksOf a la) x.tag 0 n 8 f (.vscan w p d a la op) s s
        ∧ f 0 = el n x.bits 0 ∧ ∀ k, k + 1 < 2048 / n → f (k + 1) = redOp op.toNat t (f k) (el n x.bits (k + 1)))

/-- R127, R128, R135: VLD and VST with an INT32 base, or none, and an aligned address within scratchpad, complete where their
accesses pass: VLD's governed elements are the 256 bytes, VST stores the governed lanes. VLDX loads and VSTX stores
each governed lane at its own address. VHIST counts the governed elements below 256 on its die.
Where the spec leaves a choice, the statement follows the model's: log 59. -/
def Obligations.VectorMemoryResults : Prop :=
  ∀ (w : VU) (p : Pred) (d a : Reg) (la : Bool) (s : State),
    (∀ (off : Word) (f : BitVec 4) (base : Option VReg) (ad : Nat) (s1 : State), vbase w a s = .ok base →
      (∀ v ∈ base, v.tag = 8) → ad = vaddr base off → ad % 64 = 0 → ad + 256 ≤ 0x180000 →
      (selMask (core s) w.slot p ≠ 0 → f.toNat ≠ 7 → checkLocal .sl .read ad 256 64 s = .ok s1 →
        checkPoison (core s) ad 256 = .ok () →
        gives w p d (marksOf a la) (BitVec.ofNat 6 f.toNat) 0 (elemBits f.toNat) 6
          (el (elemBits f.toNat) (BitVec.ofNat 2048 (seen s ad 256))) (.vld w p d a la off f) s s1)
      ∧ (selMask (core s) w.slot p = 0 →
        exec (.vld w p d a la off f) s = .next (updCore (killMarks w.slot (marksOf a la)) s))
      ∧ (∀ v, rdV (core s) w.slot d = .ok v → selMask (core s) w.slot p ≠ 0 → Memory.wf (core s).sp.mem = true →
        checkRegionAt (viewRegions s) (core s).ctx (.sp s.cur) .write ((vstLanes (selMask (core s) w.slot p) ad).map (·.2)) = .ok () →
        raceLanes .write ((vstLanes (selMask (core s) w.slot p) ad).map (·.2)) s = .ok s1 → (core s).sp.poison = [] →
        ∃ t, exec (.vst w p d a la off) s = .next t ∧ (core t).pend = (core s).pend ∧ othersKept s t
          ∧ (∀ l < 64, (selMask (core s) w.slot p).getLsbD l = true → Memory.readLE (core t).sp.mem (ad + 4 * l) 4 = el 32 v.bits l)
          ∧ (∀ k, (∀ l < 64, (selMask (core s) w.slot p).getLsbD l = true → k < ad + 4 * l ∨ ad + 4 * l + 4 ≤ k) →
              spByte t k = spByte s k)))
    ∧ (∀ (x v : VReg) (s1 : State), rdV (core s) w.slot a = .ok x → x.tag = 8 →
      (∀ f : BitVec 2, checkLanes .read (laneAddrs (selMask (core s) w.slot p) x.bits) s = .ok s1 →
        gives w p d (marksOf a la) (if f = 0 then 0 else if f = 1 then 1 else 8) 0 32 8
          (fun l => if (selMask (core s) w.slot p).getLsbD l then seen s (el 32 x.bits l) 4 else 0) (.vldx w p d a la f) s s1)
      ∧ (rdV (core s) w.slot d = .ok v → Memory.wf (core s).sp.mem = true → (core s).sp.poison = [] →
        checkLanes .write (laneAddrs (selMask (core s) w.slot p) x.bits) s = .ok s1 →
        ∃ t, exec (.vstx w p d a la) s = .next t ∧ (core t).pend = (core s).pend ∧ othersKept s t
          ∧ ∀ l < 64, (selMask (core s) w.slot p).getLsbD l = true →
              (∀ l' < 64, (selMask (core s) w.slot p).getLsbD l' = true → l < l' →
                el 32 x.bits l' + 4 ≤ el 32 x.bits l ∨ el 32 x.bits l + 4 ≤ el 32 x.bits l') →
              Memory.readLE (core t).sp.mem (el 32 x.bits l) 4 = el 32 v.bits l))
    ∧ (∀ (lvl : BitVec 3) (u8 : Bool) (x : VReg) (g : BitVec 16), rdV (core s) w.slot a = .ok x →
      x.tag = (if u8 then 11 else 8) → g = fld (core s).csr.dmr (16 * (lvl.toNat - 1)) 16 → g ≠ 0 →
      ∃ t, exec (.vhist w p a lvl u8) s = .next t ∧ (∀ c, coreAt t c = coreAt s c)
        ∧ (histValues u8 (selMask (core s) w.slot p) x.bits ≠ [] → (groupAt s g).incs = [] → (groupAt t g).incs
            = (histValues u8 (selMask (core s) w.slot p) x.bits).map
                (fun v => { core := s.cur, node := (core s).node, born := s.now
                            die := dieNo s.cur, ctr := v })))

/-- `i` completes with a result for `d` in which the bits that `m` names, of those governed by the selected mask, are written as `b`
gives them; where it names none nothing is written. Nothing else changes (R91, R111). -/
def Sys2Proof.Machine.Claims.givesBits (w : VU) (p : Pred) (d : Reg) (ms : List Reg) (tag : BitVec 6) (dw : BitVec 2) (lat : Nat)
    (m b : Nat → Bool) (i : Instr) (s : State) : Prop :=
  ∃ bits mask : VWord,
    exec i s = .next (delivered w.slot ms (fun c => if mask = 0 then [] else [vresult w d bits mask tag dw lat c]) s)
    ∧ (∀ k < 2048, mask.getLsbD k = (m k && (selMask (core s) w.slot p).getLsbD (k / 32)))
    ∧ (∀ k < 2048, mask.getLsbD k = true → bits.getLsbD k = b k)

/-- `i` faults at issue with a code and INFO, in its slot (R186). -/
def Sys2Proof.Machine.Claims.faults (w : VU) (code : Nat) (info : Word) (i : Instr) (s : State) : Prop :=
  exec i s = .next (takeTrap { code := code, info := info, fslot := w.slot.num } w.slot.num false false s)

/-- The element that VPACK packs into digit `k` of `n` (R131): an integer, or a bit of a plane; part `q`, reversed with `r`. -/
def Sys2Proof.Machine.Claims.packed (x : VReg) (r : Bool) (q n k : Nat) : Int :=
  let e := el (elemBits x.tag.toNat) x.bits (q * n + (if r then n - 1 - k else k))
  if 16 ≤ x.tag.toNat then (e : Int) else intValue x.tag.toNat e

/-- R105, R106, R130 to R134: VPLN moves bit 7 − j of the INT8 elements into a segment of a plane register; VUPL moves a segment of a
plane into its bit of INT8 elements, for j = 0 into the sign bits above too, and a plane that the register has not faults
ILLEGAL_OP. VPACK packs integers or a plane's bits, reversed with .R, into the digits of a packed register; elements wider than a
digit fault FORMAT_TAG, a part beyond the register ILLEGAL_OP, and an element that does not fit GUARD_OVERFLOW. VMULW gives the exact
product of two packed registers in a pair; VXTR the digits of a packed pair at the given indices as INT32, where an index beyond
the pair faults ILLEGAL_OP; VGRD tells whether the bound on the digits of the product holds, and .T faults GUARD_OVERFLOW where it
does not. Each completes and nothing else changes.
Where the spec leaves a choice, the statement follows the model's: log 109. -/
def Obligations.VectorDigitResults : Prop :=
  ∀ (w : VU) (p : Pred) (d a : Reg) (la : Bool) (s : State) (x : VReg), rdV (core s) w.slot a = .ok x →
    (∀ sg j : BitVec 3, x.tag = 10 → givesBits w p d (marksOf a la) 0x17 0 4 (fun k => k / 256 == sg.toNat)
      (fun k => (el 8 x.bits (k % 256)).testBit (7 - j.toNat)) (.vpln w p d a la sg j) s)
    ∧ (∀ sg j : BitVec 3, 16 ≤ x.tag.toNat → x.tag.toNat ≤ 23 →
      (j.toNat < x.tag.toNat - 15 → givesBits w p d (marksOf a la) 10 0 4
        (fun k => if j = 0 then decide (x.tag.toNat - 16 ≤ k % 8) else k % 8 == x.tag.toNat - 16 - j.toNat)
        (fun k => x.bits.getLsbD (256 * sg.toNat + k / 8)) (.vupl w p d a la sg j) s)
      ∧ (x.tag.toNat - 15 ≤ j.toNat → exec (.vupl w p d a la sg j) s = .next (slotFault w.slot (illegalOp s) s)))
    ∧ (∀ (g : BitVec 2) (r : Bool) (q : BitVec 2), (8 ≤ x.tag.toNat ∧ x.tag.toNat ≤ 11) ∨ (16 ≤ x.tag.toNat ∧ x.tag.toNat ≤ 23) →
      let i := Instr.vpack w p d a la g r q
      let n := 2048 / digitBits g.toNat
      (digitBits g.toNat < elemBits x.tag.toNat →
        faults w 0x13 (BitVec.ofNat 64 (a.toNat + 32 * w.slot.num) ||| BitVec.ofNat 64 (x.tag.toNat * 2 ^ 9)) i s)
      ∧ (elemBits x.tag.toNat ≤ digitBits g.toNat →
        (2048 / elemBits x.tag.toNat < (q.toNat + 1) * n → exec i s = .next (slotFault w.slot (illegalOp s) s))
        ∧ ((q.toNat + 1) * n ≤ 2048 / elemBits x.tag.toNat →
          ((∃ k < n, 2 ^ (digitBits g.toNat - 1) - 1 < (packed x r q.toNat n k).natAbs) → faults w 0x14 0 i s)
          ∧ ((∀ k < n, (packed x r q.toNat n k).natAbs ≤ 2 ^ (digitBits g.toNat - 1) - 1) → ∃ v,
            exec i s = .next (delivered w.slot (marksOf a la) (fun c => if selMask (core s) w.slot p = 0 then []
              else [vresult w d (BitVec.ofInt 2048 v) (laneBits (selMask (core s) w.slot p)) 0x18 g 4 c]) s)
            ∧ v = packDigits (digitBits g.toNat) ((List.range n).map (packed x r q.toNat n))))))
    ∧ (∀ (b : Reg) (lb : Bool) (y : VReg), rdV (core s) w.slot b = .ok y →
      (x.tag = 0x18 → y.tag = 0x18 → y.dw = x.dw → ∃ lo hi : VWord,
        exec (.vmulw w p d a la b lb) s = .next (delivered w.slot (marksOf a la ++ marksOf b lb)
          (fun c => if selMask (core s) w.slot p = 0 then []
            else [vresult w d lo (laneBits (selMask (core s) w.slot p)) 0x18 x.dw 12 c,
                  vresult w (d + 1) hi (laneBits (selMask (core s) w.slot p)) 0x18 x.dw 12 c]) s)
        ∧ hi.toInt * 2 ^ 2048 + lo.toNat = x.bits.toInt * y.bits.toInt)
      ∧ (∀ x1, rdV (core s) w.slot (a + 1) = .ok x1 → x.tag = 0x18 → x1.tag = 0x18 → x1.dw = x.dw → y.tag = 8 →
        (x.dw = 3 → faults w 0x13 (BitVec.ofNat 64 (a.toNat + 32 * w.slot.num) ||| BitVec.ofNat 64 (0x18 * 2 ^ 9))
          (.vxtr w p d a la b lb) s)
        ∧ (x.dw ≠ 3 → (∃ l < 64, 4096 / digitBits x.dw.toNat ≤ el 32 y.bits l) →
          exec (.vxtr w p d a la b lb) s = .next (slotFault w.slot (illegalOp s) s))
        ∧ (x.dw ≠ 3 → (∀ l < 64, el 32 y.bits l < 4096 / digitBits x.dw.toNat) →
          ∃ f : Nat → Int, gives w p d (pairMarks a la ++ marksOf b lb) 8 0 32 4 (fun l => (f l % 2 ^ 32).toNat) (.vxtr w p d a la b lb) s s
            ∧ ∀ l < 64, f l = digit (digitBits x.dw.toNat) (x.bits.toNat + x1.bits.toNat * 2 ^ 2048) (el 32 y.bits l)))
      ∧ (∀ (m : BitVec 3) (g : Bool), x.tag = 0x18 → y.tag = 0x18 → y.dw = x.dw →
        let safe := guardBound (digitBits x.dw.toNat) x.bits y.bits ≤ 2 ^ (digitBits x.dw.toNat - 1) - 1
        ((g = false ∨ safe) → givesMask w p m (marksOf a la ++ marksOf b lb) 4 (fun _ => decide safe) (.vgrd w p m a la b lb g) s)
        ∧ (g = true → ¬safe → faults w 0x14 0 (.vgrd w p m a la b lb g) s)))

/-! ### The matrix slot and the matrix engine (R140 to R180) -/

/-- R160, R161, R170 to R178: with a true predicate and readable operands MPARM and MADD give their results after 1 engine cycle; MCALL
and MUPL, while fewer than two calls are queued, enter the call queue with copies of m0 to m7; MSQL with staging space is
outstanding; MSTAT, MTST and MSQR put a status value on its way behind the last call; ACREL waits for its place; MWAIT with
nothing to wait for changes nothing. With two calls queued MCALL and MUPL freeze under cause 6, and MWAIT freezes under cause 9
while a call or a read of scales has not ended. An MCALL or MUPL of a routine above 255, an MSQL of no entry or of more than 64
and an ACREL of a tile above 32 fault ILLEGAL_OP. -/
def Obligations.MatrixSlotResults : Prop :=
  ∀ (p : Pred) (d a : Reg) (o : Opnd) (s : State) (u v : Word),
    predOn (core s) .m p = true → rdX (core s) .m a = .ok u → rdO (core s) .m o = .ok v →
    exec (.mparm p d o) s = .next (delivered .m [] (lands .m d v 1) s)
    ∧ exec (.madd p d a o) s = .next (delivered .m [] (lands .m d (u + v) 1) s)
    ∧ ((pme s).calls.length < 2 → v.toNat ≤ 255 →
      (∃ t, exec (.mcall p o) s = .next t ∧ othersKept s t ∧ (core t).sp = (core s).sp ∧ (core t).pend = (core s).pend
        ∧ (pme t).seq = (pme s).seq + 1
        ∧ (pme t).calls = (pme s).calls ++ [{ kind := .call v.toNat, regs := params (core s), seq := (pme s).seq + 1, issued := s.now }])
      ∧ (∀ s1 s2 h0 h1, checkLocal .mx .read u.toNat 16 16 s = .ok s1 → checkPoison (core s) u.toNat 16 = .ok () →
        h0 = BitVec.ofNat 64 (seen s u.toNat 8) → h1 = BitVec.ofNat 64 (seen s (u.toNat + 8) 8) →
        1 ≤ (fld h0 11 11).toNat → (fld h0 0 11).toNat + (fld h0 11 11).toNat ≤ 1536 →
        checkLocal .mx .read u.toNat (16 + 8 * (fld h0 11 11).toNat) 16 s1 = .ok s2 →
        ∃ t, exec (.mupl p a o) s = .next t ∧ othersKept s t ∧ (core t).pend = (core s).pend
          ∧ (pme t).calls = (pme s).calls
              ++ [{ kind := .mupl v.toNat u.toNat h0 h1, regs := params (core s), seq := (pme s).seq + 1, issued := s.now }]))
    ∧ ((pme s).calls.length < 2 → 255 < v.toNat → ∀ i ∈ [Instr.mcall p o, .mupl p a o], exec i s = .next (slotFault .m (illegalOp s) s))
    ∧ (2 ≤ (pme s).calls.length → ∀ i ∈ [Instr.mcall p o, .mupl p a o], exec i s = .next (freeze 6 s))
    ∧ (v.toNat = 0 ∨ 64 < v.toNat → exec (.msql p a o) s = .next (slotFault .m (illegalOp s) s))
    ∧ (32 < v.toNat → exec (.acrel p o) s = .next (slotFault .m (illegalOp s) s))
    ∧ ((pme s).calls ≠ [] ∨ (∃ m ∈ (pme s).msqls, m.read < m.count) → exec (.mwait p) s = .next (freeze 9 s))
    ∧ (∀ s1, 1 ≤ v.toNat → v.toNat ≤ 64 → checkLocal .mx .read u.toNat (64 * v.toNat) 64 s = .ok s1 →
      v.toNat ≤ stagingFree (pme s) →
      ∃ t, exec (.msql p a o) s = .next t ∧ othersKept s t ∧ (core t).pend = (core s).pend
        ∧ (pme t).msqls = (pme s).msqls ++ [{ addr := u.toNat, count := v.toNat, read := 0, stg := [], issued := s.now }])
    ∧ (∀ i k, (i, k) ∈ [(Instr.mstat p d a, SampleKind.mstat (fld u 0 5).toNat), (.msqr p d true, .msqr true),
        (.msqr p d false, .msqr false)] ∨ (∃ e : BitVec 3, i = .mtst p d a e ∧ k = .mtst (fld u 0 5).toNat e.toNat) →
      ∃ t x, exec i s = .next t ∧ othersKept s t ∧ (core t).pend = (core s).pend ∧ (pme t).samples = (pme s).samples ++ [x]
        ∧ x.kind = k ∧ x.reg = d.toNat ∧ x.covers = ((pme s).calls.getLast?).map (fun c => c.seq) ∧ x.value = none)
    ∧ (v.toNat ≤ 32 → ∃ t x, exec (.acrel p o) s = .next t ∧ othersKept s t ∧ (pme t).acrels = (pme s).acrels ++ [x]
        ∧ x.tile = v.toNat ∧ (pme t).tiles = (pme s).tiles)
    ∧ ((pme s).calls = [] → (∀ m ∈ (pme s).msqls, m.count ≤ m.read) → exec (.mwait p) s = .next (updCore (killMarks .m []) s))

/-- The running routine of the acting core goes on as `r` after `cost` engine cycles; other cores and, but for what `more`
tells, everything else is as before (R164, R167). -/
def Sys2Proof.Machine.Claims.goesOnAs (r : Routine) (cost : Nat) (s t : State) : Prop :=
  (pme t).run = some r ∧ (pme t).busy = max (pme s).busy s.now + cost * mDiv s ∧ othersKept s t
    ∧ (core t).files = (core s).files ∧ (core t).pc = (core s).pc ∧ t.dram = s.dram

/-- A parameter copy after a signed step (R167). -/
def Sys2Proof.Machine.Claims.stepped (r : Routine) (n : BitVec 3) (st : BitVec 32) : List Word :=
  r.regs.set n.toNat ((r.regs[n.toNat]?).getD 0 + st.signExtend 64)

/-- The routine stops on a fault: the fault waits to be delivered, the call has ended, and calls behind it are held (R157). -/
def Sys2Proof.Machine.Claims.routineFaults (code : Nat) (info : Word) (s t : State) : Prop :=
  (pme t).run = none ∧ (pme t).held = true ∧ (pme t).calls = (pme s).calls.tail ∧ othersKept s t
    ∧ ∃ e, (pme t).fault = some e ∧ e.code = code ∧ e.info = info ∧ e.fslot = 3 ∧ e.defer = true

/-- The activation at place `q` of a buffer (R165): a byte, or in narrow mode a nibble, the lower one first. -/
def Sys2Proof.Machine.Claims.activationAt (s : State) (narrow u : Bool) (a q : Nat) : Int :=
  if narrow then
    let x := (spByte s (a + q / 2)).toNat / (if q % 2 = 1 then 16 else 1) % 16
    if u = true ∨ x < 8 then (x : Int) else (x : Int) - 16
  else if u then ((spByte s (a + q)).toNat : Int) else (spByte s (a + q)).toInt

/-- R164, R167 to R169: each sequencing and arithmetic micro-operation acts on the running routine and the routine goes on
behind it: NOP and FENCE pass cycles, LOOP and JNZ count, END ends the call, SETEXP sets the exponent, PLANE and BLOAD load A
and B where their access passes, XTR shifts the integers and adds the digits, MULW gives the digits of the products in 4 cycles.
A narrow-mode guard failure faults GUARD_OVERFLOW with the row. -/
def Sys2Proof.Machine.Claims.MicroOperations : Prop :=
  ∀ (s : State) (r : Routine), (pme s).run = some r →
    let n : Routine := { r with uaddr := r.uaddr + 1 }
    (∀ k, ∃ t, exec (.uopNop k) s = .next t ∧ goesOnAs n k.toNat s t)
    ∧ (∃ t, exec .uopFence s = .next t ∧ goesOnAs n 8 s t)
    ∧ (∀ e auto, ∃ t, exec (.uopSetexp e auto) s = .next t ∧ goesOnAs { n with exp := if auto then none else some e } 0 s t)
    ∧ (∀ (ra : BitVec 3) (rg : Bool) (fin : BitVec 11) (cnt : BitVec 16) (c : Nat),
      c = (if rg then (fld ((r.regs[ra.toNat]?).getD 0) 0 32).toNat else cnt.toNat) →
      ∃ t, exec (.uopLoop ra rg fin cnt) s = .next t
        ∧ goesOnAs (if c = 0 then { r with uaddr := fin.toNat + 1 } else { n with stk := c :: r.stk }) 0 s t)
    ∧ (∀ (tg : BitVec 11) c cs, r.stk = c :: cs → ∃ t, exec (.uopJnz tg) s = .next t
        ∧ goesOnAs (if c ≤ 1 then { n with stk := cs } else { r with uaddr := tg.toNat, stk := (c - 1) :: cs }) 0 s t)
    ∧ (∀ k ks, (pme s).calls = k :: ks → ∃ t, exec .uopEnd s = .next t ∧ othersKept s t ∧ (pme t).run = none
        ∧ (pme t).calls = ks ∧ (pme t).ended = k.seq ∧ (pme t).lastEnd = s.now)
    ∧ (∀ z neg, ∃ t, exec (.uopXtr z neg) s = .next t ∧ goesOnAs { n with
        i := List.zipWith (fun i d => 2 * (if z then 0 else i) + (if neg then -d else d)) r.i r.d } 0 s t)
    ∧ (r.ent.narrow = false ∨ guardRow r = none → ∃ t, exec .uopMulw s = .next t ∧ goesOnAs { n with
        d := (r.a.map (fun row => productDigits (if r.ent.narrow then 8 else 16) (if r.ent.narrow then 128 else 64) row r.b)).flatten }
        4 s t)
    ∧ (∀ k, r.ent.narrow = true → guardRow r = some k → (pme s).fault = none → nextAcc (pme s) r = none →
      ∃ t, exec .uopMulw s = .next t ∧ routineFaults 0x14 (BitVec.ofNat 64 k) s t)
    ∧ (∀ (ra pi : BitVec 3) (w : BitVec 4) (st : BitVec 32) (ad len : Nat) (s1 : State),
      len = (if r.ent.narrow then 1024 else 512) →
      ad = (fld ((r.regs[ra.toNat]?).getD 0) 6 15).toNat * 64 + len * pi.toNat → engCheck .mx .read ad len s = .ok s1 →
      ∃ t rows, exec (.uopPlane ra pi w st) s = .next t ∧ goesOnAs { n with a := rows, regs := stepped r ra st } 0 s t
        ∧ rows.length = 64
        ∧ ∀ k < 64, rows[k]? = some (Memory.readLE (core s).sp.mem (ad + len / 64 * k) (len / 64)))
    ∧ (∀ (ra : BitVec 3) (u : Bool) (st : BitVec 32) (ad w : Nat) (s1 : State), w = (if r.ent.narrow then 128 else 64) →
      ad = (fld ((r.regs[ra.toNat]?).getD 0) 6 15).toNat * 64 → engCheck .mx .read ad 4096 s = .ok s1 →
      ∃ t b, exec (.uopBload ra u st) s = .next t ∧ goesOnAs { n with b := b, regs := stepped r ra st } 0 s t
        ∧ ∀ j < 64, ∀ i < w, b[w * j + (w - 1 - i)]? = some (activationAt s r.ent.narrow u ad (w * j + i)))

/-- R145 to R149, R154, R156, R167, R168: SPIDX loads B from a compressed buffer; SCALE takes two entries of the scale queue, and
WAITQ passes when the queue holds enough; with no MSQL outstanding they fault SCALE_QUEUE_IMBALANCE when it is empty, or holds too
few; ACC adds
the pass into its tile, exactly where the scales leave the integers unshifted and the sum is in range, and faults
ACC_EXHAUSTED without a slot; DRAIN writes every element of the tile in the format, with a draw of the engine's generator for each in its
stochastic mode, and STAT writes its status word. -/
def Sys2Proof.Machine.Claims.MicroOperationsOnTiles : Prop :=
  ∀ (s : State) (r : Routine), (pme s).run = some r →
    let n : Routine := { r with uaddr := r.uaddr + 1 }
    (∀ x y qs, r.half = false → (pme s).scales = x :: y :: qs →
      ∃ t, exec .uopScale s = .next t ∧ goesOnAs { n with ea := scaleCodes x, eb := scaleCodes y } 0 s t ∧ (pme t).scales = qs)
    ∧ ((pme s).scales = [] → (pme s).msqls = [] → (pme s).fault = none →
      ∃ t, exec .uopScale s = .next t ∧ routineFaults 0x15 0 s t)
    ∧ (∀ k : BitVec 7, (k.toNat ≤ (pme s).scales.length → ∃ t, exec (.uopWaitq k) s = .next t ∧ goesOnAs n 0 s t)
      ∧ ((pme s).scales.length < k.toNat → (pme s).msqls = [] → (pme s).fault = none →
        ∃ t, exec (.uopWaitq k) s = .next t ∧ routineFaults 0x15 (BitVec.ofNat 64 (pme s).scales.length) s t))
    ∧ (∀ (ra sh : BitVec 3) (tile : Nat), tile = (fld ((r.regs[ra.toNat]?).getD 0) 0 5).toNat →
      (∀ x, bindTile s r tile sh = some x → r.i.length = 4096 →
        ∃ t y, exec (.uopAcc ra sh) s = .next t ∧ goesOnAs { n with passes := r.passes + 1 } 0 s t
          ∧ tileAt (pme t) tile = some y ∧ y.slot = x.slot ∧ y.eacc = x.eacc ∧ y.tag = x.tag
          ∧ (tileAt (pme s) tile = none → y.tag = 0x20)
          ∧ (x.passes ≠ 0xFFFFFFFF → y.passes = x.passes + 1)
          ∧ (∀ k < 4096, ∀ i, r.i[k]? = some i → scaleExp r sh (k / 64) (k % 64) = some x.eacc.toInt →
              bit (Map.get x.elems k 0) 63 = false →
              -(2 ^ 62 - 1) ≤ sextNat 63 (Map.get x.elems k 0).toNat + i → sextNat 63 (Map.get x.elems k 0).toNat + i ≤ 2 ^ 62 - 1 →
              sextNat 63 (Map.get y.elems k 0).toNat = sextNat 63 (Map.get x.elems k 0).toNat + i))
      ∧ (bindTile s r tile sh = none → (pme s).fault = none →
        ∃ t, exec (.uopAcc ra sh) s = .next t ∧ routineFaults 0x16 (BitVec.ofNat 64 tile) s t))
    ∧ (∀ (ra rb : BitVec 3) (fmt : BitVec 2) (sr sat : Bool) (st : BitVec 32) (ad len : Nat) (s1 : State),
      len = (if fmt = 0 then 4 else if fmt = 1 then 2 else 1) → ad = (fld ((r.regs[rb.toNat]?).getD 0) 6 15).toNat * 64 →
      engCheck .mx .write ad (4096 * len) s = .ok s1 → Memory.wf (core s).sp.mem = true →
      ∃ t, exec (.uopDrain ra rb fmt sr sat st) s = .next t ∧ goesOnAs { n with regs := stepped r rb st } 64 s t
        ∧ Map.get (core t).gens 2 1 = (if sr then steps 4096 (Map.get (core s).gens 2 1) else Map.get (core s).gens 2 1)
        ∧ ∀ k < 4096, Memory.readLE (core t).sp.mem (ad + len * k) len
            = drainElem fmt sat (tileAt (pme s) (fld ((r.regs[ra.toNat]?).getD 0) 0 5).toNat)
                (if sr then .sr (genDraw (steps (k + 1) (Map.get (core s).gens 2 1))) else .rne) k % 2 ^ (8 * len))
    ∧ (∀ (ra rb : BitVec 3) (c : Bool) (ad tile : Nat) (s1 : State), tile = (fld ((r.regs[ra.toNat]?).getD 0) 0 5).toNat →
      ad = (fld ((r.regs[rb.toNat]?).getD 0) 6 15).toNat * 64 → engCheck .mx .write ad 8 s = .ok s1 →
      Memory.wf (core s).sp.mem = true →
      ∃ t, exec (.uopStat ra rb c) s = .next t ∧ goesOnAs n 0 s t
        ∧ Memory.readLE (core t).sp.mem ad 8 = (tileWord (tileAt (pme s) tile)).toNat
        ∧ (c = true → ∀ x, tileAt (pme s) tile = some x →
            tileAt (pme t) tile = some { x with sat := false, gov := false, ufl := false }))
    ∧ (∀ (ra rb : BitVec 3) (nc : BitVec 2) (u : Bool) (st : BitVec 32) (la ab w : Nat) (s1 s2 : State),
      w = (if r.ent.narrow then 128 else 64) →
      la = (fld ((r.regs[ra.toNat]?).getD 0) 6 15).toNat * 64 → ab = (fld ((r.regs[rb.toNat]?).getD 0) 6 15).toNat * 64 →
      let place := fun i => 128 * (i / sparseN nc) + (spByte s (la + i)).toNat % 128
      engCheck .mx .read la w s = .ok s1 →
      engCheckListed (spidxBytes r.ent.narrow ab (sparseSpan r nc) ((List.range w).map place)) s1 = .ok s2 →
      ∃ t b, exec (.uopSpidx ra rb nc u st) s = .next t ∧ goesOnAs { n with
          b := b, regs := stepped { r with regs := stepped r ra (BitVec.ofNat 32 w) } rb st } 0 s t
        ∧ ∀ j < 64, ∀ i < w, b[w * j + (w - 1 - i)]? = some (activationAt s r.ent.narrow u ab (sparseSpan r nc * j + place i)))

/-- R145 to R149, R154, R156, R164, R167 to R169: the micro-operations of the matrix engine.
Where the spec leaves a choice, the statement follows the model's: log 25. -/
def Obligations.MicroOperationResults : Prop := MicroOperations ∧ MicroOperationsOnTiles

/-- R146, R155, R160 to R163, R173 to R176: the call at the head of the queue starts when it can and its operand banks are FULL: a valid
routine at its first micro-operation with the call's parameters, an upload with its time; a routine that is not valid faults
ILLEGAL_OP. An upload that is done enters the store. An MSQL reads its next entry, a staged entry enters the scale queue, a
release takes its tile, and a status value is sampled and readable 8 engine cycles later.
Where the spec leaves a choice, the statement follows the model's: logs 1 and 102. -/
def Obligations.MatrixEngineSteps : Prop :=
  ∀ s : State,
    (∀ k ks, (pme s).calls = k :: ks → canStart s = true →
      (∀ x ∈ callRanges s k, x.1 + x.2 ≤ spSize → banksFull (core s) x.1 x.2 = true) →
      (∀ idx e, k.kind = .call idx → Map.find? (pme s).dir idx = some e → e.valid = true →
        ∃ t r, exec .routineStart s = .next t ∧ (pme t).run = some r ∧ r.uaddr = 0 ∧ r.regs = k.regs ∧ r.ent = e ∧ r.idx = idx
          ∧ r.passes = 0 ∧ r.stk = [] ∧ r.exp = none ∧ (∀ i ∈ r.i, i = 0) ∧ othersKept s t)
      ∧ (∀ idx, k.kind = .call idx → (∀ e, Map.find? (pme s).dir idx = some e → e.valid = false) → (pme s).fault = none →
        ∃ t, exec .routineStart s = .next t ∧ routineFaults 0x02 0 s t)
      ∧ (∀ idx a h0 h1, k.kind = .mupl idx a h0 h1 → ∃ t n, exec .routineStart s = .next t ∧ (pme t).mupl = some n ∧ s.now ≤ n
          ∧ (pme t).calls = (pme s).calls ∧ othersKept s t))
    ∧ (∀ n k ks idx a h0 h1 s1, (pme s).mupl = some n → n ≤ s.now → (pme s).calls = k :: ks → k.kind = .mupl idx a h0 h1 →
      engCheck .mx .read (muplCode a h0).1 (muplCode a h0).2 s = .ok s1 →
      (verifyImage h0 h1 (imageWords (core s).sp.mem a (fld h0 11 11).toNat) = none →
        ∃ t, exec .muplRun s = .next t ∧ (pme t).mupl = none ∧ (pme t).calls = ks ∧ (pme t).ended = k.seq
          ∧ Map.find? (pme t).dir idx = some (entOf h0 h1) ∧ othersKept s t
          ∧ ∀ j < (fld h0 11 11).toNat, Map.find? (pme t).code ((fld h0 0 11).toNat + j)
              = some (BitVec.ofNat 64 (Memory.readLE (core s).sp.mem (a + 16 + 8 * j) 8))))
    ∧ (∀ m, (pme s).msqls = [m] → readDue s m = true →
      checkRegion s.regions (core s).ctx (.sp s.cur) .read (m.addr + 64 * m.read) 64 = .ok () →
      banksFull (core s) (m.addr + 64 * m.read) 64 = true → spacePoison s (.sp s.cur) (m.addr + 64 * m.read) 64 = none →
      ∃ t, exec .msqlEntryRead s = .next t ∧ othersKept s t ∧ (pme t).msqls = [{ m with
        read := m.read + 1
        stg := m.stg ++ [(BitVec.ofNat 512 (Memory.readLE (core s).sp.mem (m.addr + 64 * m.read) 64), s.now + mDiv s)] }])
    ∧ (∀ m ms x n rest, (pme s).msqls = m :: ms → m.stg = (x, n) :: rest → n ≤ s.now → (pme s).scales.length < 64 →
      ∃ t, exec .scaleEntryEnqueue s = .next t ∧ (pme t).scales = (pme s).scales ++ [x] ∧ othersKept s t)
    ∧ (∀ a, (pme s).acrels = [a] → acrelDue s a = true → Map.rising (pme s).tiles = true →
      ∃ t, exec .acrelEffect s = .next t ∧ (pme t).acrels = [] ∧ othersKept s t
        ∧ (∀ k, tileAt (pme t) k = if a.tile = 32 ∨ k = a.tile then none else tileAt (pme s) k))
    ∧ (∀ x, (pme s).samples = [x] → sampleDue s x = true → ∃ t v, exec .statusSample s = .next t ∧ othersKept s t
        ∧ (pme t).samples = [{ x with value := some (v, s.now + 8 * mDiv s) }]
        ∧ (∀ k, x.kind = .mstat k → v = tileWord (tileAt (pme s) k))
        ∧ (∀ k b, x.kind = .mtst k b → v = if (tileWord (tileAt (pme s) k)).getLsbD b then 1 else 0)
        ∧ (∀ c, x.kind = .msqr c → v = msqrWord (pme s) ∧ (c = true → (pme t).scales = [] ∧ (pme t).msqls = [])))

/-! ### Scalar work in the copy slots (R201, R202) -/

/-- The three-operand instructions of the copy slots: f(x, y) and the latency (R201). -/
def Sys2Proof.Machine.Claims.copyOps : List ((CU → Pred → Reg → Reg → Opnd → Instr) × (Word → Word → Word) × Nat) :=
  [(.kadd, fun x y => x + y, 1), (.ksub, fun x y => x - y, 1), (.kmul, fun x y => x * y, 3), (.kand, fun x y => x &&& y, 1),
   (.kor, fun x y => x ||| y, 1), (.kxor, fun x y => x ^^^ y, 1), (.kshl, fun x y => x <<< (fld y 0 6).toNat, 1),
   (.kshr, fun x y => x >>> (fld y 0 6).toNat, 1), (.ksra, fun x y => x.sshiftRight (fld y 0 6).toNat, 1),
   (.kmin, fun x y => if x.toInt ≤ y.toInt then x else y, 1), (.kmax, fun x y => if x.toInt ≤ y.toInt then y else x, 1)]

/-- The conditions of KCMP by code (R202). -/
def Sys2Proof.Machine.Claims.copyTests : List (BitVec 3 × (Word → Word → Bool)) :=
  [(0, fun x y => decide (x = y)), (1, fun x y => decide (x ≠ y)), (2, fun x y => decide (x.toInt < y.toInt)),
   (3, fun x y => decide (y.toInt ≤ x.toInt)), (4, fun x y => decide (x.toNat < y.toNat)), (5, fun x y => decide (y.toNat ≤ x.toNat))]

/-- R201, R202: with a true predicate and readable sources KMOV gives its operand and the other eleven give f(k[a], opnd); KCLZ
and KPOPC count the leading zero bits and the one bits; KCMP sets fc[d] by its condition; KSEL takes k[a] when fc[e] is true
and k[b] when it is not. Each lands after its latency, and nothing else changes. -/
def Sys2Proof.Machine.Claims.CopySlotScalarResults : Prop :=
  ∀ (w : CU) (p : Pred) (a : Reg) (s : State) (u : Word), predOn (core s) w.slot p = true → rdX (core s) w.slot a = .ok u →
    (∀ (d : Reg) (o : Opnd) (v : Word), rdO (core s) w.slot o = .ok v →
      exec (.kmov w p d o) s = .next (delivered w.slot [] (lands w.slot d v 1) s)
      ∧ ∀ x ∈ copyOps, exec (x.1 w p d a o) s = .next (delivered w.slot [] (lands w.slot d (x.2.1 u v) x.2.2) s))
    ∧ (∀ d : Reg, (∃ n, exec (.kclz w p d a) s = .next (delivered w.slot [] (lands w.slot d (BitVec.ofNat 64 n) 1) s)
        ∧ n ≤ 64 ∧ u.toNat < 2 ^ (64 - n) ∧ (n < 64 → 2 ^ (63 - n) ≤ u.toNat))
      ∧ exec (.kpopc w p d a) s = .next (delivered w.slot []
          (lands w.slot d (BitVec.ofNat 64 ((List.range 64).filter (fun i => u.getLsbD i)).length) 1) s))
    ∧ (∀ x ∈ copyTests, ∀ (d : BitVec 2) (o : Opnd) (v : Word), rdO (core s) w.slot o = .ok v →
      exec (.kcmp w p d x.1 a o) s = .next (delivered w.slot [] (predLands w.slot d.toNat (boolWord (x.2 u v)) 1 1) s))
    ∧ (∀ (d b : Reg) (e : BitVec 2) (v : Word), rdX (core s) w.slot b = .ok v →
      exec (.ksel w p d a b e) s = .next (delivered w.slot []
        (lands w.slot d (if getP (core s) w.slot e.toNat = 0 then v else u) 1) s))

/-- R70 to R74, R201, R202: the arithmetic, compares, predicate logic and selects of the S slot, and the scalar work of the copy
slots: each completes, its result lands after its latency, and nothing else changes.
Where the spec leaves a choice, the statement follows the model's: log 16. -/
def Obligations.ScalarSlotResults : Prop := ScalarArithmeticResults ∧ ScalarPredicateResults ∧ CopySlotScalarResults

/-! ### The copy channels (R205 to R222) -/

/-- The checks of EGO on channel `k` on its two sides, the source `src` and the destination `dst`, for copies of `n` bytes at the levels `ls`:
the handle, the bytes in scratchpad, the regions and the races all pass (R205, R211). -/
def Sys2Proof.Machine.Claims.egoPasses (k : Nat) (h : Word) (src dst : Side) (ls : List Level) (n : Nat) (least : Int) (s : State) :
    Prop :=
  let clash := chanClash (core s) s.cur k (holdsFor (core s) k src dst)
  1 ≤ n ∧ n ≤ 4096 ∧ checkSideHandle (myCtx s) h src Level.ss ls n false 0 = .ok ()
    ∧ checkSideHandle (myCtx s) h dst Level.ds ls n true least = .ok ()
    ∧ ∃ s1 s2 s3 s4, (if src.glob then s1 = s else checkLocalSide clash src Level.ss ls n .read s = .ok s1)
      ∧ (if dst.glob then s2 = s1 else checkLocalSide clash dst Level.ds ls n .write s1 = .ok s2)
      ∧ (if src.glob then checkGlobalSide clash src Level.ss ls n .read s2 = .ok s3 else s3 = s2)
      ∧ (if dst.glob then checkGlobalSide clash dst Level.ds ls n .write s3 = .ok s4 else s4 = s3)

/-- A nest with its levels and sides has joined channel `k`'s queue with nothing moved yet, and an IDLE channel is ACTIVE;
registers, scratchpad bytes and other cores are as before (R211, R216). -/
def Sys2Proof.Machine.Claims.nestQueued (k : Nat) (dir : Dir) (src dst : Side) (n : Nat) (s t : State) : Prop :=
  (∃ y, (getChan (core t) k).q = (getChan (core s) k).q ++ [y] ∧ y.dir = dir ∧ y.src = src ∧ y.dst = dst ∧ y.size = n
      ∧ y.levels = levelsOf (getChan (core s) k) ∧ y.readG = [] ∧ y.fillG = [] ∧ y.srcDone = 0 ∧ y.fillDone = 0
      ∧ y.seq = (core s).eseq)
    ∧ (getChan (core t) k).st = (if (getChan (core s) k).st = .idle then .active else (getChan (core s) k).st)
    ∧ othersKept s t ∧ (core t).sp.mem = (core s).sp.mem ∧ (core t).files = (core s).files

/-- R205, R208, R209, R211: ESET sets a level; with a free queue entry and checks that pass, each form of EGO completes and its
nest joins the channel's queue: from the handle in k[a] at the offset in k[a+1] to scratchpad at k[b], the reverse, within
scratchpad, and into the overflow area, whose offset lands in k[a] and then moves past the extent, rounded up to 64. A size of
0 or above 4,096 faults ILLEGAL_OP, and a handle that names no valid entry faults HANDLE. -/
def Obligations.NestsStart : Prop :=
  ∀ (w : CU) (p : Pred) (ch : BitVec 2) (a b e : Reg) (s : State) (ra rb re : Word), predOn (core s) w.slot p = true →
    rdX (core s) w.slot a = .ok ra → rdX (core s) w.slot b = .ok rb → rdX (core s) w.slot e = .ok re →
    let k := chanNo w ch
    let ls := levelsOf (getChan (core s) k)
    let n := re.toNat
    (∀ lvl : BitVec 3, fld ra 16 48 = 0 → (fld rb 0 32).signExtend 64 = rb → (fld re 0 32).signExtend 64 = re →
      ∃ t, exec (.eset w p ch lvl a b e) s = .next t
        ∧ getChan (core t) k = { getChan (core s) k with
            levels := Map.put (getChan (core s) k).levels lvl.toNat ⟨fld ra 0 16, fld rb 0 32, fld re 0 32⟩ }
        ∧ (∀ j, j ≠ k → getChan (core t) j = getChan (core s) j) ∧ othersKept s t ∧ (core t).files = (core s).files)
    ∧ ((getChan (core s) k).q.length < 4 →
      (∀ (g : Bool) (off : Word), rdX (core s) w.slot (nextReg a) = .ok off →
        let gl := globalSide (myCtx s) ra off.toNat
        (egoPasses k ra gl (localSide rb) ls n 0 s →
          ∃ t, exec (.egoLd w p ch g a b e) s = .next t ∧ nestQueued k .ld gl (localSide rb) n s t ∧ (core t).pend = (core s).pend)
        ∧ (egoPasses k ra (localSide rb) gl ls n 0 s →
          ∃ t, exec (.egoSt w p ch a b e) s = .next t ∧ nestQueued k .st (localSide rb) gl n s t ∧ (core t).pend = (core s).pend)
        ∧ (1 ≤ n → n ≤ 4096 → handleEnt (myCtx s) ra.toNat = none →
          ∃ f, exec (.egoLd w p ch g a b e) s = .next (slotFault w.slot f s) ∧ f.code = 0x23 ∧ fld f.info 0 16 = fld ra 0 16))
      ∧ (∀ g : Bool, egoPasses k 0 (localSide ra) (localSide rb) ls n 0 s →
        ∃ t, exec (.egoLl w p ch g a b e) s = .next t ∧ nestQueued k .ll (localSide ra) (localSide rb) n s t
          ∧ (core t).pend = (core s).pend)
      ∧ (let h := (core s).csr.ovpHnd.setWidth 64
         let off := (core s).csr.ovpOff
         let gl := globalSide (myCtx s) h off.toNat
         egoPasses k h (localSide rb) gl ls n off.toNat s →
          ∃ t, exec (.egoSp w p ch a b e) s = .next t ∧ nestQueued k .sp (localSide rb) gl n s t
            ∧ (core t).pend = (core s).pend ++ lands w.slot a (off.setWidth 64) 1 (core s)
            ∧ (nestCopies ls = 0 → (core t).csr.ovpOff = off)
            ∧ (0 < nestCopies ls → (core t).csr.ovpOff.toNat
                = (off.toNat + 64 * ((((nestHull Level.ds ls).2 + n).toNat + 63) / 64)) % 2 ^ 48))
      ∧ (∀ g : Bool, n = 0 ∨ 4096 < n → exec (.egoLl w p ch g a b e) s = .next (slotFault w.slot (illegalOp s) s)))

/-- R216, R217: on the channels that the mask names, ESUSP suspends those that are ACTIVE; ERES makes SUSPENDED ones, and FAULTED
ones whose fault has been delivered, ACTIVE; ECAN leaves each IDLE with no entry and no fault; ECLR
resets each, and faults ILLEGAL_OP with no change while one is not IDLE. CFENCE holds what is issued to them later behind what
they hold now. Channels outside the mask are as before. -/
def Sys2Proof.Machine.Claims.ChannelStates : Prop :=
  ∀ (w : CU) (p : Pred) (mask : BitVec 4) (s : State), predOn (core s) w.slot p = true →
    let m := maskChans w mask
    let x := fun k => getChan (core s) k
    (∃ t, exec (.esusp w p mask) s = .next t ∧ othersKept s t ∧ (core t).sp = (core s).sp
      ∧ ∀ k, getChan (core t) k = if k ∈ m ∧ (x k).st = .active then { x k with st := .suspended } else x k)
    ∧ (∃ t, exec (.eres w p mask) s = .next t ∧ othersKept s t ∧ (core t).sp = (core s).sp
      ∧ ∀ k, getChan (core t) k = if k ∈ m ∧ ((x k).st = .suspended ∨ ((x k).st = .faulted ∧ (x k).delivered = true)) then
          { x k with st := .active, fault := none, delivered := false } else x k)
    ∧ (quiet s → ∃ t, exec (.ecan w p mask) s = .next t ∧ (core t).files = (core s).files ∧ (core t).pend = (core s).pend
      ∧ ∀ k, getChan (core t) k = if k ∈ m ∧ (x k).st ≠ .idle then
          { x k with st := .idle, q := [], fault := none, delivered := false } else x k)
    ∧ ((∀ k ∈ m, (x k).st = .idle) → ∃ t, exec (.eclr w p mask) s = .next t ∧ othersKept s t ∧ (core t).sp = (core s).sp
      ∧ ∀ k, getChan (core t) k = if k ∈ m then {} else x k)
    ∧ (∀ k ∈ m, (x k).st ≠ .idle → exec (.eclr w p mask) s = .next (slotFault w.slot (illegalOp s) s))
    ∧ (∃ t, exec (.cfence w p mask) s = .next t ∧ othersKept s t ∧ (core t).sp = (core s).sp
      ∧ (core t).chans = (core s).chans
      ∧ (mask ≠ 0 → ∃ hs v, (core t).holds = hs ++ [(v, (core s).eseq, false)] ∧ ∀ k < 8, v.getLsbD k = decide (k ∈ m)))

/-- The four forms of WAITW with their conditions (R219). -/
def Sys2Proof.Machine.Claims.waitForms :
    List ((CU → Pred → BitVec 2 → Option Reg → Opnd → Instr) × (Chan → Word → Prop)) :=
  [(.waitwF, fun x v => v.toNat ≤ x.wmf.toNat), (.waitwS, fun x v => v.toNat ≤ x.wms.toNat),
   (.waitwCF, fun x v => (x.ccf - v.setWidth 32).toNat < 2 ^ 31), (.waitwCS, fun x v => (x.ccs - v.setWidth 32).toNat < 2 ^ 31)]

/-- R219, R220, R222: WAITW issues and changes nothing where its condition holds; where it does not, the core freezes under
cause 9 while the channel is ACTIVE, takes the fault of a FAULTED channel, and otherwise faults ILLEGAL_OP. CWM gives WMF, WMS,
CCF and CCS. EQRY gives the state, the number of entries and the head entry's marks, and the indices of its oldest incomplete
copy with the granules of it that have moved. -/
def Sys2Proof.Machine.Claims.WaitsAndQueries : Prop :=
  ∀ (w : CU) (p : Pred) (ch : BitVec 2) (s : State), predOn (core s) w.slot p = true →
    let k := chanNo w ch
    let x := getChan (core s) k
    (∀ f ∈ waitForms, ∀ (base : Option Reg) (o : Opnd) (u v : Word), (base = none → u = 0) →
      (∀ a, base = some a → rdX (core s) w.slot a = .ok u) → rdO (core s) w.slot o = .ok v →
      (f.2 x (u + v) → exec (f.1 w p ch base o) s = .next (delivered w.slot [] (fun _ => []) s))
      ∧ (¬ f.2 x (u + v) →
        (x.st = .active → exec (f.1 w p ch base o) s = .next (freeze 9 s))
        ∧ (x.st ≠ .active → x.fault = none → exec (f.1 w p ch base o) s = .next (slotFault w.slot (illegalOp s) s))
        ∧ (∀ e, x.st ≠ .active → x.fault = some e →
          exec (f.1 w p ch base o) s = .next (slotFault w.slot e (updCore (markDelivered k) s)))))
    ∧ (∀ y ∈ [((0 : BitVec 2), x.wmf), (1, x.wms), (2, x.ccf.setWidth 64), (3, x.ccs.setWidth 64)], ∀ d,
      exec (.cwm w p d ch y.1) s = .next (delivered w.slot [] (lands w.slot d y.2 1) s))
    ∧ (∀ d, ∃ v0 v1 v2 : Word, exec (.eqry w p d ch 0) s = .next (delivered w.slot [] (lands w.slot d v0 1) s)
      ∧ exec (.eqry w p d ch 1) s = .next (delivered w.slot [] (lands w.slot d v1 1) s)
      ∧ exec (.eqry w p d ch 2) s = .next (delivered w.slot [] (lands w.slot d v2 1) s)
      ∧ (fld v0 0 2).toNat = x.st.code ∧ (x.q.length ≤ 4 → (fld v0 2 3).toNat = x.q.length)
      ∧ (x.q = [] → v1 = 0 ∧ v2 = 0)
      ∧ (∀ e es, x.q = e :: es → es.length ≤ 3 → v0.getLsbD 5 = e.guarded ∧ v0.getLsbD 6 = e.monoD ∧ v0.getLsbD 7 = e.monoS
          ∧ (e.empty = false → (∀ i < 4, fld v1 (16 * i) 16 = BitVec.ofNat 16 (((nestIdx e.levels e.fillDone)[i]?).getD 0))
            ∧ (∀ i < 2, fld v2 (16 * i) 16 = BitVec.ofNat 16 (((nestIdx e.levels e.fillDone)[4 + i]?).getD 0))
            ∧ fld v2 32 16 = BitVec.ofNat 16
                ((List.range (copyGrans e e.fillDone)).filter (granFilled e e.fillDone)).length)))

/-- R216, R217, R219, R220, R222: the instructions that change and read the state of the copy channels, and their waits.
Where the spec leaves a choice, the statement follows the model's: logs 68 and 76. -/
def Obligations.ChannelInstructions : Prop := ChannelStates ∧ WaitsAndQueries

/-- R212 to R216, R221, R222: a granule of a nest that may be read, where nothing faults, is read and no byte of memory changes; one
that has been read and may be written stands at its destination. When a nest of one copy in one granule has been read, CCS
counts it and WMS is its source end; when it has been written, CCF counts it, WMF is its destination end and the nest leaves. An
empty nest counts once in each counter when it has come to the head of the stream, and not before; it moves no data and leaves
WMF and WMS. A granule that meets a fault leaves the channel FAULTED with the fault to be delivered.
Where the spec leaves a choice, the statement follows the model's: logs 1, 18, 66 and 67. -/
def Obligations.CopyProgress : Prop :=
  ∀ (s : State) (ch : BitVec 3), let x := getChan (core s) ch.toNat
    (∀ (c g i j : Nat) (e : Entry), locate x.q 0 c = some (i, e, j) → quiet s →
      let src := granSrc e j g
      let dst := granDst e j g
      (e.empty = false → mayRead (core s) ch.toNat x i e j g = true → moveFault e s e.src .read src.1 src.2 = none →
        readReady s e j g = true →
        ∃ t, exec (.copyComplete ch c g .read) s = .next t ∧ (core t).sp.mem = (core s).sp.mem ∧ t.dram.hbm = s.dram.hbm
          ∧ t.dram.cap = s.dram.cap ∧ (core t).files = (core s).files
          ∧ (x.q = [e] → entryCopies e = 1 → copyGrans e 0 = 1 → e.srcDone = 0 → e.fillDone = 0 → e.readG = [] → e.fillG = [] →
            getChan (core t) ch.toNat = { x with
              ccs := x.ccs + 1, wms := BitVec.ofInt 64 (copySrc e 0 + e.size)
              q := [{ e with readG := [(0, 0, spaceRead s (sideSpace s.cur e.src) src.1 src.2)], srcDone := 1 }] }))
      ∧ (e.empty = false → mayFill (core s) ch.toNat x i e j g = true → moveFault e s e.dst .write dst.1 dst.2 = none →
        fillReady s e j g = true →
        ∃ t, exec (.copyComplete ch c g .fill) s = .next t ∧ (core t).files = (core s).files
          ∧ (e.dst.glob = false → Memory.wf (core s).sp.mem = true →
            ∀ b, ∀ y : Byte, (heldBytes e j g)[b]? = some y → spByte t (dst.1 + b) = y)
          ∧ (e.dst.glob = true → e.dst.kind = 0 → Memory.wf s.dram.hbm = true →
            ∀ b, ∀ y : Byte, (heldBytes e j g)[b]? = some y → Memory.read t.dram.hbm (dst.1 + b) = y)
          ∧ (∀ bs, x.q = [e] → entryCopies e = 1 → copyGrans e 0 = 1 → e.srcDone = 1 → e.fillDone = 0 → e.readG = [(0, 0, bs)] →
            e.fillG = [] → getChan (core t) ch.toNat = { x with
              ccf := x.ccf + 1, wmf := BitVec.ofInt 64 (copyDst e 0 + e.size), q := []
              st := if x.st = .active then .idle else x.st }))
      ∧ (∀ st, e.empty = true → x.q = [e] → x.st = .active → (∀ h ∈ e.hold, holdStands (core s) h = false) →
        ∃ t, exec (.copyComplete ch c g st) s = .next t
          ∧ getChan (core t) ch.toNat = { x with ccs := x.ccs + 1, ccf := x.ccf + 1, q := [], st := .idle }
          ∧ (core t).sp.mem = (core s).sp.mem ∧ (core t).files = (core s).files ∧ othersKept s t ∧ t.dram = s.dram)
      ∧ (∀ st, e.empty = true → 0 < i → exec (.copyComplete ch c g st) s = .next s))
    ∧ (∀ i e n g code info, firstUnread x.q = some (i, e, n, g) → mayRead (core s) ch.toNat x i e n g = true →
      moveFault e s e.src .read (granSrc e n g).1 (granSrc e n g).2 = some (code, info) →
      ∃ t f, exec (.copyFault ch) s = .next t ∧ othersKept s t ∧ (core t).sp = (core s).sp
        ∧ getChan (core t) ch.toNat = { x with st := .faulted, fault := some f, delivered := false }
        ∧ f.code = code ∧ f.info = info ∧ f.defer = true ∧ f.w3.toNat % 8 = ch.toNat)

/-! ### The broadcast bus (R224, R225) -/

/-- R224, R225: BCAST with a legal label and mask, checks that pass and a free landing entry in every receiver, all of which run its
context, reserves those entries, and its 256 bytes wait for the bus. BLATCH and BLTRY write a block that has landed to scratchpad
and free its entry; without one BLATCH freezes under cause 7 and BLTRY writes 0 to fc[d]. The bus drives the waiting block,
and 8 reference cycles later it stands in each receiver's entry. -/
def Obligations.BroadcastBus : Prop :=
  (∀ (w : CU) (p : Pred) (bus : BitVec 2) (a b : Reg) (s s1 : State) (label ad : Word), predOn (core s) w.slot p = true →
    rdX (core s) w.slot a = .ok label → rdX (core s) w.slot b = .ok ad → label.toNat < 2 ^ 16 →
    (∀ (e : Reg) (mask : Word), rdX (core s) w.slot e = .ok mask → mask ≠ 0 →
      checkLocal .sl .read ad.toNat 256 64 s = .ok s1 → checkPoison (core s) ad.toNat 256 = .ok () →
      (∀ i < 64, mask.getLsbD i = true → runsCtx (coreAt s (64 * dieNo s.cur + i)) (core s).ctx = true
        ∧ landFree (coreAt s (64 * dieNo s.cur + i)) bus (label.setWidth 16) = true) →
      ∃ t m, exec (.bcast w p bus a b e) s = .next t
        ∧ busQ t (busKey (dieNo s.cur) bus) = busQ s (busKey (dieNo s.cur) bus) ++ [m]
        ∧ m.core = s.cur ∧ m.ctx = (core s).ctx ∧ m.label = label.setWidth 16 ∧ m.lands = none ∧ m.issued = s.now
        ∧ m.data = Memory.readBytes (viewMem (core s)) ad.toNat 256
        ∧ (∀ i < 64, (64 * dieNo s.cur + i ∈ m.recv ↔ mask.getLsbD i = true)
          ∧ (coreAt t (64 * dieNo s.cur + i)).land = (coreAt s (64 * dieNo s.cur + i)).land
              ++ (if mask.getLsbD i then [⟨bus, label.setWidth 16, none⟩] else [])))
    ∧ (landed (core s) bus label = none → exec (.blatch w p bus a b) s = .next (freeze 7 s))
    ∧ (checkLocal .sl .write ad.toNat 256 64 s = .ok s1 →
      (landed (core s) bus label = none →
        ∀ d : BitVec 2, exec (.bltry w p d a b bus) s = .next (delivered w.slot [] (predLands w.slot d.toNat 0 1 1) s))
      ∧ (∀ bs, landed (core s) bus label = some bs → Memory.wf (core s).sp.mem = true → ∀ i ∈ Instr.blatch w p bus a b ::
          (List.range 4).map (fun d => Instr.bltry w p (BitVec.ofNat 2 d) a b bus),
        ∃ t, exec i s = .next t ∧ othersKept s t ∧ landEnt (core t) bus (label.setWidth 16) = none
          ∧ (∀ k, ∀ y : Byte, bs[k]? = some y → spByte t (ad.toNat + k) = y)
          ∧ ∀ d : BitVec 2, i = .bltry w p d a b bus → (core t).pend = (core s).pend ++ predLands w.slot d.toNat 1 1 1 (core s))))
  ∧ (∀ (s : State) (bus : BitVec 2) (m : Bcast), busQ s (busKey (dieNo s.cur) bus) = [m] →
    (m.lands = none → m.issued < s.now → ∃ t, exec (.bcastDrive bus) s = .next t
      ∧ busQ t (busKey (dieNo s.cur) bus) = [{ m with lands := some (s.now + 8) }] ∧ t.cores = s.cores)
    ∧ (∀ n, m.lands = some n → n ≤ s.now → ∃ t, exec (.bcastLanding bus) s = .next t
      ∧ busQ t (busKey (dieNo s.cur) bus) = []
      ∧ (∀ g ∈ m.recv, (coreAt s g).ctx = m.ctx → ∀ e, landEnt (coreAt s g) bus m.label = some e → e.data = none →
          landed (coreAt t g) bus (m.label.setWidth 64) = some m.data)
      ∧ (∀ g, g ∉ m.recv → coreAt t g = coreAt s g)))

/-! ### The gather engine (R306, R310 to R320) -/

/-- An operation `o` has joined the acting core's gather queue: GISS counts it, its sequence number is on its way to the register
`d` of slot `sl`, and nothing has been performed (R310). -/
def Sys2Proof.Machine.Claims.gatherQueued (sl : Slot) (d : Reg) (o : GOp) (s t : State) : Prop :=
  (core t).gather = { (core s).gather with giss := (core s).gather.giss + 1, q := (core s).gather.q ++ [o] }
    ∧ o.slot = sl ∧ o.seq = (core s).gather.giss + 1 ∧ o.started = false ∧ o.prog = 0
    ∧ (core t).pend = (core s).pend ++ lands sl d (((core s).gather.giss + 1).setWidth 64) 1 (core s)
    ∧ (core t).sp.mem = (core s).sp.mem ∧ othersKept s t

/-- R310, R311, R317, R320: with fewer than 8 operations queued, legal operands and local extents that pass their checks (an extent of no byte has
none), GATH, SCAT,
KVAPP and the prefix instructions complete and join the queue. An element size of 0 faults ILLEGAL_OP; a full queue freezes
under cause 8. -/
def Sys2Proof.Machine.Claims.GatherInstructions : Prop :=
  ∀ (w : CU) (p : Pred) (t4 : BitVec 4) (pp l d : Reg) (s : State) (x0 x1 y0 y1 z : Word), predOn (core s) w.slot p = true →
    rdX (core s) w.slot pp = .ok x0 → rdX (core s) w.slot (pp + 1) = .ok x1 → rdX (core s) w.slot l = .ok y0 →
    rdX (core s) w.slot (l + 1) = .ok y1 → rdX (core s) w.slot d = .ok z →
    let size := (fld x1 0 13).toNat
    ((core s).gather.q.length < 8 →
      (y1.toNat ≤ 65536 → x0.toNat < 2 ^ 56 → fld x1 14 2 = 0 → fld x1 48 16 = 0 →
        (∀ s1 s2, 1 ≤ size → gaIssue .read y0.toNat (4 * y1.toNat) 4 s = .ok s1 →
          (gaIssue .write z.toNat (y1.toNat * size) 1 s1 = .ok s2 → ∃ t o, exec (.gath w p false t4 pp l d) s = .next t
            ∧ gatherQueued w.slot (t4.setWidth 5) o s t ∧ o.kind = .gath false ∧ o.base = x0.toNat ∧ o.size = size
            ∧ o.stride = (fld x1 16 32).toNat ∧ o.list = y0.toNat ∧ o.n = y1.toNat ∧ o.loc = z.toNat)
          ∧ (gaIssue .read z.toNat (y1.toNat * size) 1 s1 = .ok s2 → ∃ t o, exec (.scat w p t4 pp l d) s = .next t
            ∧ gatherQueued w.slot (t4.setWidth 5) o s t ∧ o.kind = .scat ∧ o.base = x0.toNat ∧ o.size = size
            ∧ o.stride = (fld x1 16 32).toNat ∧ o.list = y0.toNat ∧ o.n = y1.toNat ∧ o.loc = z.toNat)
          ∧ (size % 4 = 0 → z.toNat % 4 = 0 → gaIssue .write z.toNat size 1 s1 = .ok s2 →
            ∃ t o, exec (.gath w p true t4 pp l d) s = .next t ∧ gatherQueued w.slot (t4.setWidth 5) o s t
              ∧ o.kind = .gath true ∧ o.size = size ∧ o.n = y1.toNat ∧ o.loc = z.toNat ∧ o.alt = x1.getLsbD 13))
        ∧ (size = 0 → ∀ i ∈ [Instr.gath w p false t4 pp l d, .scat w p t4 pp l d],
          exec i s = .next (slotFault w.slot (illegalOp s) s)))
      ∧ (∀ (nr : Bool) (s1 s2 : State) (n : Nat), n = (fld x1 32 11).toNat → x0.toNat % 65536 = 0 → x0.toNat < 2 ^ 56 →
        2 ≤ n → n % 2 = 0 → n * (if x1.getLsbD 43 then 2 else 4) ≤ 2048 → fld x1 44 20 = 0 →
        checkLocal .ga .read y0.toNat (8 * n) 4 s = .ok s1 →
        (if nr then s2 = s1 else checkLocal .ga .read y1.toNat (2 * n) 4 s1 = .ok s2) →
        ∃ t o, exec (.kvapp w p nr t4 pp l) s = .next t ∧ gatherQueued w.slot (t4.setWidth 5) o s t
          ∧ o.kind = .kvapp nr ∧ o.base = x0.toNat ∧ o.n = n ∧ o.loc = y0.toNat ∧ o.pos = (fld x1 0 32).toNat
          ∧ o.alt = x1.getLsbD 43 ∧ (nr = false → o.loc2 = y1.toNat))
      ∧ (∀ s1, checkLocal .ga .write z.toNat 80 16 s = .ok s1 →
        (∃ t o, exec (.pxlook w p t4 d) s = .next t ∧ gatherQueued w.slot (t4.setWidth 5) o s t ∧ o.kind = .pxlook ∧ o.loc = z.toNat)
        ∧ (0 ≤ myAlw s → ∃ t o, exec (.pxins w p t4 d) s = .next t ∧ gatherQueued w.slot (t4.setWidth 5) o s t
          ∧ o.kind = .pxins ∧ o.loc = z.toNat)
        ∧ (∃ t o, exec (.pxdrop w p t4 d) s = .next t ∧ gatherQueued w.slot (t4.setWidth 5) o s t ∧ o.kind = .pxdrop
          ∧ o.loc = z.toNat)))
    ∧ (8 ≤ (core s).gather.q.length → ∀ i ∈ [Instr.gath w p false t4 pp l d, .gath w p true t4 pp l d, .scat w p t4 pp l d,
        .kvapp w p false t4 pp l, .kvapp w p true t4 pp l, .pxlook w p t4 d, .pxins w p t4 d, .pxdrop w p t4 d],
      exec i s = .next (freeze 8 s))

/-- R314: GWAIT issues and changes nothing once GDONE has reached its ticket, and GWAIT.ALL once GDONE equals GISS; until then the
core freezes under cause 9; a ticket ahead of GISS faults ILLEGAL_OP. GWAIT.CAN lets the element in flight complete, drops the
queue with its fault and sets GDONE to GISS. -/
def Sys2Proof.Machine.Claims.GatherWaits : Prop :=
  ∀ (w : CU) (p : Pred) (s : State), predOn (core s) w.slot p = true →
    let q := (core s).gather
    (∀ (a : Reg) (v : Word), rdX (core s) w.slot a = .ok v →
      ((q.giss - v.setWidth 32).toNat < 2 ^ 31 →
        ((q.gdone - v.setWidth 32).toNat < 2 ^ 31 →
          exec (.gwait w p a) s = .next (delivered w.slot [] (fun _ => []) s))
        ∧ (2 ^ 31 ≤ (q.gdone - v.setWidth 32).toNat → exec (.gwait w p a) s = .next (freeze 9 s)))
      ∧ (2 ^ 31 ≤ (q.giss - v.setWidth 32).toNat → exec (.gwait w p a) s = .next (slotFault w.slot (illegalOp s) s)))
    ∧ (q.gdone = q.giss → exec (.gwaitAll w p) s = .next (delivered w.slot [] (fun _ => []) s))
    ∧ (q.gdone ≠ q.giss → exec (.gwaitAll w p) s = .next (freeze 9 s))
    ∧ exec (.gwaitCan w p) s
        = .next (updCore (fun c => killMarks w.slot [] { c with gather := { giss := q.giss, gdone := q.giss } })
          (finishElem s))

/-- R310, R311, R314, R317, R320: the instructions of the gather engine and their waits.
Where the spec leaves a choice, the statement follows the model's: logs 71 and 72. -/
def Obligations.GatherSlotResults : Prop := GatherInstructions ∧ GatherWaits

/-- The head operation of the acting core's gather queue is gone and GDONE counts it. -/
def Sys2Proof.Machine.Claims.gatherDone (s t : State) : Prop :=
  (core t).gather = { (core s).gather with q := (core s).gather.q.tail, gdone := (core s).gather.gdone + 1 }

/-- The gather engine of the acting core's die serves its queue alone: no other core of the die, live or saved, has one. -/
def Sys2Proof.Machine.Claims.gathersAlone (s : State) : Prop :=
  s.cur < 256 ∧ (∀ i ∈ s.images, dieNo i.core ≠ dieNo s.cur)
    ∧ ∀ g, g ≠ s.cur → dieNo g = dieNo s.cur → (coreAt s g).gather.q = []

/-- R306, R309 to R313, R317, R320: the head operation starts; the last element of a GATH puts the translated bytes of HBM in
scratchpad, as its page reads them and as they are where its lines are stored as the page stores them, and that of a SCAT puts bytes of scratchpad in HBM; an unrotated KVAPP writes its converted K and V vectors; each
completes and GDONE counts it. An element whose list entry may not be read, or which ends above 2^56, leaves the queue FAULTED
with its progress kept and nothing written.
Where the spec leaves a choice, the statement follows the model's: logs 1 and 61. -/
def Obligations.GatherElements : Prop :=
  ∀ (s : State) (o : GOp) (os : List GOp), (core s).gather.q = o :: os → (core s).gather.fault = none →
    (∀ i ∈ s.images, i.core ≠ s.cur) → o.rest = [] →
    let la := o.list + 4 * o.prog
    let va := o.base + Memory.readLE (core s).sp.mem la 4 * o.stride
    (o.started = false → ∃ t, exec .gatherOpStart s = .next t ∧ othersKept s t ∧ (core t).sp.mem = (core s).sp.mem
      ∧ (core t).gather = { (core s).gather with q := { o with started := true } :: os })
    ∧ (o.started = true → gathersAlone s → o.n = o.prog + 1 → va + o.size ≤ 2 ^ 56 →
      ∀ t0 t1 t2 pa, gaLocal .read la 4 s = .ok t0 → banksFull (core s) la 4 = true →
        banksFull (core s) (o.loc + o.prog * o.size) o.size = true →
        (o.kind = .gath false → gaGlobal .read (pieces va o.size) t0 = .ok ([(.hbm, pa, o.size)], t1) →
          gaLocal .write (o.loc + o.prog * o.size) o.size t1 = .ok t2 → Memory.wf (core s).sp.mem = true →
          ∃ t, exec .gatherOpComplete s = .next t ∧ gatherDone s t
            ∧ (∀ k < o.size, (viewRead s (leafMode s (myCtx s) va) .hbm pa o.size)[k]? = some (spByte t (o.loc + o.prog * o.size + k)))
            ∧ ((granulesOf pa o.size).all (lineAgrees s (leafMode s (myCtx s) va) .hbm) = true →
              ∀ k < o.size, spByte t (o.loc + o.prog * o.size + k) = Memory.read s.dram.hbm (pa + k)))
        ∧ (o.kind = .scat → gaLocal .read (o.loc + o.prog * o.size) o.size t0 = .ok t1 →
          gaGlobal .write (pieces va o.size) t1 = .ok ([(.hbm, pa, o.size)], t2) → Memory.wf s.dram.hbm = true →
          ∃ t, exec .gatherOpComplete s = .next t ∧ gatherDone s t
            ∧ ∀ k < o.size, Memory.read t.dram.hbm (pa + k) = spByte s (o.loc + o.prog * o.size + k)))
    ∧ (o.started = true → gathersAlone s → o.prog = 0 → o.kind = .kvapp true → ∀ (len n ka kp vp : Nat) (t0 t1 t2 : State),
      n = (if o.alt then 2 else 4) → len = o.n * n → ka = o.base + 2048 * (o.pos % 16) → kp + len ≤ vp → o.n % 2 = 0 →
      gaLocal .read o.loc (8 * o.n) s = .ok t0 → gaGlobal .write (pieces ka len) t0 = .ok ([(.hbm, kp, len)], t1) →
      gaGlobal .write (pieces (ka + 32768) len) t1 = .ok ([(.hbm, vp, len)], t2) → banksFull (core s) o.loc (8 * o.n) = true →
      Memory.wf s.dram.hbm = true →
      ∃ t, exec .gatherOpComplete s = .next t ∧ gatherDone s t ∧ ∀ j < o.n,
        Memory.readLE t.dram.hbm (kp + n * j) n
          = convert 1 (if o.alt then 2 else 1) .rne false 0 (Memory.readLE (core s).sp.mem (o.loc + 4 * j) 4) % 2 ^ (8 * n)
        ∧ Memory.readLE t.dram.hbm (vp + n * j) n
          = convert 1 (if o.alt then 2 else 1) .rne false 0 (Memory.readLE (core s).sp.mem (o.loc + 4 * (o.n + j)) 4)
              % 2 ^ (8 * n))
    ∧ (o.started = true → o.prog < o.n → o.kind = .gath false ∨ o.kind = .scat →
      (∀ e, gaLocal .read la 4 s = .error e → ∃ t f, exec .gatherElementFault s = .next t
        ∧ (core t).gather = { (core s).gather with fault := some f, told := false } ∧ f.code = e.code ∧ f.info = e.info
        ∧ f.fslot = o.slot.num ∧ f.defer = true ∧ (fld f.w3 0 32).toNat = o.prog % 2 ^ 32
        ∧ (core t).sp.mem = (core s).sp.mem ∧ t.dram = s.dram)
      ∧ (∀ t0, gaLocal .read la 4 s = .ok t0 → banksFull (core s) la 4 = true → 2 ^ 56 < va + o.size →
        ∃ t f, exec .gatherElementFault s = .next t
          ∧ (core t).gather = { (core s).gather with fault := some f, told := false } ∧ f.code = 0x21
          ∧ f.info = BitVec.ofNat 64 va ∧ f.fslot = o.slot.num ∧ t.dram = s.dram))

/-- R319, R320: a prefix operation that the index serves reads its tag and block id and writes its result word: PXLOOK answers the
entry's block id with ST 0, or ST 1; PXINS answers ST 2 for a tag that is there, 3 for a full bucket, and otherwise enters it
for the context; PXDROP removes an entry of that block id, answers ST 4 for another, and 1 for none. While the index cannot serve,
it faults UNAVAILABLE. -/
def Obligations.PrefixOperations : Prop :=
  ∀ (s t0 t1 : State) (o : GOp) (os : List GOp) (tag : List Byte) (blk : BitVec 32), (core s).gather.q = o :: os →
    (core s).gather.fault = none → (∀ i ∈ s.images, i.core ≠ s.cur) → o.started = true → o.prog = 0 →
    o.rest = [] → gathersAlone s → o.kind ∈ [GKind.pxlook, .pxins, .pxdrop] →
    tag = Memory.readBytes (core s).sp.mem o.loc 68 → blk = BitVec.ofNat 32 (Memory.readLE (core s).sp.mem (o.loc + 68) 4) →
    (pxServes s = true → gaLocal .read o.loc 72 s = .ok t0 → gaLocal .write (o.loc + 72) 8 t0 = .ok t1 →
      banksFull (core s) o.loc 80 = true → Memory.wf (core s).sp.mem = true →
      ∃ t, exec .gatherOpComplete s = .next t ∧ gatherDone s t
        ∧ (∀ e, pxMatch s (core s).ctx tag = some e →
          (o.kind = .pxlook → Memory.readLE (core t).sp.mem (o.loc + 72) 8 = e.blk.toNat ∧ t.pxi = s.pxi)
          ∧ (o.kind = .pxins → Memory.readLE (core t).sp.mem (o.loc + 72) 8 = e.blk.toNat + 2 * 2 ^ 32 ∧ t.pxi = s.pxi)
          ∧ (o.kind = .pxdrop → e.blk = blk →
              Memory.readLE (core t).sp.mem (o.loc + 72) 8 = e.blk.toNat ∧ t.pxi = s.pxi.erase e)
          ∧ (o.kind = .pxdrop → e.blk ≠ blk →
              Memory.readLE (core t).sp.mem (o.loc + 72) 8 = e.blk.toNat + 4 * 2 ^ 32 ∧ t.pxi = s.pxi))
        ∧ (pxMatch s (core s).ctx tag = none →
          (o.kind = .pxlook ∨ o.kind = .pxdrop → Memory.readLE (core t).sp.mem (o.loc + 72) 8 = 2 ^ 32 ∧ t.pxi = s.pxi)
          ∧ (o.kind = .pxins → (s.pxi.filter (fun e => bucketOf e.tag == bucketOf tag)).length < 4 →
              Memory.readLE (core t).sp.mem (o.loc + 72) 8 = blk.toNat ∧ t.pxi = s.pxi ++ [⟨(core s).ctx, tag, blk⟩])
          ∧ (o.kind = .pxins → 4 ≤ (s.pxi.filter (fun e => bucketOf e.tag == bucketOf tag)).length →
              Memory.readLE (core t).sp.mem (o.loc + 72) 8 = 3 * 2 ^ 32 ∧ t.pxi = s.pxi)))
    ∧ (pxServes s = false → ∃ t f, exec .gatherElementFault s = .next t
        ∧ (core t).gather = { (core s).gather with fault := some f, told := false } ∧ f.code = 0x2A ∧ f.info = 5
        ∧ f.fslot = o.slot.num ∧ t.pxi = s.pxi)

/-! ### Kernels and their placement (R274 to R278, R283 to R288) -/

/-- An event of a code, for a context (where the cluster's number fits its field) and with INFO, is the one record in the
trap queue of cluster `k` (R190). -/
def Sys2Proof.Machine.Claims.eventIn (k code : Nat) (ctx : BitVec 12) (info : Word) (t : State) : Prop :=
  ∃ r, (clusterAt t k).q = [r] ∧ (fld r.w0 0 8).toNat = code ∧ fld r.w0 8 2 = 3 ∧ (k < 256 → fld r.w0 40 12 = ctx) ∧ r.w2 = info

/-- A node has gone DONE: its entry is free with the next generation (R274, R275). -/
def Sys2Proof.Machine.Claims.nodeDone (key : Nat) (n : Node) (t : State) : Prop := Map.find? t.nodes key = some { gen := n.gen + 1 }

/-- R283, R48: a fresh kernel node that a decision takes is placed: on each core of its choice, where its image is legal and its
regions and routines can be had, the core is LOADING at the image's entry for the node's context, s1 upward hold the
parameters and no other register of the S file is live, the carve-out base and the literal block stand, and the node is RUNNING on
those cores with the regions rented and those of its overflow areas, which draw no rent (log 88). An illegal image fails the launch at step 1: event 0x4C carries the id and the step, and the
node is DONE. LOAD_COMPLETE makes a LOADING core RUNNING.
Where the spec leaves a choice, the statement follows the model's: logs 34, 35, 36 and 88. -/
def Obligations.KernelPlacement : Prop :=
  ∀ s : State,
    (∀ key n cs, (walkReady s (readyNodes s)).2 = some (key, n) → n.kind = .kernel → n.cores = [] → fit s [] key n = some cs →
      (readImage s (ctxAt s n.owner) n.desc = none → quiet s → (clusterAt s (clusterNo n.home)).q = [] → n.st ≠ .free →
        Map.find? s.nodes key = some n →
        ∃ t, exec (.kernelPlace (nodeId key n)) s = .next t ∧ nodeDone key n t ∧ t.cores = s.cores
          ∧ eventIn (clusterNo n.home) 0x4C n.owner (BitVec.ofNat 64 ((nodeId key n).toNat + 1 * 2 ^ 32)) t)
      ∧ (∀ i hs pm s1, readImage s (ctxAt s n.owner) n.desc = some i → loadCores n i cs [] (noteSrc i.src s) = (0, hs, pm, s1) → cs.Nodup →
        ∃ t pins, exec (.kernelPlace (nodeId key n)) s = .next t
          ∧ Map.find? t.nodes key = some { n with st := .running, cores := cs, left := cs, regions := hs ++ pins, placedAt := s.now
                                                  order := nextOrder s, fresh := false }
          ∧ (∀ h ∈ pins, ∃ k r, regionOf t.regions h = some (k, r) ∧ r.kind = .hbm ∧ r.owner = n.owner ∧ r.st = .held
            ∧ r.term = some 0)
          ∧ (∀ rank g, cs[rank]? = some g →
            (coreAt t g).st = .loading ∧ (coreAt t g).ctx = n.owner ∧ (coreAt t g).node = nodeId key n
            ∧ (coreAt t g).pc = i.entry ∧ (coreAt t g).pme = pm ∧ (coreAt t g).pend = [] ∧ (coreAt t g).loops = []
            ∧ (coreAt t g).csr.carve.toNat = (0x180000 - i.carve) % 2 ^ 21
            ∧ (∀ j < (fld (descWord n.desc 2) 52 3).toNat,
                getX (coreAt t g) .s (BitVec.ofNat 5 (j + 1)) = descWord n.desc (4 + j))
            ∧ (bit (descWord n.desc 2) 55 = true → getX (coreAt t g) .s
                (BitVec.ofNat 5 ((fld (descWord n.desc 2) 52 3).toNat + 1)) = BitVec.ofNat 64 rank)
            ∧ (∀ r : Reg, isLive (coreAt t g) .s r = decide (1 ≤ r.toNat ∧
                r.toNat ≤ (fld (descWord n.desc 2) 52 3).toNat + (if bit (descWord n.desc 2) 55 then 1 else 0))))
          ∧ (∀ g, cs = [g] → Memory.wf (coreAt s g).sp.mem = true → ∀ lit k, ∀ y : Byte, i.lit.val = some lit → lit[k]? = some y →
            Memory.read (coreAt t g).sp.mem (0x180000 - i.carve - i.litLen + k) = y)))
    ∧ ((core s).st = .loading → (core s).restore = false →
      exec .loadComplete s = .next (updCore (fun c => { c with st := .running }) s))

/-- Whether the core that created a node still runs in the context that owns it. -/
def Sys2Proof.Machine.Claims.creatorRuns (n : Node) (s : State) : Bool :=
  holding (coreAt s n.home) && (coreAt s n.home).ctx == n.owner

/-- A copy node is RUNNING, the latest placed (R275, R276); while its creator runs in its context it takes the next place among that
core's operations of class CO (R255, R274), and nothing else of any core changes. -/
def Sys2Proof.Machine.Claims.copyStarted (k : Nat) (n : Node) (s t : State) : Prop :=
  let c := coreAt s n.home
  Map.find? t.nodes k = some { n with
    st := .running, placedAt := s.now, order := nextOrder s, fresh := false
    seq := if creatorRuns n s then c.eseq else 0, after := if creatorRuns n s then c.coFence else 0 }
  ∧ ∀ g, coreAt t g = if g = n.home ∧ creatorRuns n s = true then { c with eseq := c.eseq + 1 } else coreAt s g

/-- R276, R278: of two READY copy nodes of one die a decision starts the one that comes first in the order of priority and then
ready time, and the other stays READY; a kernel node that finds no cores stays READY. A node READY for 2^16 ticks posts event
0x4A to the trap queue of cluster 0, which has room, once for its stay in READY, and not before. -/
def Obligations.DispatchOrder : Prop :=
  ∀ s : State,
    (∀ k1 n1 k2 n2, s.nodes = [(k1, n1), (k2, n2)] → k1 < k2 → n1.kind = .copy → n2.kind = .copy → n1.st = .ready → n2.st = .ready →
      dieNo n1.home = dieNo n2.home → (∀ n ∈ [n1, n2], ownerReady s n = true ∧ copyHandlesOk s n = true) →
      (n2.prio < n1.prio ∨ (n1.prio = n2.prio ∧ n1.ready < n2.ready) →
        ∃ t, exec .dispatchDecision s = .next t
          ∧ copyStarted k1 n1 s t ∧ Map.find? t.nodes k2 = some { n2 with fresh := false })
      ∧ (n1.prio < n2.prio ∨ (n1.prio = n2.prio ∧ n2.ready < n1.ready) →
        ∃ t, exec .dispatchDecision s = .next t
          ∧ copyStarted k2 n2 s t ∧ Map.find? t.nodes k1 = some { n1 with fresh := false }))
    ∧ (∀ k n, s.nodes = [(k, n)] → n.kind = .kernel → n.st = .ready → fit s [] k n = none →
      ∃ t, exec .dispatchDecision s = .next t ∧ Map.find? t.nodes k = some { n with fresh := false } ∧ t.cores = s.cores)
    ∧ (∀ (id : BitVec 32) k n, nodeOf s id = some (k, n) → n.st = .ready → n.starved = false →
      n.ready + 2 ^ 16 * 4096 ≤ s.now →
      exec (.starveTimeout id) s
          = .next (postEvent 0 0x4A n.owner (id.setWidth 64) (setNode k { n with starved := true } s))
      ∧ ((clusterAt s 0).q = [] → ∃ t, exec (.starveTimeout id) s = .next t ∧ t.cores = s.cores
        ∧ Map.find? t.nodes k = some { n with starved := true } ∧ eventIn 0 0x4A n.owner (id.setWidth 64) t))
    ∧ (∀ (id : BitVec 32) k n, nodeOf s id = some (k, n) → n.st ≠ .ready ∨ n.starved = true ∨ s.now < n.ready + 2 ^ 16 * 4096 →
      exec (.starveTimeout id) s = .next s)

/-- R275, R286, R288: a core whose END waits for nothing retires: it is IDLE without a context, and the last core of a kernel makes
its node DONE. A running copy node that meets no fault moves its bytes and is DONE; one that meets a fault is DONE with event
0x4B.
Where the spec leaves a choice, the statement follows the model's: log 1. -/
def Obligations.NodesEnd : Prop :=
  ∀ s : State,
    (∀ k n, retireReady s = true → (core s).st = .running ∨ (core s).st = .frozen → nodeOf s (core s).node = some (k, n) →
      ∃ t, exec .kernelRetire s = .next t ∧ (core t).st = .idle ∧ (core t).ctx = 0 ∧ (core t).pme.tiles = []
        ∧ (n.left = [s.cur] → nodeDone k n t)
        ∧ ((n.left.filter (· != s.cur)) ≠ [] → ∃ n', Map.find? t.nodes k = some n' ∧ n'.st = n.st
            ∧ n'.left = n.left.filter (· != s.cur)))
    ∧ (∀ (id : BitVec 32) k n, nodeOf s id = some (k, n) → n.kind = .copy → n.st = .running → quiet s →
      (copyNodeBad s n = false → ∀ a b len, copySides s n = (a, b, len) → a.kind = 0 → b.kind = 0 →
        Memory.wf s.dram.hbm = true →
        ∃ t, exec (.copyNodeComplete id) s = .next t ∧ nodeDone k n t
          ∧ ∀ j < len, Memory.read t.dram.hbm (sideAddr b b.base.toNat + j) = Memory.read s.dram.hbm (sideAddr a a.base.toNat + j))
      ∧ (copyNodeBad s n = true → (clusterAt s (clusterNo n.home)).q = [] →
        ∃ t, exec (.copyNodeFault id) s = .next t ∧ nodeDone k n t ∧ t.dram = s.dram
          ∧ eventIn (clusterNo n.home) 0x4B n.owner (id.setWidth 64) t))

/-! ### Device memory, refresh and power (R325 to R335, R350) -/

/-- R325 to R328, R330 to R335: RFWAIT issues and changes nothing once SLOT has reached its operand, freezes under cause 9 before,
and faults ILLEGAL_OP when it is more than 2^24 ahead. A slot that begins (slot 0 at the epoch) makes SLOT its number, makes a stack's mode what it is to
be, and in a refresh slot moves each pseudo-channel's owed banks by the table. Hot mode is entered and left with SHORTFALL to a
context that holds a share. A rebuilt line leaves memory as it is, or is marked poisoned, with CORRECTED; a line that
a CXL device returns poisoned is so marked in the capacity tier; a die leaves the
capacity word with HOT_REMOVE; a link that goes down scrubs its regions with refund; a latency record is cleared.
Where the spec leaves a choice, the statement follows the model's: logs 12, 26, 40, 73, 74, 89 and 95. -/
def Obligations.MemoryMaintenance : Prop :=
  (∀ (p : Pred) (o : Opnd) (s : State) (v : Word), predOn (core s) .s p = true → rdO (core s) .s o = .ok v →
    (v.toNat ≤ s.dram.slot → exec (.rfwait p o) s = .next (delivered .s (markO o) (fun _ => []) s))
    ∧ (s.dram.slot < v.toNat → v.toNat ≤ s.dram.slot + 2 ^ 24 → exec (.rfwait p o) s = .next (freeze 9 s))
    ∧ (s.dram.slot + 2 ^ 24 < v.toNat → exec (.rfwait p o) s = .next (slotFault .s (illegalOp s) s)))
  ∧ (∀ (s : State) (waiting : List (Nat × Nat)) (e n : Nat), s.dram.epoch = some e →
    n = (if s.dram.begun then s.dram.slot + 1 else 0) → e + 366 * n ≤ s.now →
    ∃ t, exec (.refreshSlot waiting) s = .next t ∧ t.dram.slot = n ∧ t.dram.begun = true ∧ t.dram.hbm = s.dram.hbm ∧ t.cores = s.cores
      ∧ ∀ k < 8, let x := stackAt s k
        let y := stackAt t k
        y.hot = x.hotNext ∧ y.dies = x.dies ∧ (x.hotNext = false → n % 2 = 1 → y.owed = x.owed)
        ∧ (x.hotNext = true ∨ n % 2 = 0 → Map.rising x.owed = true → ∀ pc < 64,
          let bank := ((if x.hotNext then n else n / 2) + 8 * (pc % 2)) % 16
          let ow := Map.get x.owed pc []
          let ow' := Map.get y.owed pc []
          (ow.length = 8 → ow' = [])
          ∧ (ow.length ≠ 8 → (k, pc) ∈ waiting → ow' = ow ++ [bank])
          ∧ (ow.length ≠ 8 → (k, pc) ∉ waiting →
            ((∀ b ∈ ow, b / 4 = bank / 4) → ow' = ow)
            ∧ (∀ l b r, ow = l ++ b :: r → (∀ z ∈ l, z / 4 = bank / 4) → b / 4 ≠ bank / 4 → ow' = l ++ r))))
  ∧ (∀ (s : State) (k : BitVec 3),
    (∀ (i : Nat) (x : Ctx), s.ctxs = [(i, x)] → i < 4096 → x.st ≠ .free → 0 < shareOf x k.toNat → shareOf x k.toNat ≤ 256 →
      s.dev.st = .service → (clusterAt s (8 * (k.toNat / 2))).q = [] →
      ((stackAt s k.toNat).hotNext = false → ∃ t info, exec (.hotModeEnter k) s = .next t
        ∧ (stackAt t k.toNat).hotNext = true ∧ (stackAt t k.toNat).hot = (stackAt s k.toNat).hot
        ∧ eventIn (8 * (k.toNat / 2)) 0x4D (BitVec.ofNat 12 i) info t ∧ fld info 0 3 = k ∧ info.getLsbD 3 = true
        ∧ fld info 4 9 = 160
        ∧ ((fld info 16 32).toNat = shareOf x k.toNat * 3100000 * 96 / 65536
          ∨ (fld info 16 32).toNat = shareOf x k.toNat * 3100000 * 96 / 65536 + 1))
      ∧ ((stackAt s k.toNat).hotNext = true → ∃ t info, exec (.hotModeExit k) s = .next t
        ∧ (stackAt t k.toNat).hotNext = false ∧ eventIn (8 * (k.toNat / 2)) 0x4D (BitVec.ofNat 12 i) info t ∧ fld info 0 3 = k
        ∧ info.getLsbD 3 = false ∧ fld info 4 9 = 256))
    ∧ (∀ (ctx : BitVec 12) (n : BitVec 9), adminOpen s = true → (ctxAt s ctx).st ≠ .free →
      (256 < otherShares s ctx k.toNat + n.toNat → exec (.shareAssign ctx k n) s = .next s)
      ∧ (otherShares s ctx k.toNat + n.toNat ≤ 256 → ∃ t, exec (.shareAssign ctx k n) s = .next t
        ∧ shareOf (ctxAt t ctx) k.toNat = n.toNat ∧ (ctxAt t ctx).alw = (ctxAt s ctx).alw))
    ∧ (∀ d : BitVec 4, (stackAt s k.toNat).mapping = none → (stackAt s k.toNat).dies.getLsbD d.toNat = true →
      ∃ t, exec (.dieMapOut k d) s = .next t ∧ (stackAt t k.toNat).mapping = some d ∧ t.dev.pxReady = false
        ∧ (stackAt t k.toNat).dies = (stackAt s k.toNat).dies)
    ∧ (∀ d : BitVec 4, (stackAt s k.toNat).mapping = some d → (clusterAt s (8 * (k.toNat / 2))).q = [] →
      ∃ t, exec (.mapOutComplete k d) s = .next t ∧ (stackAt t k.toNat).mapping = none
        ∧ (∀ j < 16, (stackAt t k.toNat).dies.getLsbD j = ((stackAt s k.toNat).dies.getLsbD j && decide (j ≠ d.toNat)))
        ∧ eventIn (8 * (k.toNat / 2)) 0x4F 0 (BitVec.ofNat 64 (k.toNat + d.toNat * 16)) t)
    ∧ (∀ c : BitVec 5, Map.rising s.dram.lat = true → ∃ t, exec (.latencyRecordClear k c) s = .next t
        ∧ Map.get t.dram.lat (32 * k.toNat + c.toNat) {} = {}
        ∧ ∀ j, j ≠ 32 * k.toNat + c.toNat → Map.get t.dram.lat j {} = Map.get s.dram.lat j {}))
  ∧ (∀ (s : State) (pa : BitVec 56) (src : RebuildSource), let k := 8 * ((Config.lineStack (64 * (pa.toNat / 64))).toNat / 2)
    (src = .cxl → ∃ t, exec (.lineRebuild pa src) s = .next t ∧ Map.find? t.dram.capPoison (pa.toNat / 64) = some true
      ∧ t.dram.hbmPoison = s.dram.hbmPoison ∧ t.dram.cap = s.dram.cap ∧ t.clusters = s.clusters)
    ∧ (src ≠ .cxl → (clusterAt s k).q = [] → ∃ t info, exec (.lineRebuild pa src) s = .next t ∧ eventIn k 0x4E 0 info t
      ∧ fld info 6 50 = fld pa 6 50 ∧ (fld info 62 2).toNat = (match src with | .parity => 0 | .cleanCopy => 1 | _ => 2)
      ∧ t.dram.hbm = s.dram.hbm
      ∧ Map.find? t.dram.hbmPoison (pa.toNat / 64)
          = if src = .none then some true else Map.find? s.dram.hbmPoison (pa.toNat / 64)))
  ∧ (∀ (s : State) (l : BitVec 4) (key : Nat) (r : Region), s.regions = [(key, r)] → r.kind = .cap → r.subl = none → r.term = none → r.st = .held →
    r.links.contains l.toNat = true → s.dram.linkDown.getLsbD l.toNat = false → s.barriers = [] → (ctxAt s r.owner).st ≠ .free →
    (clusterAt s (8 * (l.toNat / 4))).q = [] →
    ∃ t, exec (.cxlLinkDown l) s = .next t ∧ t.dram.linkDown.getLsbD l.toNat = true ∧ regionIs t key (fun x => x.st = .scrubbed)
      ∧ (ctxAt t r.owner).alw = satAlw ((ctxAt s r.owner).alw + (r.res + r.size * r.kind.rate * (r.pu - s.tick - 1) : Nat))
      ∧ eventIn (8 * (l.toNat / 4)) 0x4F 0 (BitVec.ofNat 64 (7 + l.toNat * 2 ^ 8 + 2 ^ 12)) t)

/-- R350: a driver's budget with four floors that sum to 256 at most is taken with the demands, and changes no core; other
floors change nothing, and neither does a request that Holly does not carry out. At the tick boundary that follows, where two
cores run contexts of one tier with the same demand, each is granted its demand if half of the tier's units covers it, and else half
of them, the odd unit going to the lower core; a grant saturates.
Where the spec leaves a choice, the statement follows the model's: logs 27 and 44. -/
def Obligations.EnergyGrants : Prop :=
  ∀ (s : State) (b : Nat) (fl : List Nat), let sum := fl.foldl (· + ·) 0
    (∀ (id : BitVec 12) (d : Nat), adminOpen s = true → fl.length = 4 → sum ≤ 256 → (ctxAt s id).st ≠ .free →
      ∃ t, exec (.powerBudgetSet b fl [(id.toNat, d)]) s = .next t ∧ t.dev.budget = b ∧ t.dev.floors = fl ∧ t.cores = s.cores
        ∧ ctxAt t id = { ctxAt s id with demand := d })
    ∧ (∀ ds, adminOpen s = false ∨ fl.length ≠ 4 ∨ 256 < sum → exec (.powerBudgetSet b fl ds) s = .next s)
    ∧ (s.dev.budget = b → s.dev.floors = fl → fl.length = 4 → sum ≤ 256 → s.regions = [] → s.images = [] → s.pxi = [] →
      (∀ x ∈ s.ctxs, x.2.tables = [] ∧ x.2.debt = 0) → ∀ g1 c1 g2 c2 d u, s.cores = [(g1, c1), (g2, c2)] → g1 < g2 → g2 < 256 →
      holding c1 = true → holding c2 = true → c1.ctx = c2.ctx → (ctxAt s c1.ctx).st ≠ .free → (ctxAt s c1.ctx).demand = d →
      u = min (2 * d) b →
      ∃ t, exec .tickBoundary s = .next t
        ∧ (coreAt t g1).csr.grant.toNat = min (if d ≤ u / 2 then d else u / 2 + u % 2) 0xFFFFFF
        ∧ (coreAt t g2).csr.grant.toNat = min (if d ≤ u / 2 then d else u / 2) 0xFFFFFF
        ∧ (coreAt t g1).files = c1.files ∧ (coreAt t g2).files = c2.files)

/-! ### Mirrors, peers and the link (R206, R336 to R344) -/

/-- A message `m` for peer `p` is the last that the device has sent; it sent no other since `s`. -/
def Sys2Proof.Machine.Claims.sentTo (p : BitVec 8) (type status : Nat) (payload : List Byte) (s t : State) : Prop :=
  ∃ m, t.link.out = s.link.out ++ [m] ∧ m.type = type ∧ m.status = status ∧ m.payload = payload ∧ m.peer = some p

/-- R206, R342 to R344: MIRR gives MSEQ, MACK (MSEQ with no mirror peer) and the mirror status, and HQRY and HQRY.F the length and
the attributes of a valid handle, 0 of another. The oldest mirrored granule leaves for the mirror peer with its address, and an
acknowledgement counts in MACK. R339, R343: a peer takes the transitions of the table; a lost peer that this device mirrors is
promoted to every UP peer; a notice redirects a lost peer to its promoter; a packet may carry a granule that the peer mirrors
here, which is kept by the address that the peer names, and acknowledged, all this while a port is up and the device not in SAFE (R18, R352); a heartbeat leaves after 50 µs of silence to it. R340: an access of an UP peer to one granule of
its export is answered with the bytes as device memory stores them, or written, or refused with the code of its fault, and one to a lost peer's bytes from the
copy that this device has promoted, where it has one. The numbers 0x100 to 0x104 of messages to
peers are the model's own.
Where the spec leaves a choice, the statement follows the model's: logs 20, 43, 46, 61 and 93. -/
def Obligations.MirrorsAndPeers : Prop :=
  (∀ (w : CU) (p : Pred) (d : Reg) (s : State), predOn (core s) w.slot p = true →
    exec (.mirrMark w p d) s = .next (delivered w.slot [] (lands w.slot d ((core s).mseq.setWidth 64) 1) s)
    ∧ ((myCtx s).mirror = none →
      exec (.mirrDone w p d) s = .next (delivered w.slot [] (lands w.slot d ((core s).mseq.setWidth 64) 1) s)
      ∧ exec (.mirrSt w p d) s = .next (delivered w.slot [] (lands w.slot d 0 1) s))
    ∧ (∀ q, (myCtx s).mirror = some q →
      exec (.mirrDone w p d) s = .next (delivered w.slot [] (lands w.slot d ((core s).mack.setWidth 64) 1) s)
      ∧ exec (.mirrSt w p d) s = .next (delivered w.slot []
          (lands w.slot d (BitVec.ofNat 64 (q.toNat + 256 * (peerAt s q.toNat).st.code)) 1) s))
    ∧ (∀ (o : Opnd) (v : Word), rdO (core s) w.slot o = .ok v →
      (handleEnt (myCtx s) v.toNat = none → ∀ i ∈ [Instr.hqry w p d o, .hqryF w p d o],
        exec i s = .next (delivered w.slot [] (lands w.slot d 0 4) s))
      ∧ (∀ e, handleEnt (myCtx s) v.toNat = some e →
        exec (.hqry w p d o) s = .next (delivered w.slot [] (lands w.slot d ((fld e.w1 0 48).setWidth 64) 4) s)
        ∧ exec (.hqryF w p d o) s = .next (delivered w.slot [] (lands w.slot d (e.w0 &&& 0xFFFF00000000FFFF) 4) s))))
  ∧ (∀ (s : State) (id : BitVec 12) (q : BitVec 8), (ctxAt s id).mirror = some q → (ctxAt s id).mirOff = false →
    (peerAt s q.toNat).st = .up ∨ (peerAt s q.toNat).st = .suspect → portUp s = true →
    (∀ a bs rest, (core s).mirrorQ = (id, a, bs) :: rest → ∃ t, exec .mirrorGranuleSend s = .next t
      ∧ core t = { core s with mirrorQ := rest, unacked := (core s).unacked ++ [id] } ∧ sentTo q 0x100 0 (leBytes 8 a ++ bs) s t)
    ∧ (∀ rest, (∀ i ∈ s.images, i.core ≠ s.cur) → inService s = true → (core s).unacked = id :: rest →
      ∃ t, exec .mirrorAck s = .next t ∧ core t = { core s with mack := (core s).mack + 1, unacked := rest }
      ∧ peerAt t q.toNat = { peerAt s q.toNat with st := .up, seen := s.now })
    ∧ ((∀ i ∈ s.images, i.core ≠ s.cur) → (core s).unacked = [] → exec .mirrorAck s = .next s))
  ∧ (∀ (s : State) (p : BitVec 8), let x := peerAt s p.toNat
    (adminOpen s = true →
      (∀ ad, x.st = .down →
        exec (.adminJoin ⟨p, ad⟩) s = .next (setPeer p.toNat { x with st := .joining, addrs := ad, seen := s.now } s))
      ∧ (∀ ad, x.st ≠ .down → exec (.adminJoin ⟨p, ad⟩) s = .next s)
      ∧ (x.st = .lost ∨ x.st = .redirected → ∃ t, exec (.adminLeave p) s = .next t ∧ (peerAt t p.toNat).st = .down
        ∧ (peerAt t p.toNat).copy = [])
      ∧ (x.st = .up ∨ x.st = .suspect → ∃ t, exec (.adminPeerLost p) s = .next t ∧ (peerAt t p.toNat).st = .lost)
      ∧ (∀ hs, (∀ h ∈ hs, exportable s h = true) → exec (.exportInstall p hs) s = .next (setPeer p.toNat { x with xport := hs } s)))
    ∧ (linkOpen s = false → exec (.peerConnected p) s = .next s ∧ (∀ m, exec (.peerPacketArrive ⟨p, m⟩) s = .next s)
      ∧ (∀ q, exec (.promoteNotice p q) s = .next s) ∧ ∀ lost off len wr, exec (.peerAccessArrive ⟨p, lost⟩ off len wr) s = .next s)
    ∧ (linkOpen s = true → x.st = .joining → exec (.peerConnected p) s = .next (setPeer p.toNat { x with st := .up, seen := s.now, sent := s.now } s))
    ∧ (x.st = .joining → x.seen + 30000000 ≤ s.now → ∃ t m, exec (.joinTimeout p) s = .next t ∧ (peerAt t p.toNat).st = .down
      ∧ t.link.out = s.link.out ++ [m] ∧ m.type = 0x04)
    ∧ (x.st = .up → x.seen + 600000 ≤ s.now → exec (.peerSilence p) s = .next (setPeer p.toNat { x with st := .suspect } s))
    ∧ (x.st = .up → s.now < x.seen + 600000 → exec (.peerSilence p) s = .next s)
    ∧ (linkOpen s = true → x.st = .up ∨ x.st = .suspect →
      exec (.peerPacketArrive ⟨p, none⟩) s = .next (setPeer p.toNat { x with st := .up, seen := s.now } s)
      ∧ ∀ (a : Nat) (bs : List Byte), bs.length = 64 → ∃ t, exec (.peerPacketArrive ⟨p, some (a, bs)⟩) s = .next t
        ∧ peerAt t p.toNat = { x with st := .up, seen := s.now, sent := s.now, copy := Map.put x.copy (a / 64) bs }
        ∧ sentTo p 0x104 0 [] s t)
    ∧ (x.st ≠ .up → x.st ≠ .suspect → ∀ m, exec (.peerPacketArrive ⟨p, m⟩) s = .next s)
    ∧ (x.st = .suspect → x.seen + 3000000 ≤ s.now → ∃ t, exec (.peerLostTimeout p) s = .next t ∧ (peerAt t p.toNat).st = .lost
      ∧ (x.copy ≠ [] → (peerAt t p.toNat).promoted = true ∧ ∀ (q : BitVec 8) (y : Peer), Map.find? s.link.peers q.toNat = some y → y.st = .up →
          ∃ m ∈ t.link.out, m.type = 0x101 ∧ m.peer = some q ∧ m.payload = [p]))
    ∧ (∀ q : BitVec 8, linkOpen s = true → (peerAt s q.toNat).st = .up ∨ (peerAt s q.toNat).st = .suspect → q ≠ p →
      (x.st = .lost → ∃ t, exec (.promoteNotice p q) s = .next t
        ∧ peerAt t p.toNat = { x with st := .redirected, promoter := some q, window := [] }
        ∧ peerAt t q.toNat = { peerAt s q.toNat with st := .up, seen := s.now })
      ∧ (x.st = .up ∨ x.st = .suspect → ∃ t, exec (.promoteNotice p q) s = .next t ∧ (peerAt t p.toNat).st = .redirected
        ∧ (peerAt t p.toNat).promoter = some q))
    ∧ (x.st = .up ∨ x.st = .suspect → portUp s = true → x.sent + 150000 ≤ s.now → ∃ t, exec (.heartbeatSend p) s = .next t
      ∧ peerAt t p.toNat = { x with sent := s.now } ∧ sentTo p 0x102 0 [] s t)
    ∧ (∀ (lost : Option (BitVec 8)) (off len : Nat) (wr : Option (List Byte)), x.st ≠ .up → x.st ≠ .suspect →
      exec (.peerAccessArrive ⟨p, lost⟩ off len wr) s = .next s)
    ∧ (∀ off len : Nat, linkOpen s = true → x.st = .up ∨ x.st = .suspect → 1 ≤ len → off % 64 + len ≤ 64 →
      let s1 := setPeer p.toNat { x with st := .up, seen := s.now } s
      (∀ e, exportCheck s1 p .read len off = .error e → ∃ t, exec (.peerAccessArrive ⟨p, none⟩ off len none) s = .next t
        ∧ sentTo p 0x103 e [] s t ∧ t.dram = s.dram ∧ t.cores = s.cores)
      ∧ (∀ a, exportCheck s1 p .read len off = .ok (.hbm, a) → ∃ t, exec (.peerAccessArrive ⟨p, none⟩ off len none) s = .next t
        ∧ sentTo p 0x103 0 (viewRead s (some none) .hbm a len) s t ∧ t.dram.hbm = s.dram.hbm)
      ∧ (∀ a bs, exportCheck s1 p .write len off = .ok (.hbm, a) → bs.length = len → Memory.wf s.dram.hbm = true →
        ∃ t m, exec (.peerAccessArrive ⟨p, none⟩ off len (some bs)) s = .next t ∧ Memory.readBytes t.dram.hbm a len = bs
          ∧ t.link.out.getLast? = some m ∧ m.type = 0x103 ∧ m.status = 0 ∧ m.payload = [] ∧ m.peer = some p)
      ∧ (x.xport = [] → ∃ t, exec (.peerAccessArrive ⟨p, none⟩ off len none) s = .next t ∧ sentTo p 0x103 0x21 [] s t)
      ∧ (∀ q : BitVec 8, let y := peerAt s q.toNat
        (∀ bs, y.promoted = true → Map.find? y.copy (off / 64) = some bs → bs.length = 64 →
          ∃ t, exec (.peerAccessArrive ⟨p, some q⟩ off len none) s = .next t
            ∧ sentTo p 0x103 0 ((bs.drop (off % 64)).take len) s t ∧ t.dram = s.dram)
        ∧ (y.promoted = false ∨ Map.find? y.copy (off / 64) = none →
          ∃ t, exec (.peerAccessArrive ⟨p, some q⟩ off len none) s = .next t ∧ sentTo p 0x103 0x3E [] s t))))

/-! ### What Holly does for the driver, and the host's messages (R204, R273, R289, R307, R308, R337, R338, R352, R357) -/

/-- R204, R247, R273, R289, R304, R307 to R309, R338, R342: while a session is open and the device serves, Holly installs a
well-formed handle entry that maps no page table, with the type of the pages that it maps, and removes one with V = 0; it writes a
page-table entry, in tables rented for the context, that makes no leaf reachable without a region behind it, and refuses one
that does, or one that is not encrypted and maps nothing shared; it makes a queue over an HBM region of its owner that holds it, assigns a mirror peer, and creates a
level-4 domain. Without a session every such request leaves the machine as it is.
Where the spec leaves a choice, the statement follows the model's: logs 15, 19, 75, 97 and 98. -/
def Obligations.HollyRequests : Prop :=
  ∀ (s : State) (ctx : BitVec 12),
    (adminOpen s = false → ∀ i idx w0 w1 w2 pa en qid dir ls h peer, i ∈ [Instr.handleInstall ctx idx w0 w1 w2,
        .pageTableUpdate ctx pa en, .queueCreate qid ctx dir ls h, .mirrorAssign ctx peer, .domainCreate ctx] →
      exec i s = .next s)
    ∧ (adminOpen s = true → (ctxAt s ctx).st ≠ .free →
      (∀ (idx : BitVec 16) (w0 w1 w2 : Word), idx ≠ 0 → idx.toNat < (ctxAt s ctx).htlen →
        (w0.getLsbD 0 = true → handleOk w0 w1 w2 = true → fld w0 3 2 ≠ 3 →
          (handleClear s w0 w1 w2 = true → ∃ e : HEnt, exec (.handleInstall ctx idx w0 w1 w2) s = .next (setCtx s ctx
              { ctxAt s ctx with handles := Map.put (ctxAt s ctx).handles idx.toNat e })
            ∧ e.w1 = w1 ∧ e.w2 = w2 ∧ (∀ j, j ≠ 5 → j ≠ 6 → e.w0.getLsbD j = w0.getLsbD j)
            ∧ ((ctxAt s ctx).root = 0 → e.w0 = w0)
            ∧ ∀ ty, pageType s (ctxAt s ctx) (fld w0 3 2) (entryAddr w0 w2) (fld w1 0 48).toNat = some ty → fld e.w0 5 2 = ty)
          ∧ (handleClear s w0 w1 w2 = false → exec (.handleInstall ctx idx w0 w1 w2) s = .next s))
        ∧ (w0.getLsbD 0 = false → Map.rising (ctxAt s ctx).handles = true →
          ∃ t, exec (.handleInstall ctx idx w0 w1 w2) s = .next t ∧ Map.find? (ctxAt t ctx).handles idx.toNat = none
            ∧ ∀ j, j ≠ idx.toNat → Map.find? (ctxAt t ctx).handles j = Map.find? (ctxAt s ctx).handles j))
      ∧ (∀ (pa : BitVec 56) (en : Word), pa.toNat % 8 = 0 → let leaf := en.getLsbD 0 && en.getLsbD 1
        (∀ s0, (leaf = true → leafBacked s ctx (4, en) = true) →
          (rentTable ctx (pa.toNat / 2 ^ 14) s).bind (rentPointed ctx en) = some s0 →
          let s1 := writeHbm pa.toNat (leBytes 8 en.toNat) s0
          let fresh := (leavesOf s1 (ctxAt s0 ctx)).filter (fun l => !(leavesOf s0 (ctxAt s0 ctx)).contains l)
          ((∀ l ∈ fresh, leafBacked s0 ctx l = true) → Memory.wf s.dram.hbm = true →
            ∃ t, exec (.pageTableUpdate ctx pa en) s = .next t ∧ Memory.readLE t.dram.hbm pa.toNat 8 = en.toNat
              ∧ pa.toNat / 2 ^ 14 ∈ (ctxAt t ctx).tables
              ∧ (en.getLsbD 0 = true → en.getLsbD 1 = false → pteAddr en / 2 ^ 14 ∈ (ctxAt t ctx).tables)
              ∧ t.regions = s.regions ∧ t.cores = s.cores)
          ∧ (∀ l ∈ fresh, leafBacked s0 ctx l = false → exec (.pageTableUpdate ctx pa en) s = .next s))
        ∧ (rentTable ctx (pa.toNat / 2 ^ 14) s = none → exec (.pageTableUpdate ctx pa en) s = .next s)
        ∧ (leaf = true → leafBacked s ctx (4, en) = false → exec (.pageTableUpdate ctx pa en) s = .next s)
        ∧ (leaf = true → fld en 6 2 ≠ 2 → en.getLsbD 9 = false → (∀ x ∈ s.regions, sharedRegion s x.1 = false) →
          exec (.pageTableUpdate ctx pa en) s = .next s))
      ∧ (∀ (qid : BitVec 16) (dir : BitVec 2) (ls : BitVec 5) (h : BitVec 32) (k : Nat) (r : Region), qid ≠ 0 →
        Map.find? s.queues qid.toNat = none → dir ≠ 3 → ls.toNat ≤ 16 → regionOf s.regions h = some (k, r) → r.owner = ctx →
        r.subl = none → r.kind = .hbm → 64 * 2 ^ ls.toNat ≤ r.size →
        ∃ t, exec (.queueCreate qid ctx dir ls h) s = .next t ∧ Map.find? t.queues qid.toNat
            = some { owner := ctx, dir := dir, region := h, slots := 2 ^ ls.toNat, head := 0, tail := 0, waiter := none }
          ∧ ∀ j, j ≠ qid.toNat → Map.find? t.queues j = Map.find? s.queues j)
      ∧ (∀ peer, ∃ t, exec (.mirrorAssign ctx peer) s = .next t
        ∧ ctxAt t ctx = { ctxAt s ctx with mirror := some peer, mirOff := false }
        ∧ ∀ g c, Map.find? s.cores g = some c → coreAt t g = { c with unacked := c.unacked.filter (fun id => id != ctx) })
      ∧ ((freshDomain s).1 ≠ 0 → ∃ t id, exec (.domainCreate ctx) s = .next t ∧ id ≠ 0 ∧ Map.find? s.groups id = none
        ∧ ∃ g, Map.find? t.groups id = some g ∧ g.st = .compute ∧ g.level = 4 ∧ g.owner = ctx ∧ g.members = []))

/-- The device has sent the host one REPLY with a status and the request's SEQ, and nothing else since `s` (R337). -/
def Sys2Proof.Machine.Claims.replied (st : Nat) (seq : BitVec 32) (s t : State) : Prop :=
  t = { s with link := { s.link with
    out := s.link.out ++ [{ type := 0x03, status := st, seq := s.link.seq, payload := leBytes 4 seq.toNat }]
    seq := s.link.seq + 1 } }

/-- The device has answered a request in parts, each a REPLY with the request's SEQ, whose items together are `items` (R357). -/
def Sys2Proof.Machine.Claims.answered (seq : BitVec 32) (items : List Byte) (s t : State) : Prop :=
  ∃ ms : List OutMsg, t.link.out = s.link.out ++ ms ∧ ms ≠ [] ∧ (ms.map (fun m => m.payload.drop 6)).flatten = items
    ∧ (∀ m ∈ ms, m.type = 0x03 ∧ m.status = 0 ∧ m.payload.take 4 = leBytes 4 seq.toNat ∧ m.payload.length ≤ 4096)

/-- R338: while a port answers, ADMIN outside a secure session gets REPLY with STATUS 3 and changes nothing else; inside one, while
the device serves, a request that can be carried out is, with STATUS 0. STATUS and LOG are accepted and answered without a
session, RESYNC is accepted without one, and so is SPDM, outside SAFE (R352).
Where the spec leaves a choice, the statement follows the model's: log 44. -/
def Obligations.AdminNeedsASession : Prop :=
  ∀ (s : State) (seq : BitVec 32), answering s = true →
    (∀ r, s.link.session = false → ∃ t, exec (.mbaupAdmin seq r) s = .next t ∧ replied 3 seq s t)
    ∧ (∀ r s1, adminOpen s = true → carryOut r s = some s1 → ∃ t, exec (.mbaupAdmin seq r) s = .next t ∧ replied 0 seq s1 t)
    ∧ (∃ t items, exec (.mbaupStatus seq) s = .next t ∧ answered seq items s t)
    ∧ (∀ first : BitVec 32, ∃ t items, exec (.mbaupLog seq first) s = .next t ∧ answered seq items s t)
    ∧ (∃ t, exec (.mbaupResync seq) s = .next t ∧ t.link.resync = s.link.resync ++ [(seq, s.tick)])
    ∧ (s.dev.st ≠ .safe → ∀ msg, ∃ t m, exec (.mbaupSpdm seq msg) s = .next t ∧ t.link.out = s.link.out ++ [m] ∧ m.type = 0x20)

/-- R336, R337, R352, R357: while a port answers, outside SAFE, an inbound QMSG of 64 bytes enters a queue with room and gets no
reply; a full queue answers FULL and an absent one NOQUEUE; an ADMIN request that cannot be carried out, an unknown TYPE
and a VER other than 1 get STATUS 2; an SPDM request that the device supports is answered, and any other with ERROR; a FINISH
that passes after a KEY_EXCHANGE that passed opens the session, and END_SESSION closes it. In SAFE a QMSG gets NOQUEUE, and SPDM and an unknown TYPE get STATUS 3. In any state that answers, STATUS
and LOG are answered with their items at once, and RESYNC with its items once its tick boundary has come. A port that goes
down leaves the set.
Where the spec leaves a choice, the statement follows the model's: logs 14, 31, 41, 44, 80 and 94. -/
def Obligations.HostMessages : Prop :=
  ∀ (s : State) (seq : BitVec 32),
    (answering s = true → s.dev.st ≠ .safe →
      (∀ (ctx : BitVec 12) (qid : BitVec 16) (msg : List Byte), qid ≠ 0 →
        (Map.find? s.queues qid.toNat = none ∨ (∃ q, Map.find? s.queues qid.toNat = some q ∧ queueBase s q = none) →
          ∃ t, exec (.mbaupQmsg ctx qid seq msg) s = .next t ∧ replied 4 seq s t)
        ∧ (∀ q base, Map.find? s.queues qid.toNat = some q → q.dir = 0 → q.owner = ctx → msg.length = 64 →
          queueBase s q = some base →
          (q.slots ≤ queueCount q → ∃ t, exec (.mbaupQmsg ctx qid seq msg) s = .next t ∧ replied 1 seq s t)
          ∧ (queueCount q < q.slots → Memory.wf s.dram.hbm = true → ∃ t q', exec (.mbaupQmsg ctx qid seq msg) s = .next t
            ∧ Map.find? t.queues qid.toNat = some q' ∧ q'.tail = q.tail + 1 ∧ q'.head = q.head
            ∧ Memory.readBytes t.dram.hbm (base + 64 * (q.tail.toNat % q.slots)) 64 = msg
            ∧ ((ctxAt s ctx).mirror = none → t.link.out = s.link.out))))
      ∧ (∀ r, adminOpen s = true → carryOut r s = none → ∃ t, exec (.mbaupAdmin seq r) s = .next t ∧ replied 2 seq s t)
      ∧ (∀ ty ver : BitVec 8, ty.toNat ∉ [0x01, 0x02, 0x10, 0x11, 0x12, 0x20] ∨ ver ≠ 1 →
        ∃ t, exec (.mbaupOtherType ⟨ty, ver⟩ seq) s = .next t ∧ replied 2 seq s t)
      ∧ (∀ msg, ∃ t m, exec (.mbaupSpdm seq msg) s = .next t ∧ t.cores = s.cores
        ∧ t.link.out = s.link.out ++ [m] ∧ m.type = 0x20
        ∧ m.payload = (if spdmCodes.contains (spdmCode msg) then
            Config.spdmAnswer s.link.spdm (s.dev.blocks ++ [s.dev.meas]) (s.dev.attKey.getD []) msg
          else [0x13, 0x7F, 0x07, BitVec.ofNat 8 (spdmCode msg)])
        ∧ (spdmCode msg = 0xE4 → t.link.kex = Config.spdmPasses s.link.spdm msg ∧ t.link.session = s.link.session)
        ∧ (spdmCode msg = 0xE5 → t.link.kex = false
          ∧ t.link.session = (s.link.session || (s.link.kex && Config.spdmPasses s.link.spdm msg)))
        ∧ (spdmCode msg = 0xEC → t.link.session = false)
        ∧ (spdmCode msg ∉ [0xE4, 0xE5, 0xEC] → t.link.session = s.link.session ∧ t.link.kex = s.link.kex)))
    ∧ (answering s = true → s.dev.st = .safe →
      (∀ ctx qid msg, ∃ t, exec (.mbaupQmsg ctx qid seq msg) s = .next t ∧ replied 4 seq s t)
      ∧ (∀ msg, ∃ t, exec (.mbaupSpdm seq msg) s = .next t ∧ replied 3 seq s t)
      ∧ (∀ ty ver : BitVec 8, ty.toNat ∉ [0x01, 0x02, 0x10, 0x11, 0x12, 0x20] →
        ∃ t, exec (.mbaupOtherType ⟨ty, ver⟩ seq) s = .next t ∧ replied 3 seq s t))
    ∧ (answering s = true → (∃ t, exec (.mbaupStatus seq) s = .next t ∧ answered seq (statusItems s) s t)
      ∧ (∀ first : BitVec 32, ∃ t, exec (.mbaupLog seq first) s = .next t ∧ answered seq (logItems s first.toNat) s t)
      ∧ (∃ t, exec (.mbaupResync seq) s = .next t ∧ t.link.resync = s.link.resync ++ [(seq, s.tick)] ∧ t.link.out = s.link.out))
    ∧ (∀ n, s.link.resync = [(seq, n)] → n < s.tick → ∃ t, exec .resyncSample s = .next t ∧ t.link.resync = []
      ∧ answered seq (resyncItems s) s t)
    ∧ (∀ p : BitVec 3, ∃ t, exec (.portDown p) s = .next t ∧ t.cores = s.cores
      ∧ ∀ j < 8, t.link.ports.getLsbD j = (s.link.ports.getLsbD j && decide (j ≠ p.toNat)))

/-! ### Bring-up and firmware (R351 to R356) -/

/-- R351, R352, R353, R355: POWER_GOOD begins self-test with Holly on control core 0. Self-test with the needed parts and a verified
Bramble image leads to QUICKSET, with port 0, the refresh epoch, the fused floor raised by each image that is accepted, the measurements extended, and the
control cores of die 0 at divisor 4; otherwise to SAFE without a session. The last part's test opens SERVICE. Bramble starts, as
context 0xFFF at its entry, where it is due and its image verifies, and an image that does not changes nothing; its third restart after a fault within 1,000 ticks leads to
SAFE, as a fault of Holly does. A power cycle returns everything but the fused floor and the attestation key to reset.
Where the spec leaves a choice, the statement follows the model's: logs 10, 12, 13, 14, 38, 45, 64, 82 and 91. -/
def Obligations.BringUp : Prop :=
  ∀ s : State,
    (s.dev.st = .reset → ∃ t, exec .powerGood s = .next t ∧ t.dev.st = .selftest ∧ (coreAt t 256).st = .running
      ∧ (coreAt t 256).pc = Config.hollyEntry ∧ ∀ g, g ≠ 256 → coreAt t g = coreAt s g)
    ∧ (∀ ps img, s.dev.st = .selftest →
      ((∀ p ∈ [(PartKind.die, 0), (.stack, 0), (.stack, 1), (.port, 0)], p ∈ ps) → imageOk s.dev.svn 1 img = true →
        ∃ t, exec (.selftestEnd ps img) s = .next t ∧ t.dev.st = .quickset ∧ t.link.ports = 1
          ∧ t.dram.epoch = some (s.now + Config.epochOffset s.ctr) ∧ t.dram.begun = false
          ∧ (let f := max s.dev.svn (leNat ((img.drop 6).take 2))
            (imageOk f 2 Config.configImage = false → t.dev.svn = f)
            ∧ (imageOk f 2 Config.configImage = true → t.dev.svn = max f (leNat ((Config.configImage.drop 6).take 2))
              ∧ t.dev.config = some Config.configImage))
          ∧ t.dev.bramble = img ∧ t.dev.brambleDue = [(0, false)] ∧ t.dev.attKey = some (s.dev.attKey.getD Config.attestationKey)
          ∧ t.dev.blocks.take 3 = [Config.hollyComponent 0, Config.hollyComponent 1, img].map sha384
          ∧ t.dev.meas = t.dev.blocks.foldl (fun m h => sha384 (m ++ h)) (List.replicate 48 0) ∧ (∀ i < 8, (coreAt t (256 + i)).csr.kdiv = 3 ∧ (coreAt t (256 + i)).st ≠ .disabled)
          ∧ (∀ g < 64, Config.coreGood g = true → (coreAt s g).st = .disabled → (coreAt t g).st = .idle))
      ∧ (imageOk s.dev.svn 1 img = false → ∃ t, exec (.selftestEnd ps img) s = .next t ∧ t.dev.st = .safe
        ∧ t.link.session = false ∧ t.dev.svn = s.dev.svn))
    ∧ (∀ k n b, s.dev.st = .quickset → n < (match k with | .die => 4 | .stack => 8 | .port => 8 | .link => 16) →
      (k, n) ∉ s.dev.passed → (k, n) ∉ s.dev.failed →
      (∃ t, exec (.partTestEnd k n b) s = .next t
        ∧ (b = true → t.dev.passed = s.dev.passed ++ [(k, n)] ∧ t.dev.failed = s.dev.failed)
        ∧ (b = false → t.dev.failed = s.dev.failed ++ [(k, n)] ∧ t.dev.passed = s.dev.passed)
        ∧ t.dev.st = if s.dev.passed.length + s.dev.failed.length = 35 then .service else .quickset))
    ∧ (∀ img, (∀ x ∈ s.dev.brambleDue, 256 + 8 * x.1 ≠ s.cur) → exec (.brambleRestart img) s = .next s)
    ∧ (∀ img die fault ds, s.dev.st = .quickset ∨ s.dev.st = .service → s.dev.brambleDue = (die, fault) :: ds →
      s.cur = 256 + 8 * die → let n := (s.dev.restarts.filter (fun t => s.tick < t + 1000)).length
      (imageOk s.dev.svn 1 img = true → fault = false ∨ n < 2 → ∃ t, exec (.brambleRestart img) s = .next t
        ∧ (core t).st = .running ∧ (core t).pc = Config.brambleEntry ∧ (core t).ctx = 0xFFF ∧ (core t).bramble = true
        ∧ t.dev.st = s.dev.st ∧ t.dev.brambleDue = ds ∧ othersKept s t
        ∧ t.dev.svn = max s.dev.svn (leNat ((img.drop 6).take 2)))
      ∧ (imageOk s.dev.svn 1 img = true → fault = true → 2 ≤ n → ∃ t, exec (.brambleRestart img) s = .next t
        ∧ t.dev.st = .safe ∧ t.link.session = false)
      ∧ (imageOk s.dev.svn 1 img = false → img ≠ s.dev.bramble → exec (.brambleRestart img) s = .next s))
    ∧ (s.dev.st = .quickset ∨ s.dev.st = .service → 256 ≤ s.cur → ∃ t, exec .hollyFault s = .next t ∧ t.dev.st = .safe
      ∧ t.link.session = false)
    ∧ (∃ t, exec .powerCycle s = .next t ∧ t.dev.st = .reset ∧ t.dev.svn = s.dev.svn ∧ t.dev.attKey = s.dev.attKey ∧ t.cores = State.reset.cores
      ∧ t.regions = State.reset.regions ∧ t.dram = State.reset.dram ∧ t.link = State.reset.link ∧ t.now = State.reset.now)

/-! ### Decoding (R29 to R46, R164) -/

/-- The predicate of a word whose pred field is zero (R33). -/
def Sys2Proof.Machine.Claims.always : Pred := ⟨false, 0⟩

/-- Words of spec/, each with its slot, its bundle's literal words and the instruction it stands for. -/
def Sys2Proof.Machine.Claims.sampleWords : List (Slot × List IWord × IWord × Instr) :=
  [(.s, [0x3E8], 0x01018000, .add always 3 0 false (.lit 1000)),
   (.s, [1], 0x01020030, .add always 4 0 false (.lit 0x100000000)),
   (.s, [], 0x010101C0, .add always 2 0 false (.reg 0 false)),
   (.s, [], 0x1700A5DE, .cmpltu always 1 9 false (.reg 15 false) 0),
   (.s, [0x40], 0x2C001A00, .loop always 6 true (.lit 0x40)),
   (.s, [0xFFFFFFEC], 0x28100010, .br ⟨false, 1⟩ (.lit (BitVec.ofInt 64 (-20)))),
   (.s, [32], 0x20019806, .lds always 3 6 false (.lit 32) true 2),
   (.s, [], 0x34060940, .xmovS always ⟨.m, false, 1, 5, false, 0⟩),
   (.s, [2], 0x40059C03, .rentHBM always 11 7 false 2),
   (.s, [], 0x49008C03, .fencex always 1 3 3),
   (.s, [], 0x59030441, .qtake always 6 1 false 2 false true),
   (.s, [], 0x2F031400, .rft always 6 5),
   (.v0, [], 0x01208878, .vadd .v0 ⟨false, 2⟩ 1 2 true 3 true false),
   (.v1, [], 0x11008010, .visub .v1 always 1 0 true 0 false),
   (.v0, [1024], 0x40063401, .vld .v0 always 12 13 false 1024 1),
   (.v0, [], 0x343211CB, .vbcst .v0 ⟨false, 3⟩ 4 4 false (.reg 5 true) 0),
   (.v0, [], 0x4A020831, .vpack .v0 always 4 2 true 1 true 0),
   (.m, [], 0x0B003840, .xmovM always ⟨.s, false, 7, 1, false, 0⟩),
   (.m, [2], 0x01900000, .mcall ⟨true, 1⟩ (.lit 2)),
   (.m, [], 0x08008800, .mtst always 1 2 0),
   (.c0, [], 0x21061841, .egoLd .c0 always 1 true 6 2 1),
   (.c1, [4], 0x27008002, .waitwCF .c1 always 1 none (.lit 4)),
   (.c0, [], 0x38088886, .gath .c0 always true 1 2 4 6),
   (.c1, [], 0x40010443, .coll .c1 always false 0 2 1 2 3)]

/-- R31 to R40 by the words that spec/ writes out: each decodes to the instruction it stands for. -/
def Sys2Proof.Machine.Claims.EncodingSamples : Prop :=
  ∀ x ∈ sampleWords, (decodeSlot true 0 x.1 x.2.1 x.2.2.1).toOption = some x.2.2.2

/-- R42: a word whose opcode its slot's space does not assign, or whose fields or literal value are not legal, is ILLEGAL_OP;
a privileged instruction on a compute core is PRIV; a reference to a literal that the bundle does not carry is
ILLEGAL_LITERAL; and these checks come in this order. -/
def Sys2Proof.Machine.Claims.DecodeRefusals : Prop :=
  ∀ (ctrl : Bool) (pc : Nat) (sl : Slot) (ls : List IWord) (w : IWord),
    (parse sl w (litValue w ls) = none → decodeSlot ctrl pc sl ls w = .error .illegalOp)
    ∧ ∀ b i, parse sl w (litValue w ls) = some (b, i) →
      (legal i = false → decodeSlot ctrl pc sl ls w = .error .illegalOp)
      ∧ (legal i = true → privileged i = true → ctrl = false → decodeSlot ctrl pc sl ls w = .error .priv)
      ∧ (legal i = true → (privileged i = true → ctrl = true) → b = true → regForm w = false → ls.length ≤ lidx w →
        decodeSlot ctrl pc sl ls w = .error .illegalLiteral)
      ∧ (legal i = true → (privileged i = true → ctrl = true) → (b = true → litExists w ls = true) → litOk pc i = false →
        decodeSlot ctrl pc sl ls w = .error .illegalOp)

/-- R31 to R42: the words that spec/ writes out decode to their instructions, and the checks of decode refuse in their order.
Where the spec leaves a choice, the statement follows the model's: log 65. -/
def Obligations.DecodingIsRight : Prop := EncodingSamples ∧ DecodeRefusals

/-- R31 to R42 and R164: every well-formed instruction is what its word decodes to, in its slot and as the one slot of a
bundle, whatever its operands; on a compute core a privileged one is refused as PRIV. The same holds of micro-operations. -/
def Obligations.DecodeRoundTrip : Prop :=
  (∀ (pc : Nat) (i : Instr) (sl : Slot) (w : IWord) (ls : List IWord),
    hasWord i = true → i.wf pc = true → encodeSlot i = (sl, w, ls) →
    decodeSlot true pc sl ls w = .ok i
    ∧ decodeSlot false pc sl ls w = (if privileged i then .error .priv else .ok i)
    ∧ ∃ h ws, encode i = h :: ws ∧ bundleLen h = ws.length + 1 ∧ decodeBundle true pc h ws = .ok [(sl, w, i)])
  ∧ ∀ u : Instr, encodeUop u ≠ 0 → legal u = true → decodeUop (encodeUop u) = some u

/-! ### The step (R47, R53, R186) -/

/-- R49, R53, R186: a core whose turn comes, with nothing that holds it and nothing that lands or is due, and whose bundle
decodes to the one instruction `i`, takes the step `exec i`; the bundle's energy is charged if its slot has issued, and the bundle
ends while the core goes on running. On a control core that two programs share the step may first be a time slice (R354, log 91).
Where the spec leaves a choice, the statement follows the model's: logs 2, 22, 91 and 118. -/
def Obligations.StepRunsDecoded : Prop :=
  ∀ (s : State) (g : Nat) (rest : List Nat) (b : Bundle) (sl : Slot) (w : IWord) (i : Instr) (s0 s2 s3 : State),
    s.inputs = [] → dueStep s = none → s.todo = g :: rest → g < coreCount →
    s0 = { s with cur := g, todo := rest } → (core s0).st = .running →
    (isCtrl g = true → s.now % ((core s0).csr.kdiv.toNat + 1) = 0 ∧ Map.find? s.slices (clusterNo g / 8) = none) →
    (core s0).pme.samples = [] → dueLandings (core s0) = [] →
    (core s0).alwAgain = false → (core s0).asyncs = [] → (core s0).save = none → (core s0).inEnd = false →
    (core s0).resume = none → (core s0).drain = none → earlyCauses s0 = [] → (core s0).bun.slots = [] →
    decodeAt s0 = .ok b → b.slots = [(sl, w, i)] →
    s2 = noteWait (startWakes (updCore (fun c => { c with bun := b }) s0)) →
    (core s2).bun.slots = [(sl, w, i)] → (core s2).st = .running → (core s2).resume = none → dueLandings (core s2) = [] →
    bundleCauses s2 = [] → balrArrives s2 = none → delayAtEnd (core s2) = false →
    s3 = updCore (fun c => { c with bun := { c.bun with word := w } }) (rejoin s2) →
    delivery (core s3) (sl, w, i) = none → lossOf (core s3) sl = none → guardMeets (core s3) (sl, w, i) = .free →
    step s = andThen (exec i s3) (fun t =>
      let t1 := chargeSlot sl.num (core (rejoin s2)).bun t
      .next (if goesOn t1 then
          conflictsOf (bundleAccs (core (rejoin s2)) [(sl, w, i)]) (core t1).bun.arb (endBundle (chargeOnce (core t1).bun t1))
        else splitConflicts (bundleAccs (core (rejoin s2)) [(sl, w, i)]) (sl, w, i) (rejoin s2) t1))

/-! ### What an instruction leaves alone (R23, R46, R47) -/

/-- The instructions that switch register banks: BANK.WR (R63). -/
def Sys2Proof.Machine.Claims.cutsBanks : Instr → Bool
  | .bankWRS _ _ | .bankWRV _ _ _ => true
  | _ => false

/-- The instructions that steer the program counter: branches, calls and returns, LOOP, and a CSR write, which may name the
loop stack (R81 to R87, R192). -/
def Sys2Proof.Machine.Claims.steers : Instr → Bool
  | .br _ _ | .bri _ _ _ _ _ | .call _ _ _ | .ret _ _ _ | .loop _ _ _ _ => true
  | .csrw _ _ _ _ _ | .csrs _ _ _ _ _ | .csrc _ _ _ _ _ => true
  | _ => false

/-- The instructions that may write bytes of storage as they issue: stores, atomics, the queue instructions, a block taken
from the landing buffer, ECAN, under which granules in flight complete, and those that begin or end a region (R77 to R80, R128,
R216, R224, R237, R272). -/
def Sys2Proof.Machine.Claims.writesStorage : Instr → Bool
  | .sts _ _ _ _ _ _ | .amo _ _ _ _ _ _ _ | .amocas _ _ _ _ _ _ _ | .kst _ _ _ _ _ _ | .vst _ _ _ _ _ _ | .vstx _ _ _ _ _ => true
  | .qput _ _ _ _ _ _ | .qtake _ _ _ _ _ _ _ | .blatch _ _ _ _ _ | .bltry _ _ _ _ _ _ | .ecan _ _ _ => true
  | .rentSP _ _ _ _ _ | .rentIS _ _ _ _ _ | .rentHBM _ _ _ _ _ | .rentCAP _ _ _ _ _ | .vacate _ _ _ _ => true
  | _ => false

/-- The instructions that may write another core's scratchpad as they issue: ECAN, whose granules may go there, and VACATE,
which ends a region of any core (R209, R216, R238). -/
def Sys2Proof.Machine.Claims.reachesCores : Instr → Bool
  | .ecan _ _ _ | .vacate _ _ _ _ => true
  | _ => false

/-- R25, R47, R50: an instruction that a compute core issues, whether it has its effect or faults, changes no register of
any file at once (its results are in flight), no predicate, and neither the program counter nor the clock; it changes the
branch and loop state only where it steers the program counter (or where a fatal fault ends the context and leaves the core
IDLE), bytes of storage only where it writes storage, no register or program counter of another core, and another core's
scratchpad only by ECAN and VACATE. -/
def Sys2Proof.Machine.Claims.IssueKeeps : Prop :=
  ∀ (i : Instr) (s t : State), s.cur < 256 → hasWord i = true → exec i s = .next t →
    t.cur = s.cur ∧ t.now = s.now ∧ t.tick = s.tick ∧ t.todo = s.todo
    ∧ (core t).pc = (core s).pc ∧ (core t).files.p = (core s).files.p
    ∧ (cutsBanks i = false → (core t).files.x = (core s).files.x ∧ (core t).files.v = (core s).files.v)
    ∧ (steers i = false → (core t).st ≠ .idle → (core t).br = (core s).br ∧ (core t).loops = (core s).loops
      ∧ (core t).bun.taken = (core s).bun.taken ∧ (core t).bun.jump = (core s).bun.jump)
    ∧ (writesStorage i = false → (core t).sp.mem = (core s).sp.mem ∧ (core t).istore = (core s).istore
      ∧ t.dram.hbm = s.dram.hbm ∧ t.dram.cap = s.dram.cap)
    ∧ ∀ g < 256, g ≠ s.cur → (coreAt t g).files = (coreAt s g).files ∧ (coreAt t g).pc = (coreAt s g).pc
      ∧ (reachesCores i = false → (coreAt t g).sp.mem = (coreAt s g).sp.mem)

/-- R46: a legal instruction of S, M, C0 or C1 whose predicate is false has no effect but its last-use marks, which end only
registers that it names as sources; a core that the instruction held in a wait on a barrier waits no more. -/
def Sys2Proof.Machine.Claims.FalsePredicates : Prop :=
  ∀ (i : Instr) (s : State) (sl : Slot) (w : IWord) (ls : List IWord), hasWord i = true → legal i = true →
    encodeSlot i = (sl, w, ls) → isV sl = false → predOn (core s) sl (predField w) = false →
    (privileged i = true → 256 ≤ s.cur) →
    ∃ ms : List Reg, (∀ r ∈ ms, r ∈ regReads i) ∧ (exec i s = .next (updCore (killMarks sl ms) s)
      ∨ exec i s = .next (updCore (killMarks sl ms) (updCore (fun c => { c with waitOn := none }) s)))

/-- R23, R25, R46, R47, R50: what an instruction leaves alone at issue, and that a false predicate leaves everything alone
but last-use marks. -/
def Obligations.IssueFrames : Prop := IssueKeeps ∧ FalsePredicates

/-! ### Every state (R10, R12 to R17) -/

/-- Every row of the opcode table has a meaning in every state, and a step in a state whose schedule names cores of the
device never stops.
Where the spec leaves a choice, the statement follows the model's: log 79. -/
def Obligations.NothingStops : Prop :=
  (∀ i s, ∃ t, exec i s = .next t) ∧ ∀ s, CoresExist s → StepSafe s

/-- Every step keeps every byte memory of the machine in its canonical form, from any state that has it.
Where the spec leaves a choice, the statement follows the model's: log 6. -/
def Obligations.MemoriesStayCanonical : Prop :=
  ∀ s t, MemoriesWf s → step s = .next t → MemoriesWf t

/-- R10, R65, R66, R192, R228, R334, R347, R348, R351: right after reset the device is in RESET with every core DISABLED, both
clocks at zero and no port up; each grant is 0xFFFFFF, each divisor 1, each stack has its 16 dies and is out of hot mode, and
no fatal record is held. The model's choice where the spec states nothing for reset (logs 3 and 5): no register is live,
nothing is in flight, no bundle is valid, every bank is OFF, every channel IDLE, every context and region FREE, every peer
DOWN. The state is one that the statements about memories and cores speak of. -/
def Obligations.ResetState : Prop :=
  let s := State.reset
  MemoriesWf s ∧ CoresExist s ∧ s.dev.st = .reset ∧ s.now = 0 ∧ s.tick = 0 ∧ s.link.ports = 0
  ∧ (∀ g, (coreAt s g).st = .disabled ∧ (coreAt s g).csr.grant = 0xFFFFFF ∧ (∀ sl, divisor (coreAt s g) sl = 1)
    ∧ (coreAt s g).csr.kdiv = 0 ∧ (coreAt s g).istore = [] ∧ (coreAt s g).pend = []
    ∧ (∀ r, isLive (coreAt s g) .s r = false ∧ isLive (coreAt s g) .v0 r = false ∧ isLive (coreAt s g) .v1 r = false)
    ∧ (∀ k, (Map.get (coreAt s g).files.banks k {}).st = .off ∧ (Map.get (coreAt s g).sp.banks k {}).st = .off)
    ∧ ∀ k, (getChan (coreAt s g) k).st = .idle ∧ (getChan (coreAt s g) k).q = [])
  ∧ (∀ k, (clusterAt s k).lfValid = false ∧ (clusterAt s k).lost = 0 ∧ (clusterAt s k).q = [])
  ∧ (∀ k, (Map.get s.dram.stks k {}).dies = 0xFFFF ∧ (Map.get s.dram.stks k {}).hot = false)
  ∧ (∀ c, (ctxAt s c).st = .free) ∧ (∀ h, (Map.get s.regions h {}).st = .free)
  ∧ ∀ p, (Map.get s.link.peers p {}).st = .down
end

