-- ==== Sys2Proof/Laws/Maps.lean ====
section
/-! SUPPORT. Finite maps and byte memories: reading after writing, and the canonical form, which every operation keeps. -/

namespace Sys2Proof.Machine

open Sys2Proof

/-! ### Reading after writing -/

theorem Map.find?_put_self {α : Type} (m : Map α) (k : Nat) (v : α) : Map.find? (Map.put m k v) k = some v := by
  induction m with
  | nil => simp [Map.put, Map.find?]
  | cons e m ih =>
    obtain ⟨k', v'⟩ := e
    simp only [Map.put]
    split
    · simp [Map.find?]
    · split
      · simp [Map.find?]
      · simp [Map.find?, *]

theorem Map.find?_put_ne {α : Type} (m : Map α) {k k' : Nat} (v : α) (h : k' ≠ k) :
    Map.find? (Map.put m k v) k' = Map.find? m k' := by
  induction m with
  | nil => simp [Map.put, Map.find?, Ne.symm h]
  | cons e m ih =>
    obtain ⟨j, w⟩ := e
    simp only [Map.put]
    split
    · rename_i hj; subst hj; simp [Map.find?, Ne.symm h]
    · split
      · simp [Map.find?, Ne.symm h]
      · simp [Map.find?, ih]

@[simp] theorem Map.get_put_self {α : Type} (m : Map α) (k : Nat) (v d : α) : Map.get (Map.put m k v) k d = v := by
  simp [Map.get, Map.find?_put_self]

theorem Map.get_put_ne {α : Type} (m : Map α) {k k' : Nat} (v d : α) (h : k' ≠ k) :
    Map.get (Map.put m k v) k' d = Map.get m k' d := by
  simp [Map.get, Map.find?_put_ne m v h]

@[simp] theorem Map.put_put {α : Type} (m : Map α) (k : Nat) (v w : α) : Map.put (Map.put m k v) k w = Map.put m k w := by
  induction m with
  | nil => simp [Map.put]
  | cons e m ih =>
    obtain ⟨j, x⟩ := e
    simp only [Map.put]
    split
    · simp [Map.put]
    · split
      · simp [Map.put]
      · simp [Map.put, *]

/-! ### Keys in rising order -/

/-- Every key of a map is above a bound. -/
def Map.above {α : Type} (b : Nat) (m : Map α) : Prop := ∀ e ∈ m, b < e.1

theorem Map.rising_cons {α : Type} (e : Nat × α) (m : Map α) :
    Map.rising (e :: m) = true ↔ Map.above e.1 m ∧ Map.rising m = true := by
  induction m generalizing e with
  | nil => simp [Map.rising, Map.above]
  | cons f m ih =>
    have hf := ih f
    obtain ⟨k, v⟩ := e
    obtain ⟨j, w⟩ := f
    simp only [Map.rising, Bool.and_eq_true, decide_eq_true_eq, Map.above, List.mem_cons, forall_eq_or_imp] at *
    constructor
    · rintro ⟨hk, hr⟩
      exact ⟨⟨hk, fun x hx => Nat.lt_trans hk ((hf.1 hr).1 x hx)⟩, hr⟩
    · rintro ⟨⟨hk, _⟩, hr⟩
      exact ⟨hk, hr⟩

theorem Map.mem_put {α : Type} {m : Map α} {k : Nat} {v : α} {e : Nat × α} (h : e ∈ Map.put m k v) : e = (k, v) ∨ e ∈ m := by
  induction m with
  | nil => simpa [Map.put] using h
  | cons f m ih =>
    obtain ⟨j, w⟩ := f
    simp only [Map.put] at h
    split at h
    · rcases List.mem_cons.1 h with h | h
      · exact .inl h
      · exact .inr (List.mem_cons_of_mem _ h)
    · split at h
      · rcases List.mem_cons.1 h with h | h
        · exact .inl h
        · exact .inr h
      · rcases List.mem_cons.1 h with h | h
        · exact .inr (by simp [h])
        · rcases ih h with h | h
          · exact .inl h
          · exact .inr (List.mem_cons_of_mem _ h)

theorem Map.mem_del {α : Type} {m : Map α} {k : Nat} {e : Nat × α} (h : e ∈ Map.del m k) : e ∈ m := by
  induction m with
  | nil => simp [Map.del] at h
  | cons f m ih =>
    obtain ⟨j, w⟩ := f
    simp only [Map.del] at h
    split at h
    · exact List.mem_cons_of_mem _ h
    · rcases List.mem_cons.1 h with h | h
      · simp [h]
      · exact List.mem_cons_of_mem _ (ih h)

theorem Map.rising_put {α : Type} {m : Map α} (k : Nat) (v : α) (h : Map.rising m = true) :
    Map.rising (Map.put m k v) = true := by
  induction m with
  | nil => simp [Map.put, Map.rising]
  | cons f m ih =>
    obtain ⟨j, w⟩ := f
    have hc := (Map.rising_cons _ _).1 h
    simp only [Map.put]
    split
    · rename_i hj; subst hj; exact (Map.rising_cons _ _).2 hc
    · split
      · rename_i hk
        refine (Map.rising_cons _ _).2 ⟨fun e he => ?_, h⟩
        rcases List.mem_cons.1 he with he | he
        · simpa [he] using hk
        · exact Nat.lt_trans hk (hc.1 e he)
      · refine (Map.rising_cons _ _).2 ⟨fun e he => ?_, ih hc.2⟩
        rcases Map.mem_put he with he | he
        · subst he; simp only at *; omega
        · exact hc.1 e he

theorem Map.rising_del {α : Type} {m : Map α} (k : Nat) (h : Map.rising m = true) : Map.rising (Map.del m k) = true := by
  induction m with
  | nil => simpa [Map.del] using h
  | cons f m ih =>
    obtain ⟨j, w⟩ := f
    have hc := (Map.rising_cons _ _).1 h
    simp only [Map.del]
    split
    · exact hc.2
    · exact (Map.rising_cons _ _).2 ⟨fun e he => hc.1 e (Map.mem_del he), ih hc.2⟩

theorem Map.rising_filter {α : Type} {m : Map α} (p : Nat × α → Bool) (h : Map.rising m = true) :
    Map.rising (m.filter p) = true := by
  induction m with
  | nil => simp [Map.rising]
  | cons f m ih =>
    have hc := (Map.rising_cons _ _).1 h
    simp only [List.filter_cons]
    split
    · exact (Map.rising_cons _ _).2 ⟨fun e he => hc.1 e (List.mem_filter.1 he).1, ih hc.2⟩
    · exact ih hc.2

theorem Map.find?_none_of_above {α : Type} {m : Map α} {b k : Nat} (h : Map.above b m) (hk : k ≤ b) :
    Map.find? m k = none := by
  induction m with
  | nil => rfl
  | cons e m ih =>
    obtain ⟨j, v⟩ := e
    have hj : b < j := h (j, v) (by simp)
    simp only [Map.find?]
    rw [if_neg (by omega)]
    exact ih (fun x hx => h x (List.mem_cons_of_mem _ hx))

theorem Map.find?_del_self {α : Type} {m : Map α} (k : Nat) (h : Map.rising m = true) : Map.find? (Map.del m k) k = none := by
  induction m with
  | nil => rfl
  | cons e m ih =>
    obtain ⟨j, v⟩ := e
    have hc := (Map.rising_cons _ _).1 h
    simp only [Map.del]
    split
    · rename_i hj; subst hj; exact Map.find?_none_of_above hc.1 (Nat.le_refl _)
    · simp [Map.find?, *]

theorem Map.find?_del_ne {α : Type} (m : Map α) {k k' : Nat} (h : k' ≠ k) :
    Map.find? (Map.del m k) k' = Map.find? m k' := by
  induction m with
  | nil => rfl
  | cons e m ih =>
    obtain ⟨j, v⟩ := e
    simp only [Map.del]
    split
    · rename_i hj; subst hj; simp [Map.find?, Ne.symm h]
    · simp [Map.find?, ih]

/-! ### The canonical form of a byte memory -/

theorem Memory.wf_iff (m : Memory) : Memory.wf m = true ↔ Map.rising m = true ∧ ∀ c ∈ m, c.2 ≠ 0 := by
  simp [Memory.wf]

theorem Memory.wf_write {m : Memory} (a : Nat) (b : Byte) (h : Memory.wf m = true) : Memory.wf (Memory.write m a b) = true := by
  rw [Memory.wf_iff] at *
  unfold Memory.write
  split
  · exact ⟨Map.rising_del a h.1, fun c hc => h.2 c (Map.mem_del hc)⟩
  · rename_i hb
    refine ⟨Map.rising_put a b h.1, fun c hc => ?_⟩
    rcases Map.mem_put hc with hc | hc
    · simpa [hc] using hb
    · exact h.2 c hc

theorem Memory.wf_writeBytes {m : Memory} (a : Nat) (bs : List Byte) (h : Memory.wf m = true) :
    Memory.wf (Memory.writeBytes m a bs) = true := by
  induction bs generalizing m a with
  | nil => exact h
  | cons b bs ih => exact ih (a + 1) (Memory.wf_write a b h)

theorem Memory.wf_zero {m : Memory} (a n : Nat) (h : Memory.wf m = true) : Memory.wf (Memory.zero m a n) = true := by
  rw [Memory.wf_iff] at *
  exact ⟨Map.rising_filter _ h.1, fun c hc => h.2 c (List.mem_filter.1 hc).1⟩

theorem Memory.wf_writeLE {m : Memory} (a n v : Nat) (h : Memory.wf m = true) : Memory.wf (Memory.writeLE m a n v) = true :=
  Memory.wf_writeBytes a _ h

theorem Memory.wf_nil : Memory.wf [] = true := rfl

theorem Memory.wf_foldl_write {m : Memory} (bs : List (Nat × Byte)) (h : Memory.wf m = true) :
    Memory.wf (bs.foldl (fun m b => Memory.write m b.1 b.2) m) = true := by
  induction bs generalizing m with
  | nil => exact h
  | cons b bs ih => exact ih (Memory.wf_write b.1 b.2 h)

/-! ### Reading bytes -/

theorem Memory.read_write_ne (m : Memory) {a a' : Nat} (b : Byte) (h : a' ≠ a) :
    Memory.read (Memory.write m a b) a' = Memory.read m a' := by
  unfold Memory.read Memory.write Map.get
  split
  · rw [Map.find?_del_ne m h]
  · rw [Map.find?_put_ne m b h]

theorem Memory.read_write_self {m : Memory} (a : Nat) (b : Byte) (h : Memory.wf m = true) :
    Memory.read (Memory.write m a b) a = b := by
  have hr := ((Memory.wf_iff m).1 h).1
  unfold Memory.read Memory.write Map.get
  split
  · rename_i hb; rw [Map.find?_del_self a hr]; exact hb.symm
  · rw [Map.find?_put_self]; rfl

theorem Memory.read_writeBytes_out (m : Memory) (a : Nat) (bs : List Byte) {a' : Nat} (h : a' < a ∨ a + bs.length ≤ a') :
    Memory.read (Memory.writeBytes m a bs) a' = Memory.read m a' := by
  induction bs generalizing m a with
  | nil => rfl
  | cons b bs ih =>
    have hl : (b :: bs).length = bs.length + 1 := rfl
    simp only [Memory.writeBytes]
    rw [ih _ _ (by omega), Memory.read_write_ne _ _ (by omega)]

theorem Memory.read_writeBytes_in {m : Memory} (a : Nat) (bs : List Byte) {i : Nat} (hi : i < bs.length)
    (h : Memory.wf m = true) : Memory.read (Memory.writeBytes m a bs) (a + i) = bs[i] := by
  induction bs generalizing m a i with
  | nil => simp at hi
  | cons b bs ih =>
    simp only [Memory.writeBytes]
    cases i with
    | zero =>
      rw [Memory.read_writeBytes_out _ _ _ (by omega)]
      simpa using Memory.read_write_self a b h
    | succ i =>
      have hi' : i < bs.length := by simpa using hi
      have := ih (a + 1) hi' (Memory.wf_write a b h)
      rw [show a + (i + 1) = a + 1 + i by omega, this]
      rfl

@[simp] theorem leBytes_length (n v : Nat) : (leBytes n v).length = n := by
  induction n generalizing v with
  | zero => rfl
  | succ n ih => simp [leBytes, ih]

theorem leNat_leBytes (n v : Nat) : leNat (leBytes n v) = v % 256 ^ n := by
  induction n generalizing v with
  | zero => simp [leBytes, leNat, Nat.mod_one]
  | succ n ih =>
    have hb : (BitVec.ofNat 8 v).toNat = v % 256 := by simp [BitVec.toNat_ofNat]
    rw [leBytes, leNat, ih, hb, Nat.pow_succ, Nat.mul_comm (256 ^ n) 256, Nat.mod_mul]

end Sys2Proof.Machine
end

