-- ==== Sys2Proof/Laws/State.lean ====
section
/-! SUPPORT. The fields of the state after each of its updates, and the composition of updates. -/

namespace Sys2Proof.Machine

open Sys2Proof

/-! ### One lemma per field and update -/

@[simp] theorem setCoreAt_now (s : State) (g : Nat) (c : Core) : (setCoreAt s g c).now = s.now := rfl
@[simp] theorem setCoreAt_tick (s : State) (g : Nat) (c : Core) : (setCoreAt s g c).tick = s.tick := rfl
@[simp] theorem setCoreAt_cur (s : State) (g : Nat) (c : Core) : (setCoreAt s g c).cur = s.cur := rfl
@[simp] theorem setCoreAt_todo (s : State) (g : Nat) (c : Core) : (setCoreAt s g c).todo = s.todo := rfl
@[simp] theorem setCoreAt_inputs (s : State) (g : Nat) (c : Core) : (setCoreAt s g c).inputs = s.inputs := rfl
@[simp] theorem setCoreAt_ctr (s : State) (g : Nat) (c : Core) : (setCoreAt s g c).ctr = s.ctr := rfl
@[simp] theorem setCoreAt_clusters (s : State) (g : Nat) (c : Core) : (setCoreAt s g c).clusters = s.clusters := rfl
@[simp] theorem setCoreAt_ctxs (s : State) (g : Nat) (c : Core) : (setCoreAt s g c).ctxs = s.ctxs := rfl
@[simp] theorem setCoreAt_regions (s : State) (g : Nat) (c : Core) : (setCoreAt s g c).regions = s.regions := rfl
@[simp] theorem setCoreAt_images (s : State) (g : Nat) (c : Core) : (setCoreAt s g c).images = s.images := rfl
@[simp] theorem setCoreAt_queues (s : State) (g : Nat) (c : Core) : (setCoreAt s g c).queues = s.queues := rfl
@[simp] theorem setCoreAt_nodes (s : State) (g : Nat) (c : Core) : (setCoreAt s g c).nodes = s.nodes := rfl
@[simp] theorem setCoreAt_groups (s : State) (g : Nat) (c : Core) : (setCoreAt s g c).groups = s.groups := rfl
@[simp] theorem setCoreAt_barriers (s : State) (g : Nat) (c : Core) : (setCoreAt s g c).barriers = s.barriers := rfl
@[simp] theorem setCoreAt_buses (s : State) (g : Nat) (c : Core) : (setCoreAt s g c).buses = s.buses := rfl
@[simp] theorem setCoreAt_dram (s : State) (g : Nat) (c : Core) : (setCoreAt s g c).dram = s.dram := rfl
@[simp] theorem setCoreAt_pxi (s : State) (g : Nat) (c : Core) : (setCoreAt s g c).pxi = s.pxi := rfl
@[simp] theorem setCoreAt_link (s : State) (g : Nat) (c : Core) : (setCoreAt s g c).link = s.link := rfl
@[simp] theorem setCoreAt_dev (s : State) (g : Nat) (c : Core) : (setCoreAt s g c).dev = s.dev := rfl
@[simp] theorem setCoreAt_turns (s : State) (g : Nat) (c : Core) : (setCoreAt s g c).turns = s.turns := rfl
@[simp] theorem setCoreAt_slices (s : State) (g : Nat) (c : Core) : (setCoreAt s g c).slices = s.slices := rfl

@[simp] theorem setCore_now (s : State) (c : Core) : (setCore s c).now = s.now := rfl
@[simp] theorem setCore_tick (s : State) (c : Core) : (setCore s c).tick = s.tick := rfl
@[simp] theorem setCore_cur (s : State) (c : Core) : (setCore s c).cur = s.cur := rfl
@[simp] theorem setCore_todo (s : State) (c : Core) : (setCore s c).todo = s.todo := rfl
@[simp] theorem setCore_inputs (s : State) (c : Core) : (setCore s c).inputs = s.inputs := rfl
@[simp] theorem setCore_ctr (s : State) (c : Core) : (setCore s c).ctr = s.ctr := rfl
@[simp] theorem setCore_clusters (s : State) (c : Core) : (setCore s c).clusters = s.clusters := rfl
@[simp] theorem setCore_ctxs (s : State) (c : Core) : (setCore s c).ctxs = s.ctxs := rfl
@[simp] theorem setCore_regions (s : State) (c : Core) : (setCore s c).regions = s.regions := rfl
@[simp] theorem setCore_images (s : State) (c : Core) : (setCore s c).images = s.images := rfl
@[simp] theorem setCore_queues (s : State) (c : Core) : (setCore s c).queues = s.queues := rfl
@[simp] theorem setCore_nodes (s : State) (c : Core) : (setCore s c).nodes = s.nodes := rfl
@[simp] theorem setCore_groups (s : State) (c : Core) : (setCore s c).groups = s.groups := rfl
@[simp] theorem setCore_barriers (s : State) (c : Core) : (setCore s c).barriers = s.barriers := rfl
@[simp] theorem setCore_buses (s : State) (c : Core) : (setCore s c).buses = s.buses := rfl
@[simp] theorem setCore_dram (s : State) (c : Core) : (setCore s c).dram = s.dram := rfl
@[simp] theorem setCore_pxi (s : State) (c : Core) : (setCore s c).pxi = s.pxi := rfl
@[simp] theorem setCore_link (s : State) (c : Core) : (setCore s c).link = s.link := rfl
@[simp] theorem setCore_dev (s : State) (c : Core) : (setCore s c).dev = s.dev := rfl
@[simp] theorem setCore_turns (s : State) (c : Core) : (setCore s c).turns = s.turns := rfl
@[simp] theorem setCore_slices (s : State) (c : Core) : (setCore s c).slices = s.slices := rfl

@[simp] theorem updCore_now (f : Core → Core) (s : State) : (updCore f s).now = s.now := rfl
@[simp] theorem updCore_tick (f : Core → Core) (s : State) : (updCore f s).tick = s.tick := rfl
@[simp] theorem updCore_cur (f : Core → Core) (s : State) : (updCore f s).cur = s.cur := rfl
@[simp] theorem updCore_todo (f : Core → Core) (s : State) : (updCore f s).todo = s.todo := rfl
@[simp] theorem updCore_inputs (f : Core → Core) (s : State) : (updCore f s).inputs = s.inputs := rfl
@[simp] theorem updCore_ctr (f : Core → Core) (s : State) : (updCore f s).ctr = s.ctr := rfl
@[simp] theorem updCore_clusters (f : Core → Core) (s : State) : (updCore f s).clusters = s.clusters := rfl
@[simp] theorem updCore_ctxs (f : Core → Core) (s : State) : (updCore f s).ctxs = s.ctxs := rfl
@[simp] theorem updCore_regions (f : Core → Core) (s : State) : (updCore f s).regions = s.regions := rfl
@[simp] theorem updCore_images (f : Core → Core) (s : State) : (updCore f s).images = s.images := rfl
@[simp] theorem updCore_queues (f : Core → Core) (s : State) : (updCore f s).queues = s.queues := rfl
@[simp] theorem updCore_nodes (f : Core → Core) (s : State) : (updCore f s).nodes = s.nodes := rfl
@[simp] theorem updCore_groups (f : Core → Core) (s : State) : (updCore f s).groups = s.groups := rfl
@[simp] theorem updCore_barriers (f : Core → Core) (s : State) : (updCore f s).barriers = s.barriers := rfl
@[simp] theorem updCore_buses (f : Core → Core) (s : State) : (updCore f s).buses = s.buses := rfl
@[simp] theorem updCore_dram (f : Core → Core) (s : State) : (updCore f s).dram = s.dram := rfl
@[simp] theorem updCore_pxi (f : Core → Core) (s : State) : (updCore f s).pxi = s.pxi := rfl
@[simp] theorem updCore_link (f : Core → Core) (s : State) : (updCore f s).link = s.link := rfl
@[simp] theorem updCore_dev (f : Core → Core) (s : State) : (updCore f s).dev = s.dev := rfl
@[simp] theorem updCore_turns (f : Core → Core) (s : State) : (updCore f s).turns = s.turns := rfl
@[simp] theorem updCore_slices (f : Core → Core) (s : State) : (updCore f s).slices = s.slices := rfl

@[simp] theorem updCoreAt_now (g : Nat) (f : Core → Core) (s : State) : (updCoreAt g f s).now = s.now := rfl
@[simp] theorem updCoreAt_tick (g : Nat) (f : Core → Core) (s : State) : (updCoreAt g f s).tick = s.tick := rfl
@[simp] theorem updCoreAt_cur (g : Nat) (f : Core → Core) (s : State) : (updCoreAt g f s).cur = s.cur := rfl
@[simp] theorem updCoreAt_todo (g : Nat) (f : Core → Core) (s : State) : (updCoreAt g f s).todo = s.todo := rfl
@[simp] theorem updCoreAt_inputs (g : Nat) (f : Core → Core) (s : State) : (updCoreAt g f s).inputs = s.inputs := rfl
@[simp] theorem updCoreAt_ctr (g : Nat) (f : Core → Core) (s : State) : (updCoreAt g f s).ctr = s.ctr := rfl
@[simp] theorem updCoreAt_clusters (g : Nat) (f : Core → Core) (s : State) : (updCoreAt g f s).clusters = s.clusters := rfl
@[simp] theorem updCoreAt_ctxs (g : Nat) (f : Core → Core) (s : State) : (updCoreAt g f s).ctxs = s.ctxs := rfl
@[simp] theorem updCoreAt_regions (g : Nat) (f : Core → Core) (s : State) : (updCoreAt g f s).regions = s.regions := rfl
@[simp] theorem updCoreAt_images (g : Nat) (f : Core → Core) (s : State) : (updCoreAt g f s).images = s.images := rfl
@[simp] theorem updCoreAt_queues (g : Nat) (f : Core → Core) (s : State) : (updCoreAt g f s).queues = s.queues := rfl
@[simp] theorem updCoreAt_nodes (g : Nat) (f : Core → Core) (s : State) : (updCoreAt g f s).nodes = s.nodes := rfl
@[simp] theorem updCoreAt_groups (g : Nat) (f : Core → Core) (s : State) : (updCoreAt g f s).groups = s.groups := rfl
@[simp] theorem updCoreAt_barriers (g : Nat) (f : Core → Core) (s : State) : (updCoreAt g f s).barriers = s.barriers := rfl
@[simp] theorem updCoreAt_buses (g : Nat) (f : Core → Core) (s : State) : (updCoreAt g f s).buses = s.buses := rfl
@[simp] theorem updCoreAt_dram (g : Nat) (f : Core → Core) (s : State) : (updCoreAt g f s).dram = s.dram := rfl
@[simp] theorem updCoreAt_pxi (g : Nat) (f : Core → Core) (s : State) : (updCoreAt g f s).pxi = s.pxi := rfl
@[simp] theorem updCoreAt_link (g : Nat) (f : Core → Core) (s : State) : (updCoreAt g f s).link = s.link := rfl
@[simp] theorem updCoreAt_dev (g : Nat) (f : Core → Core) (s : State) : (updCoreAt g f s).dev = s.dev := rfl
@[simp] theorem updCoreAt_turns (g : Nat) (f : Core → Core) (s : State) : (updCoreAt g f s).turns = s.turns := rfl
@[simp] theorem updCoreAt_slices (g : Nat) (f : Core → Core) (s : State) : (updCoreAt g f s).slices = s.slices := rfl

@[simp] theorem setCluster_now (s : State) (k : Nat) (c : Cluster) : (setCluster s k c).now = s.now := rfl
@[simp] theorem setCluster_tick (s : State) (k : Nat) (c : Cluster) : (setCluster s k c).tick = s.tick := rfl
@[simp] theorem setCluster_cur (s : State) (k : Nat) (c : Cluster) : (setCluster s k c).cur = s.cur := rfl
@[simp] theorem setCluster_todo (s : State) (k : Nat) (c : Cluster) : (setCluster s k c).todo = s.todo := rfl
@[simp] theorem setCluster_inputs (s : State) (k : Nat) (c : Cluster) : (setCluster s k c).inputs = s.inputs := rfl
@[simp] theorem setCluster_ctr (s : State) (k : Nat) (c : Cluster) : (setCluster s k c).ctr = s.ctr := rfl
@[simp] theorem setCluster_cores (s : State) (k : Nat) (c : Cluster) : (setCluster s k c).cores = s.cores := rfl
@[simp] theorem setCluster_ctxs (s : State) (k : Nat) (c : Cluster) : (setCluster s k c).ctxs = s.ctxs := rfl
@[simp] theorem setCluster_regions (s : State) (k : Nat) (c : Cluster) : (setCluster s k c).regions = s.regions := rfl
@[simp] theorem setCluster_images (s : State) (k : Nat) (c : Cluster) : (setCluster s k c).images = s.images := rfl
@[simp] theorem setCluster_queues (s : State) (k : Nat) (c : Cluster) : (setCluster s k c).queues = s.queues := rfl
@[simp] theorem setCluster_nodes (s : State) (k : Nat) (c : Cluster) : (setCluster s k c).nodes = s.nodes := rfl
@[simp] theorem setCluster_groups (s : State) (k : Nat) (c : Cluster) : (setCluster s k c).groups = s.groups := rfl
@[simp] theorem setCluster_barriers (s : State) (k : Nat) (c : Cluster) : (setCluster s k c).barriers = s.barriers := rfl
@[simp] theorem setCluster_buses (s : State) (k : Nat) (c : Cluster) : (setCluster s k c).buses = s.buses := rfl
@[simp] theorem setCluster_dram (s : State) (k : Nat) (c : Cluster) : (setCluster s k c).dram = s.dram := rfl
@[simp] theorem setCluster_pxi (s : State) (k : Nat) (c : Cluster) : (setCluster s k c).pxi = s.pxi := rfl
@[simp] theorem setCluster_link (s : State) (k : Nat) (c : Cluster) : (setCluster s k c).link = s.link := rfl
@[simp] theorem setCluster_dev (s : State) (k : Nat) (c : Cluster) : (setCluster s k c).dev = s.dev := rfl
@[simp] theorem setCluster_turns (s : State) (k : Nat) (c : Cluster) : (setCluster s k c).turns = s.turns := rfl
@[simp] theorem setCluster_slices (s : State) (k : Nat) (c : Cluster) : (setCluster s k c).slices = s.slices := rfl

@[simp] theorem setCtx_now (s : State) (id : BitVec 12) (x : Ctx) : (setCtx s id x).now = s.now := rfl
@[simp] theorem setCtx_tick (s : State) (id : BitVec 12) (x : Ctx) : (setCtx s id x).tick = s.tick := rfl
@[simp] theorem setCtx_cur (s : State) (id : BitVec 12) (x : Ctx) : (setCtx s id x).cur = s.cur := rfl
@[simp] theorem setCtx_todo (s : State) (id : BitVec 12) (x : Ctx) : (setCtx s id x).todo = s.todo := rfl
@[simp] theorem setCtx_inputs (s : State) (id : BitVec 12) (x : Ctx) : (setCtx s id x).inputs = s.inputs := rfl
@[simp] theorem setCtx_ctr (s : State) (id : BitVec 12) (x : Ctx) : (setCtx s id x).ctr = s.ctr := rfl
@[simp] theorem setCtx_cores (s : State) (id : BitVec 12) (x : Ctx) : (setCtx s id x).cores = s.cores := rfl
@[simp] theorem setCtx_clusters (s : State) (id : BitVec 12) (x : Ctx) : (setCtx s id x).clusters = s.clusters := rfl
@[simp] theorem setCtx_regions (s : State) (id : BitVec 12) (x : Ctx) : (setCtx s id x).regions = s.regions := rfl
@[simp] theorem setCtx_images (s : State) (id : BitVec 12) (x : Ctx) : (setCtx s id x).images = s.images := rfl
@[simp] theorem setCtx_queues (s : State) (id : BitVec 12) (x : Ctx) : (setCtx s id x).queues = s.queues := rfl
@[simp] theorem setCtx_nodes (s : State) (id : BitVec 12) (x : Ctx) : (setCtx s id x).nodes = s.nodes := rfl
@[simp] theorem setCtx_groups (s : State) (id : BitVec 12) (x : Ctx) : (setCtx s id x).groups = s.groups := rfl
@[simp] theorem setCtx_barriers (s : State) (id : BitVec 12) (x : Ctx) : (setCtx s id x).barriers = s.barriers := rfl
@[simp] theorem setCtx_buses (s : State) (id : BitVec 12) (x : Ctx) : (setCtx s id x).buses = s.buses := rfl
@[simp] theorem setCtx_dram (s : State) (id : BitVec 12) (x : Ctx) : (setCtx s id x).dram = s.dram := rfl
@[simp] theorem setCtx_pxi (s : State) (id : BitVec 12) (x : Ctx) : (setCtx s id x).pxi = s.pxi := rfl
@[simp] theorem setCtx_link (s : State) (id : BitVec 12) (x : Ctx) : (setCtx s id x).link = s.link := rfl
@[simp] theorem setCtx_dev (s : State) (id : BitVec 12) (x : Ctx) : (setCtx s id x).dev = s.dev := rfl
@[simp] theorem setCtx_turns (s : State) (id : BitVec 12) (x : Ctx) : (setCtx s id x).turns = s.turns := rfl
@[simp] theorem setCtx_slices (s : State) (id : BitVec 12) (x : Ctx) : (setCtx s id x).slices = s.slices := rfl

@[simp] theorem setRegion_now (key : Nat) (r : Region) (s : State) : (setRegion key r s).now = s.now := rfl
@[simp] theorem setRegion_tick (key : Nat) (r : Region) (s : State) : (setRegion key r s).tick = s.tick := rfl
@[simp] theorem setRegion_cur (key : Nat) (r : Region) (s : State) : (setRegion key r s).cur = s.cur := rfl
@[simp] theorem setRegion_todo (key : Nat) (r : Region) (s : State) : (setRegion key r s).todo = s.todo := rfl
@[simp] theorem setRegion_inputs (key : Nat) (r : Region) (s : State) : (setRegion key r s).inputs = s.inputs := rfl
@[simp] theorem setRegion_ctr (key : Nat) (r : Region) (s : State) : (setRegion key r s).ctr = s.ctr := rfl
@[simp] theorem setRegion_cores (key : Nat) (r : Region) (s : State) : (setRegion key r s).cores = s.cores := rfl
@[simp] theorem setRegion_clusters (key : Nat) (r : Region) (s : State) : (setRegion key r s).clusters = s.clusters := rfl
@[simp] theorem setRegion_ctxs (key : Nat) (r : Region) (s : State) : (setRegion key r s).ctxs = s.ctxs := rfl
@[simp] theorem setRegion_images (key : Nat) (r : Region) (s : State) : (setRegion key r s).images = s.images := rfl
@[simp] theorem setRegion_queues (key : Nat) (r : Region) (s : State) : (setRegion key r s).queues = s.queues := rfl
@[simp] theorem setRegion_nodes (key : Nat) (r : Region) (s : State) : (setRegion key r s).nodes = s.nodes := rfl
@[simp] theorem setRegion_groups (key : Nat) (r : Region) (s : State) : (setRegion key r s).groups = s.groups := rfl
@[simp] theorem setRegion_barriers (key : Nat) (r : Region) (s : State) : (setRegion key r s).barriers = s.barriers := rfl
@[simp] theorem setRegion_buses (key : Nat) (r : Region) (s : State) : (setRegion key r s).buses = s.buses := rfl
@[simp] theorem setRegion_dram (key : Nat) (r : Region) (s : State) : (setRegion key r s).dram = s.dram := rfl
@[simp] theorem setRegion_pxi (key : Nat) (r : Region) (s : State) : (setRegion key r s).pxi = s.pxi := rfl
@[simp] theorem setRegion_link (key : Nat) (r : Region) (s : State) : (setRegion key r s).link = s.link := rfl
@[simp] theorem setRegion_dev (key : Nat) (r : Region) (s : State) : (setRegion key r s).dev = s.dev := rfl
@[simp] theorem setRegion_turns (key : Nat) (r : Region) (s : State) : (setRegion key r s).turns = s.turns := rfl
@[simp] theorem setRegion_slices (key : Nat) (r : Region) (s : State) : (setRegion key r s).slices = s.slices := rfl

@[simp] theorem setNode_now (key : Nat) (n : Node) (s : State) : (setNode key n s).now = s.now := rfl
@[simp] theorem setNode_tick (key : Nat) (n : Node) (s : State) : (setNode key n s).tick = s.tick := rfl
@[simp] theorem setNode_cur (key : Nat) (n : Node) (s : State) : (setNode key n s).cur = s.cur := rfl
@[simp] theorem setNode_todo (key : Nat) (n : Node) (s : State) : (setNode key n s).todo = s.todo := rfl
@[simp] theorem setNode_inputs (key : Nat) (n : Node) (s : State) : (setNode key n s).inputs = s.inputs := rfl
@[simp] theorem setNode_ctr (key : Nat) (n : Node) (s : State) : (setNode key n s).ctr = s.ctr := rfl
@[simp] theorem setNode_cores (key : Nat) (n : Node) (s : State) : (setNode key n s).cores = s.cores := rfl
@[simp] theorem setNode_clusters (key : Nat) (n : Node) (s : State) : (setNode key n s).clusters = s.clusters := rfl
@[simp] theorem setNode_ctxs (key : Nat) (n : Node) (s : State) : (setNode key n s).ctxs = s.ctxs := rfl
@[simp] theorem setNode_regions (key : Nat) (n : Node) (s : State) : (setNode key n s).regions = s.regions := rfl
@[simp] theorem setNode_images (key : Nat) (n : Node) (s : State) : (setNode key n s).images = s.images := rfl
@[simp] theorem setNode_queues (key : Nat) (n : Node) (s : State) : (setNode key n s).queues = s.queues := rfl
@[simp] theorem setNode_groups (key : Nat) (n : Node) (s : State) : (setNode key n s).groups = s.groups := rfl
@[simp] theorem setNode_barriers (key : Nat) (n : Node) (s : State) : (setNode key n s).barriers = s.barriers := rfl
@[simp] theorem setNode_buses (key : Nat) (n : Node) (s : State) : (setNode key n s).buses = s.buses := rfl
@[simp] theorem setNode_dram (key : Nat) (n : Node) (s : State) : (setNode key n s).dram = s.dram := rfl
@[simp] theorem setNode_pxi (key : Nat) (n : Node) (s : State) : (setNode key n s).pxi = s.pxi := rfl
@[simp] theorem setNode_link (key : Nat) (n : Node) (s : State) : (setNode key n s).link = s.link := rfl
@[simp] theorem setNode_dev (key : Nat) (n : Node) (s : State) : (setNode key n s).dev = s.dev := rfl
@[simp] theorem setNode_turns (key : Nat) (n : Node) (s : State) : (setNode key n s).turns = s.turns := rfl
@[simp] theorem setNode_slices (key : Nat) (n : Node) (s : State) : (setNode key n s).slices = s.slices := rfl

@[simp] theorem setQueue_now (qid : Nat) (q : MQueue) (s : State) : (setQueue qid q s).now = s.now := rfl
@[simp] theorem setQueue_tick (qid : Nat) (q : MQueue) (s : State) : (setQueue qid q s).tick = s.tick := rfl
@[simp] theorem setQueue_cur (qid : Nat) (q : MQueue) (s : State) : (setQueue qid q s).cur = s.cur := rfl
@[simp] theorem setQueue_todo (qid : Nat) (q : MQueue) (s : State) : (setQueue qid q s).todo = s.todo := rfl
@[simp] theorem setQueue_inputs (qid : Nat) (q : MQueue) (s : State) : (setQueue qid q s).inputs = s.inputs := rfl
@[simp] theorem setQueue_ctr (qid : Nat) (q : MQueue) (s : State) : (setQueue qid q s).ctr = s.ctr := rfl
@[simp] theorem setQueue_cores (qid : Nat) (q : MQueue) (s : State) : (setQueue qid q s).cores = s.cores := rfl
@[simp] theorem setQueue_clusters (qid : Nat) (q : MQueue) (s : State) : (setQueue qid q s).clusters = s.clusters := rfl
@[simp] theorem setQueue_ctxs (qid : Nat) (q : MQueue) (s : State) : (setQueue qid q s).ctxs = s.ctxs := rfl
@[simp] theorem setQueue_regions (qid : Nat) (q : MQueue) (s : State) : (setQueue qid q s).regions = s.regions := rfl
@[simp] theorem setQueue_images (qid : Nat) (q : MQueue) (s : State) : (setQueue qid q s).images = s.images := rfl
@[simp] theorem setQueue_nodes (qid : Nat) (q : MQueue) (s : State) : (setQueue qid q s).nodes = s.nodes := rfl
@[simp] theorem setQueue_groups (qid : Nat) (q : MQueue) (s : State) : (setQueue qid q s).groups = s.groups := rfl
@[simp] theorem setQueue_barriers (qid : Nat) (q : MQueue) (s : State) : (setQueue qid q s).barriers = s.barriers := rfl
@[simp] theorem setQueue_buses (qid : Nat) (q : MQueue) (s : State) : (setQueue qid q s).buses = s.buses := rfl
@[simp] theorem setQueue_dram (qid : Nat) (q : MQueue) (s : State) : (setQueue qid q s).dram = s.dram := rfl
@[simp] theorem setQueue_pxi (qid : Nat) (q : MQueue) (s : State) : (setQueue qid q s).pxi = s.pxi := rfl
@[simp] theorem setQueue_link (qid : Nat) (q : MQueue) (s : State) : (setQueue qid q s).link = s.link := rfl
@[simp] theorem setQueue_dev (qid : Nat) (q : MQueue) (s : State) : (setQueue qid q s).dev = s.dev := rfl
@[simp] theorem setQueue_turns (qid : Nat) (q : MQueue) (s : State) : (setQueue qid q s).turns = s.turns := rfl
@[simp] theorem setQueue_slices (qid : Nat) (q : MQueue) (s : State) : (setQueue qid q s).slices = s.slices := rfl

@[simp] theorem setGroup_now (g : BitVec 16) (x : Group) (s : State) : (setGroup g x s).now = s.now := rfl
@[simp] theorem setGroup_tick (g : BitVec 16) (x : Group) (s : State) : (setGroup g x s).tick = s.tick := rfl
@[simp] theorem setGroup_cur (g : BitVec 16) (x : Group) (s : State) : (setGroup g x s).cur = s.cur := rfl
@[simp] theorem setGroup_todo (g : BitVec 16) (x : Group) (s : State) : (setGroup g x s).todo = s.todo := rfl
@[simp] theorem setGroup_inputs (g : BitVec 16) (x : Group) (s : State) : (setGroup g x s).inputs = s.inputs := rfl
@[simp] theorem setGroup_ctr (g : BitVec 16) (x : Group) (s : State) : (setGroup g x s).ctr = s.ctr := rfl
@[simp] theorem setGroup_cores (g : BitVec 16) (x : Group) (s : State) : (setGroup g x s).cores = s.cores := rfl
@[simp] theorem setGroup_clusters (g : BitVec 16) (x : Group) (s : State) : (setGroup g x s).clusters = s.clusters := rfl
@[simp] theorem setGroup_ctxs (g : BitVec 16) (x : Group) (s : State) : (setGroup g x s).ctxs = s.ctxs := rfl
@[simp] theorem setGroup_regions (g : BitVec 16) (x : Group) (s : State) : (setGroup g x s).regions = s.regions := rfl
@[simp] theorem setGroup_images (g : BitVec 16) (x : Group) (s : State) : (setGroup g x s).images = s.images := rfl
@[simp] theorem setGroup_queues (g : BitVec 16) (x : Group) (s : State) : (setGroup g x s).queues = s.queues := rfl
@[simp] theorem setGroup_nodes (g : BitVec 16) (x : Group) (s : State) : (setGroup g x s).nodes = s.nodes := rfl
@[simp] theorem setGroup_barriers (g : BitVec 16) (x : Group) (s : State) : (setGroup g x s).barriers = s.barriers := rfl
@[simp] theorem setGroup_buses (g : BitVec 16) (x : Group) (s : State) : (setGroup g x s).buses = s.buses := rfl
@[simp] theorem setGroup_dram (g : BitVec 16) (x : Group) (s : State) : (setGroup g x s).dram = s.dram := rfl
@[simp] theorem setGroup_pxi (g : BitVec 16) (x : Group) (s : State) : (setGroup g x s).pxi = s.pxi := rfl
@[simp] theorem setGroup_link (g : BitVec 16) (x : Group) (s : State) : (setGroup g x s).link = s.link := rfl
@[simp] theorem setGroup_dev (g : BitVec 16) (x : Group) (s : State) : (setGroup g x s).dev = s.dev := rfl
@[simp] theorem setGroup_turns (g : BitVec 16) (x : Group) (s : State) : (setGroup g x s).turns = s.turns := rfl
@[simp] theorem setGroup_slices (g : BitVec 16) (x : Group) (s : State) : (setGroup g x s).slices = s.slices := rfl

@[simp] theorem putBarrier_now (x : Barrier) (s : State) : (putBarrier x s).now = s.now := rfl
@[simp] theorem putBarrier_tick (x : Barrier) (s : State) : (putBarrier x s).tick = s.tick := rfl
@[simp] theorem putBarrier_cur (x : Barrier) (s : State) : (putBarrier x s).cur = s.cur := rfl
@[simp] theorem putBarrier_todo (x : Barrier) (s : State) : (putBarrier x s).todo = s.todo := rfl
@[simp] theorem putBarrier_inputs (x : Barrier) (s : State) : (putBarrier x s).inputs = s.inputs := rfl
@[simp] theorem putBarrier_ctr (x : Barrier) (s : State) : (putBarrier x s).ctr = s.ctr := rfl
@[simp] theorem putBarrier_cores (x : Barrier) (s : State) : (putBarrier x s).cores = s.cores := rfl
@[simp] theorem putBarrier_clusters (x : Barrier) (s : State) : (putBarrier x s).clusters = s.clusters := rfl
@[simp] theorem putBarrier_ctxs (x : Barrier) (s : State) : (putBarrier x s).ctxs = s.ctxs := rfl
@[simp] theorem putBarrier_regions (x : Barrier) (s : State) : (putBarrier x s).regions = s.regions := rfl
@[simp] theorem putBarrier_images (x : Barrier) (s : State) : (putBarrier x s).images = s.images := rfl
@[simp] theorem putBarrier_queues (x : Barrier) (s : State) : (putBarrier x s).queues = s.queues := rfl
@[simp] theorem putBarrier_nodes (x : Barrier) (s : State) : (putBarrier x s).nodes = s.nodes := rfl
@[simp] theorem putBarrier_groups (x : Barrier) (s : State) : (putBarrier x s).groups = s.groups := rfl
@[simp] theorem putBarrier_buses (x : Barrier) (s : State) : (putBarrier x s).buses = s.buses := rfl
@[simp] theorem putBarrier_dram (x : Barrier) (s : State) : (putBarrier x s).dram = s.dram := rfl
@[simp] theorem putBarrier_pxi (x : Barrier) (s : State) : (putBarrier x s).pxi = s.pxi := rfl
@[simp] theorem putBarrier_link (x : Barrier) (s : State) : (putBarrier x s).link = s.link := rfl
@[simp] theorem putBarrier_dev (x : Barrier) (s : State) : (putBarrier x s).dev = s.dev := rfl
@[simp] theorem putBarrier_turns (x : Barrier) (s : State) : (putBarrier x s).turns = s.turns := rfl
@[simp] theorem putBarrier_slices (x : Barrier) (s : State) : (putBarrier x s).slices = s.slices := rfl

@[simp] theorem setBusQ_now (k : Nat) (q : List Bcast) (s : State) : (setBusQ k q s).now = s.now := rfl
@[simp] theorem setBusQ_tick (k : Nat) (q : List Bcast) (s : State) : (setBusQ k q s).tick = s.tick := rfl
@[simp] theorem setBusQ_cur (k : Nat) (q : List Bcast) (s : State) : (setBusQ k q s).cur = s.cur := rfl
@[simp] theorem setBusQ_todo (k : Nat) (q : List Bcast) (s : State) : (setBusQ k q s).todo = s.todo := rfl
@[simp] theorem setBusQ_inputs (k : Nat) (q : List Bcast) (s : State) : (setBusQ k q s).inputs = s.inputs := rfl
@[simp] theorem setBusQ_ctr (k : Nat) (q : List Bcast) (s : State) : (setBusQ k q s).ctr = s.ctr := rfl
@[simp] theorem setBusQ_cores (k : Nat) (q : List Bcast) (s : State) : (setBusQ k q s).cores = s.cores := rfl
@[simp] theorem setBusQ_clusters (k : Nat) (q : List Bcast) (s : State) : (setBusQ k q s).clusters = s.clusters := rfl
@[simp] theorem setBusQ_ctxs (k : Nat) (q : List Bcast) (s : State) : (setBusQ k q s).ctxs = s.ctxs := rfl
@[simp] theorem setBusQ_regions (k : Nat) (q : List Bcast) (s : State) : (setBusQ k q s).regions = s.regions := rfl
@[simp] theorem setBusQ_images (k : Nat) (q : List Bcast) (s : State) : (setBusQ k q s).images = s.images := rfl
@[simp] theorem setBusQ_queues (k : Nat) (q : List Bcast) (s : State) : (setBusQ k q s).queues = s.queues := rfl
@[simp] theorem setBusQ_nodes (k : Nat) (q : List Bcast) (s : State) : (setBusQ k q s).nodes = s.nodes := rfl
@[simp] theorem setBusQ_groups (k : Nat) (q : List Bcast) (s : State) : (setBusQ k q s).groups = s.groups := rfl
@[simp] theorem setBusQ_barriers (k : Nat) (q : List Bcast) (s : State) : (setBusQ k q s).barriers = s.barriers := rfl
@[simp] theorem setBusQ_dram (k : Nat) (q : List Bcast) (s : State) : (setBusQ k q s).dram = s.dram := rfl
@[simp] theorem setBusQ_pxi (k : Nat) (q : List Bcast) (s : State) : (setBusQ k q s).pxi = s.pxi := rfl
@[simp] theorem setBusQ_link (k : Nat) (q : List Bcast) (s : State) : (setBusQ k q s).link = s.link := rfl
@[simp] theorem setBusQ_dev (k : Nat) (q : List Bcast) (s : State) : (setBusQ k q s).dev = s.dev := rfl
@[simp] theorem setBusQ_turns (k : Nat) (q : List Bcast) (s : State) : (setBusQ k q s).turns = s.turns := rfl
@[simp] theorem setBusQ_slices (k : Nat) (q : List Bcast) (s : State) : (setBusQ k q s).slices = s.slices := rfl

@[simp] theorem setStack_now (k : Nat) (x : Stack) (s : State) : (setStack k x s).now = s.now := rfl
@[simp] theorem setStack_tick (k : Nat) (x : Stack) (s : State) : (setStack k x s).tick = s.tick := rfl
@[simp] theorem setStack_cur (k : Nat) (x : Stack) (s : State) : (setStack k x s).cur = s.cur := rfl
@[simp] theorem setStack_todo (k : Nat) (x : Stack) (s : State) : (setStack k x s).todo = s.todo := rfl
@[simp] theorem setStack_inputs (k : Nat) (x : Stack) (s : State) : (setStack k x s).inputs = s.inputs := rfl
@[simp] theorem setStack_ctr (k : Nat) (x : Stack) (s : State) : (setStack k x s).ctr = s.ctr := rfl
@[simp] theorem setStack_cores (k : Nat) (x : Stack) (s : State) : (setStack k x s).cores = s.cores := rfl
@[simp] theorem setStack_clusters (k : Nat) (x : Stack) (s : State) : (setStack k x s).clusters = s.clusters := rfl
@[simp] theorem setStack_ctxs (k : Nat) (x : Stack) (s : State) : (setStack k x s).ctxs = s.ctxs := rfl
@[simp] theorem setStack_regions (k : Nat) (x : Stack) (s : State) : (setStack k x s).regions = s.regions := rfl
@[simp] theorem setStack_images (k : Nat) (x : Stack) (s : State) : (setStack k x s).images = s.images := rfl
@[simp] theorem setStack_queues (k : Nat) (x : Stack) (s : State) : (setStack k x s).queues = s.queues := rfl
@[simp] theorem setStack_nodes (k : Nat) (x : Stack) (s : State) : (setStack k x s).nodes = s.nodes := rfl
@[simp] theorem setStack_groups (k : Nat) (x : Stack) (s : State) : (setStack k x s).groups = s.groups := rfl
@[simp] theorem setStack_barriers (k : Nat) (x : Stack) (s : State) : (setStack k x s).barriers = s.barriers := rfl
@[simp] theorem setStack_buses (k : Nat) (x : Stack) (s : State) : (setStack k x s).buses = s.buses := rfl
@[simp] theorem setStack_pxi (k : Nat) (x : Stack) (s : State) : (setStack k x s).pxi = s.pxi := rfl
@[simp] theorem setStack_link (k : Nat) (x : Stack) (s : State) : (setStack k x s).link = s.link := rfl
@[simp] theorem setStack_dev (k : Nat) (x : Stack) (s : State) : (setStack k x s).dev = s.dev := rfl
@[simp] theorem setStack_turns (k : Nat) (x : Stack) (s : State) : (setStack k x s).turns = s.turns := rfl
@[simp] theorem setStack_slices (k : Nat) (x : Stack) (s : State) : (setStack k x s).slices = s.slices := rfl

@[simp] theorem setPeer_now (p : Nat) (x : Peer) (s : State) : (setPeer p x s).now = s.now := rfl
@[simp] theorem setPeer_tick (p : Nat) (x : Peer) (s : State) : (setPeer p x s).tick = s.tick := rfl
@[simp] theorem setPeer_cur (p : Nat) (x : Peer) (s : State) : (setPeer p x s).cur = s.cur := rfl
@[simp] theorem setPeer_todo (p : Nat) (x : Peer) (s : State) : (setPeer p x s).todo = s.todo := rfl
@[simp] theorem setPeer_inputs (p : Nat) (x : Peer) (s : State) : (setPeer p x s).inputs = s.inputs := rfl
@[simp] theorem setPeer_ctr (p : Nat) (x : Peer) (s : State) : (setPeer p x s).ctr = s.ctr := rfl
@[simp] theorem setPeer_cores (p : Nat) (x : Peer) (s : State) : (setPeer p x s).cores = s.cores := rfl
@[simp] theorem setPeer_clusters (p : Nat) (x : Peer) (s : State) : (setPeer p x s).clusters = s.clusters := rfl
@[simp] theorem setPeer_ctxs (p : Nat) (x : Peer) (s : State) : (setPeer p x s).ctxs = s.ctxs := rfl
@[simp] theorem setPeer_regions (p : Nat) (x : Peer) (s : State) : (setPeer p x s).regions = s.regions := rfl
@[simp] theorem setPeer_images (p : Nat) (x : Peer) (s : State) : (setPeer p x s).images = s.images := rfl
@[simp] theorem setPeer_queues (p : Nat) (x : Peer) (s : State) : (setPeer p x s).queues = s.queues := rfl
@[simp] theorem setPeer_nodes (p : Nat) (x : Peer) (s : State) : (setPeer p x s).nodes = s.nodes := rfl
@[simp] theorem setPeer_groups (p : Nat) (x : Peer) (s : State) : (setPeer p x s).groups = s.groups := rfl
@[simp] theorem setPeer_barriers (p : Nat) (x : Peer) (s : State) : (setPeer p x s).barriers = s.barriers := rfl
@[simp] theorem setPeer_buses (p : Nat) (x : Peer) (s : State) : (setPeer p x s).buses = s.buses := rfl
@[simp] theorem setPeer_dram (p : Nat) (x : Peer) (s : State) : (setPeer p x s).dram = s.dram := rfl
@[simp] theorem setPeer_pxi (p : Nat) (x : Peer) (s : State) : (setPeer p x s).pxi = s.pxi := rfl
@[simp] theorem setPeer_dev (p : Nat) (x : Peer) (s : State) : (setPeer p x s).dev = s.dev := rfl
@[simp] theorem setPeer_turns (p : Nat) (x : Peer) (s : State) : (setPeer p x s).turns = s.turns := rfl
@[simp] theorem setPeer_slices (p : Nat) (x : Peer) (s : State) : (setPeer p x s).slices = s.slices := rfl

@[simp] theorem sendHost_now (m : OutMsg) (s : State) : (sendHost m s).now = s.now := rfl
@[simp] theorem sendHost_tick (m : OutMsg) (s : State) : (sendHost m s).tick = s.tick := rfl
@[simp] theorem sendHost_cur (m : OutMsg) (s : State) : (sendHost m s).cur = s.cur := rfl
@[simp] theorem sendHost_todo (m : OutMsg) (s : State) : (sendHost m s).todo = s.todo := rfl
@[simp] theorem sendHost_inputs (m : OutMsg) (s : State) : (sendHost m s).inputs = s.inputs := rfl
@[simp] theorem sendHost_ctr (m : OutMsg) (s : State) : (sendHost m s).ctr = s.ctr := rfl
@[simp] theorem sendHost_cores (m : OutMsg) (s : State) : (sendHost m s).cores = s.cores := rfl
@[simp] theorem sendHost_clusters (m : OutMsg) (s : State) : (sendHost m s).clusters = s.clusters := rfl
@[simp] theorem sendHost_ctxs (m : OutMsg) (s : State) : (sendHost m s).ctxs = s.ctxs := rfl
@[simp] theorem sendHost_regions (m : OutMsg) (s : State) : (sendHost m s).regions = s.regions := rfl
@[simp] theorem sendHost_images (m : OutMsg) (s : State) : (sendHost m s).images = s.images := rfl
@[simp] theorem sendHost_queues (m : OutMsg) (s : State) : (sendHost m s).queues = s.queues := rfl
@[simp] theorem sendHost_nodes (m : OutMsg) (s : State) : (sendHost m s).nodes = s.nodes := rfl
@[simp] theorem sendHost_groups (m : OutMsg) (s : State) : (sendHost m s).groups = s.groups := rfl
@[simp] theorem sendHost_barriers (m : OutMsg) (s : State) : (sendHost m s).barriers = s.barriers := rfl
@[simp] theorem sendHost_buses (m : OutMsg) (s : State) : (sendHost m s).buses = s.buses := rfl
@[simp] theorem sendHost_dram (m : OutMsg) (s : State) : (sendHost m s).dram = s.dram := rfl
@[simp] theorem sendHost_pxi (m : OutMsg) (s : State) : (sendHost m s).pxi = s.pxi := rfl
@[simp] theorem sendHost_dev (m : OutMsg) (s : State) : (sendHost m s).dev = s.dev := rfl
@[simp] theorem sendHost_turns (m : OutMsg) (s : State) : (sendHost m s).turns = s.turns := rfl
@[simp] theorem sendHost_slices (m : OutMsg) (s : State) : (sendHost m s).slices = s.slices := rfl

/-! ### What an update of a core leaves to be read -/

@[simp] theorem coreAt_setCoreAt (s : State) (g : Nat) (c : Core) : coreAt (setCoreAt s g c) g = c := by
  simp [coreAt, setCoreAt]

theorem coreAt_setCoreAt_ne (s : State) {g h : Nat} (c : Core) (hn : h ≠ g) : coreAt (setCoreAt s g c) h = coreAt s h := by
  simp [coreAt, setCoreAt, Map.get_put_ne _ _ _ hn]

@[simp] theorem core_setCore (s : State) (c : Core) : core (setCore s c) = c := by
  simp [core, setCore]

@[simp] theorem core_updCore (f : Core → Core) (s : State) : core (updCore f s) = f (core s) := by
  simp [updCore]

theorem coreAt_updCore_ne (f : Core → Core) (s : State) {h : Nat} (hn : h ≠ s.cur) :
    coreAt (updCore f s) h = coreAt s h := by
  simp only [updCore, setCore]
  exact coreAt_setCoreAt_ne _ _ hn

@[simp] theorem coreAt_updCoreAt (g : Nat) (f : Core → Core) (s : State) : coreAt (updCoreAt g f s) g = f (coreAt s g) := by
  simp [updCoreAt]

theorem coreAt_updCoreAt_ne (f : Core → Core) (s : State) {g h : Nat} (hn : h ≠ g) :
    coreAt (updCoreAt g f s) h = coreAt s h := coreAt_setCoreAt_ne _ _ hn

@[simp] theorem setCoreAt_setCoreAt (s : State) (g : Nat) (c d : Core) : setCoreAt (setCoreAt s g c) g d = setCoreAt s g d := by
  simp [setCoreAt]

@[simp] theorem setCore_setCore (s : State) (c d : Core) : setCore (setCore s c) d = setCore s d := by
  simp [setCore]

@[simp] theorem updCore_setCore (f : Core → Core) (s : State) (c : Core) : updCore f (setCore s c) = setCore s (f c) := by
  simp [updCore]

/-- Two updates of the acting core are one. -/
theorem updCore_updCore (f g : Core → Core) (s : State) : updCore f (updCore g s) = updCore (fun c => f (g c)) s := by
  simp [updCore]

/-! ### What other updates leave to be read -/

@[simp] theorem clusterAt_setCluster (s : State) (k : Nat) (c : Cluster) : clusterAt (setCluster s k c) k = c := by
  simp [clusterAt, setCluster]

@[simp] theorem ctxAt_setCtx (s : State) (id : BitVec 12) (x : Ctx) : ctxAt (setCtx s id x) id = x := by
  simp [ctxAt, setCtx]

@[simp] theorem coreAt_setCluster (s : State) (k : Nat) (c : Cluster) (g : Nat) : coreAt (setCluster s k c) g = coreAt s g := rfl

@[simp] theorem core_setCluster (s : State) (k : Nat) (c : Cluster) : core (setCluster s k c) = core s := rfl

@[simp] theorem clusterAt_setCoreAt (s : State) (g : Nat) (c : Core) (k : Nat) : clusterAt (setCoreAt s g c) k = clusterAt s k := rfl

@[simp] theorem clusterAt_updCore (f : Core → Core) (s : State) (k : Nat) : clusterAt (updCore f s) k = clusterAt s k := rfl

@[simp] theorem ctxAt_setCoreAt (s : State) (g : Nat) (c : Core) (id : BitVec 12) : ctxAt (setCoreAt s g c) id = ctxAt s id := rfl

@[simp] theorem ctxAt_updCore (f : Core → Core) (s : State) (id : BitVec 12) : ctxAt (updCore f s) id = ctxAt s id := rfl

@[simp] theorem coreAt_setRegion (key : Nat) (r : Region) (s : State) (g : Nat) : coreAt (setRegion key r s) g = coreAt s g := rfl

@[simp] theorem core_setRegion (key : Nat) (r : Region) (s : State) : core (setRegion key r s) = core s := rfl

@[simp] theorem core_setCtx (s : State) (id : BitVec 12) (x : Ctx) : core (setCtx s id x) = core s := rfl

end Sys2Proof.Machine
end

