-- ==== Sys2Proof/Laws/Issue.lean ====
section
/-! SUPPORT. What the shared operations of issue can do: reads of registers, results in flight, last-use marks, the issue of a
slot, the checks of a local access, faults, and the end of a bundle. -/

namespace Sys2Proof.Machine

open Sys2Proof

/-! ### Register reads (R68) -/

/-- A register passes its checks exactly when it is live and not poisoned. -/
theorem regCheck_ok {c : Core} {sl : Slot} {r : Reg} :
    regCheck c sl r = .ok () ↔ isLive c sl r = true ∧ isPoison c sl r = false := by
  unfold regCheck
  cases isLive c sl r <;> cases isPoison c sl r <;> simp

/-- What a read of a scalar register gives: 0 for s0, else the register where its checks pass. -/
theorem rdX_ok {c : Core} {sl : Slot} {r : Reg} {v : Word} :
    rdX c sl r = .ok v ↔ (sl = .s ∧ r = 0 ∧ v = 0)
      ∨ (¬(sl = .s ∧ r = 0) ∧ isLive c sl r = true ∧ isPoison c sl r = false ∧ getX c sl r = v) := by
  unfold rdX
  split
  · rename_i h
    simp only [h, Except.ok.injEq, and_self, true_and, not_true, false_and, or_false]
    exact eq_comm
  · rename_i h
    have h' : ¬(sl = .s ∧ r = 0 ∧ v = 0) := fun x => h ⟨x.1, x.2.1⟩
    unfold regCheck
    rw [or_iff_right h', and_iff_right h]
    cases isLive c sl r <;> cases isPoison c sl r <;> simp [bind, Except.bind]

/-- What a read of a vector register gives. -/
theorem rdV_ok {c : Core} {sl : Slot} {r : Reg} {v : VReg} :
    rdV c sl r = .ok v ↔ isLive c sl r = true ∧ isPoison c sl r = false ∧ getV c sl r = v := by
  unfold rdV regCheck
  cases isLive c sl r <;> cases isPoison c sl r <;> simp [bind, Except.bind]

@[simp] theorem rdX_zero (c : Core) : rdX c .s 0 = .ok 0 := rfl
@[simp] theorem rdO_lit (c : Core) (sl : Slot) (v : Word) : rdO c sl (.lit v) = .ok v := rfl
@[simp] theorem rdO_reg (c : Core) (sl : Slot) (b : Reg) (l : Bool) : rdO c sl (.reg b l) = rdX c sl b := rfl

/-! ### Results in flight (R25, R50, R55) -/

/-- A scalar result only joins the results in flight; s0 takes none. -/
theorem resX_eq (sl : Slot) (d : Reg) (v : Word) (lat : Nat) (c : Core) :
    resX sl d v lat c = { c with pend := c.pend ++ (if sl = .s ∧ d = 0 then [] else
      [{ due := c.csr.cyc + lat * divisor c sl, born := c.csr.cyc, src := sl, file := sl, isPred := false, reg := d.toNat
         bits := v.setWidth 2048, mask := mask64, tag := 0, dw := 0, arrival := false }]) } := by
  unfold resX
  split
  · simp
  · rfl

/-- A predicate result only joins the results in flight; index 0 takes none. -/
theorem resP_eq (sl : Slot) (i : Nat) (v m : Word) (lat : Nat) (c : Core) :
    resP sl i v m lat c = { c with pend := c.pend ++ (if i = 0 then [] else
      [{ due := c.csr.cyc + lat * divisor c sl, born := c.csr.cyc, src := sl, file := sl, isPred := true, reg := i
         bits := v.setWidth 2048, mask := m.setWidth 2048, tag := 0, dw := 0, arrival := false }]) } := by
  unfold resP
  split
  · simp
  · rfl

/-- A vector result only joins the results in flight. -/
theorem resV_eq (sl : Slot) (d : Reg) (b m : VWord) (t : BitVec 6) (dw : BitVec 2) (lat : Nat) (c : Core) :
    resV sl d b m t dw lat c = { c with pend := c.pend ++
      [{ due := c.csr.cyc + lat * divisor c sl, born := c.csr.cyc, src := sl, file := sl, isPred := false, reg := d.toNat
         bits := b, mask := m, tag := t, dw := dw, arrival := false }] } := rfl

/-! ### Last-use marks (R24) -/

/-- The core with its live bits and bank states taken from another. -/
def withLiveness (c d : Core) : Core := { c with files := { c.files with live := d.files.live, banks := d.files.banks } }

/-- A register that goes dead changes nothing but live bits and bank states. -/
theorem killReg_only (sl : Slot) (c : Core) (r : Reg) : killReg sl c r = withLiveness c (killReg sl c r) := by
  unfold killReg
  dsimp only
  split
  · unfold bankIfDead
    split <;> rfl
  · rfl

/-- Last-use marks change nothing but live bits and bank states. -/
theorem killMarks_only (sl : Slot) (rs : List Reg) (c : Core) : killMarks sl rs c = withLiveness c (killMarks sl rs c) := by
  unfold killMarks
  induction rs generalizing c with
  | nil => rfl
  | cons r rs ih =>
    rw [List.foldl_cons, ih, killReg_only]
    rfl

@[simp] theorem killMarks_nil (sl : Slot) (c : Core) : killMarks sl [] c = c := rfl
@[simp] theorem killMarks_pend (sl : Slot) (rs : List Reg) (c : Core) : (killMarks sl rs c).pend = c.pend := by
  rw [killMarks_only]; rfl
@[simp] theorem killMarks_sp (sl : Slot) (rs : List Reg) (c : Core) : (killMarks sl rs c).sp = c.sp := by
  rw [killMarks_only]; rfl
@[simp] theorem killMarks_csr (sl : Slot) (rs : List Reg) (c : Core) : (killMarks sl rs c).csr = c.csr := by
  rw [killMarks_only]; rfl
@[simp] theorem killMarks_pc (sl : Slot) (rs : List Reg) (c : Core) : (killMarks sl rs c).pc = c.pc := by
  rw [killMarks_only]; rfl
@[simp] theorem killMarks_st (sl : Slot) (rs : List Reg) (c : Core) : (killMarks sl rs c).st = c.st := by
  rw [killMarks_only]; rfl
@[simp] theorem killMarks_br (sl : Slot) (rs : List Reg) (c : Core) : (killMarks sl rs c).br = c.br := by
  rw [killMarks_only]; rfl
@[simp] theorem killMarks_loops (sl : Slot) (rs : List Reg) (c : Core) : (killMarks sl rs c).loops = c.loops := by
  rw [killMarks_only]; rfl
@[simp] theorem killMarks_bun (sl : Slot) (rs : List Reg) (c : Core) : (killMarks sl rs c).bun = c.bun := by
  rw [killMarks_only]; rfl
@[simp] theorem killMarks_pme (sl : Slot) (rs : List Reg) (c : Core) : (killMarks sl rs c).pme = c.pme := by
  rw [killMarks_only]; rfl
@[simp] theorem killMarks_chans (sl : Slot) (rs : List Reg) (c : Core) : (killMarks sl rs c).chans = c.chans := by
  rw [killMarks_only]; rfl
@[simp] theorem killMarks_istore (sl : Slot) (rs : List Reg) (c : Core) : (killMarks sl rs c).istore = c.istore := by
  rw [killMarks_only]; rfl
@[simp] theorem killMarks_x (sl : Slot) (rs : List Reg) (c : Core) : (killMarks sl rs c).files.x = c.files.x := by
  rw [killMarks_only]; rfl
@[simp] theorem killMarks_v (sl : Slot) (rs : List Reg) (c : Core) : (killMarks sl rs c).files.v = c.files.v := by
  rw [killMarks_only]; rfl
@[simp] theorem killMarks_p (sl : Slot) (rs : List Reg) (c : Core) : (killMarks sl rs c).files.p = c.files.p := by
  rw [killMarks_only]; rfl
@[simp] theorem killMarks_poison (sl : Slot) (rs : List Reg) (c : Core) :
    (killMarks sl rs c).files.poison = c.files.poison := by
  rw [killMarks_only]; rfl

/-! ### The issue of a slot (R46, R186) -/

/-- With a true predicate and a body that passes, the body's effect and then the last-use marks stand. -/
theorem issue_ok {sl : Slot} {p : Pred} {ms : List Reg} {body : State → Except Exc State} {s t : State}
    (hp : predOn (core s) sl p = true) (hb : body s = .ok t) :
    issue sl p ms body s = updCore (killMarks sl ms) t := by
  simp [issue, hp, hb]

/-- With a true predicate and a body that faults, the slot's fault is all that happens. -/
theorem issue_error {sl : Slot} {p : Pred} {ms : List Reg} {body : State → Except Exc State} {s : State} {e : Exc}
    (hp : predOn (core s) sl p = true) (hb : body s = .error e) : issue sl p ms body s = slotFault sl e s := by
  simp [issue, hp, hb]

/-- With a false predicate only the last-use marks take effect. -/
theorem issue_off {sl : Slot} {p : Pred} {ms : List Reg} {body : State → Except Exc State} {s : State}
    (hp : predOn (core s) sl p = false) : issue sl p ms body s = updCore (killMarks sl ms) s := by
  simp [issue, hp]

/-- All that the issue of a scalar slot can do. -/
theorem issue_cases (sl : Slot) (p : Pred) (ms : List Reg) (body : State → Except Exc State) (s : State) :
    (predOn (core s) sl p = false ∧ issue sl p ms body s = updCore (killMarks sl ms) s)
      ∨ (predOn (core s) sl p = true ∧ ∃ t, body s = .ok t ∧ issue sl p ms body s = updCore (killMarks sl ms) t)
      ∨ (predOn (core s) sl p = true ∧ ∃ e, body s = .error e ∧ issue sl p ms body s = slotFault sl e s) := by
  cases hp : predOn (core s) sl p with
  | false => exact .inl ⟨rfl, issue_off hp⟩
  | true =>
    cases hb : body s with
    | ok t => exact .inr (.inl ⟨rfl, t, rfl, issue_ok hp hb⟩)
    | error e => exact .inr (.inr ⟨rfl, e, rfl, issue_error hp hb⟩)

/-- A vector instruction whose body passes. -/
theorem issueV_ok {u : VU} {ms : List Reg} {body : State → Except Exc State} {s t : State} (hb : body s = .ok t) :
    issueV u ms body s = updCore (killMarks u.slot ms) t := by
  simp [issueV, hb]

/-- A vector instruction whose body faults. -/
theorem issueV_error {u : VU} {ms : List Reg} {body : State → Except Exc State} {s : State} {e : Exc}
    (hb : body s = .error e) : issueV u ms body s = slotFault u.slot e s := by
  simp [issueV, hb]

/-- An instruction of the matrix slot that waits for nothing issues. -/
theorem issueM_none (p : Pred) (body : State → Except Exc State) (s : State) :
    issueM none p body s = issue .m p [] body s := rfl

/-- An instruction of a copy slot that waits for nothing issues. -/
theorem issueC_none (u : CU) (p : Pred) (body : State → Except Exc State) (s : State) :
    issueC none u p body s = issue u.slot p [] body s := rfl

/-- The marks and a scalar result together, as one update of the acting core. -/
theorem marks_after_resX (sl : Slot) (ms : List Reg) (d : Reg) (v : Word) (lat : Nat) (s : State) :
    updCore (killMarks sl ms) (updCore (resX sl d v lat) s) = updCore (fun c => killMarks sl ms (resX sl d v lat c)) s :=
  updCore_updCore _ _ _

/-! ### The checks of a local access (R75, R240, R250) -/

/-- check_race passes exactly when no granule races; then granule tags change, and the access is noted against a routine. -/
theorem checkRace_ok {rs : Map Region} {sp : Space} {k : Acc} {p : Path} {u a n : Nat} {s t : State} :
    checkRace rs sp k p u a n s = .ok t ↔ raceAt false rs sp k p u a n s = none
      ∧ t = noteRoutine rs sp k p u a n (recordTags s rs sp k u a n) := by
  unfold checkRace
  split
  · simp [*]
  · simp [*, eq_comm]

/-- The granule tags are all that their recording changes. -/
theorem recordTags_only (s : State) (rs : Map Region) (sp : Space) (k : Acc) (u a n : Nat) :
    recordTags s rs sp k u a n = { s with regions := (recordTags s rs sp k u a n).regions } := by
  unfold recordTags
  generalize granulesOf a n = l
  induction l generalizing s with
  | nil => rfl
  | cons x l ih =>
    rw [List.foldl_cons, ih]
    repeat' split
    all_goals rfl

@[simp] theorem recordTags_core (s : State) (rs : Map Region) (sp : Space) (k : Acc) (u a n : Nat) :
    core (recordTags s rs sp k u a n) = core s := by
  rw [recordTags_only]; rfl

@[simp] theorem recordTags_coreAt (s : State) (rs : Map Region) (sp : Space) (k : Acc) (u a n g : Nat) :
    coreAt (recordTags s rs sp k u a n) g = coreAt s g := by
  rw [recordTags_only]; rfl

/-- Noting an access against a routine changes nothing but the list of such accesses of its core. -/
theorem noteRoutine_only (rs : Map Region) (sp : Space) (k : Acc) (p : Path) (u a n : Nat) (s : State) :
    noteRoutine rs sp k p u a n s = s ∨ ∃ ts, noteRoutine rs sp k p u a n s = updCoreAt u (fun c => { c with rtakes := ts }) s := by
  unfold noteRoutine
  split
  · exact .inl rfl
  · split
    · exact .inr ⟨_, rfl⟩
    · exact .inl rfl

/-- With no routine at hand nothing is noted. -/
theorem noteRoutine_none {rs : Map Region} {sp : Space} {k : Acc} {p : Path} {u a n : Nat} {s : State}
    (h : routineMark (coreAt s u) p = none) : noteRoutine rs sp k p u a n s = s := by
  simp [noteRoutine, h]

/-- What the checks of a local access ask, and what changes where they pass; a control core's bytes have no region. -/
theorem checkLocal_ok {p : Path} {k : Acc} {a n al : Nat} {s t : State} :
    checkLocal p k a n al s = .ok t ↔ a + n ≤ spSize ∧ a % al = 0
      ∧ (if isCtrl s.cur then t = s
        else checkRegion (viewRegions s) (core s).ctx (.sp s.cur) k a n = .ok ()
          ∧ raceAt false (viewRegions s) (.sp s.cur) k p s.cur a n s = none
          ∧ t = noteRoutine (viewRegions s) (.sp s.cur) k p s.cur a n (recordTags s (viewRegions s) (.sp s.cur) k s.cur a n)) := by
  unfold checkLocal
  by_cases h1 : a + n > spSize
  · rw [if_pos h1]
    constructor
    · intro h; cases h
    · intro h; exact absurd h.1 (by omega)
  · rw [if_neg h1]
    by_cases h2 : a % al ≠ 0
    · rw [if_pos h2]
      constructor
      · intro h; cases h
      · intro h; exact absurd h.2.1 h2
    · rw [if_neg h2]
      have h1' : a + n ≤ spSize := by omega
      have h2' : a % al = 0 := by omega
      cases hc : isCtrl s.cur with
      | true => simp [h1', h2', eq_comm]
      | false =>
        cases hr : checkRegion (viewRegions s) (core s).ctx (.sp s.cur) k a n with
        | error e => simp [bind, Except.bind]
        | ok x => simp [bind, Except.bind, checkRace_ok, h1', h2']

/-! ### Taking a fault (R186 to R194) -/

/-- A fault of class 0 or 1 of a compute core whose cluster's queue has room: the core is TRAPPED where it stands and its
record is in the queue. -/
theorem takeTrap_compute {e : Exc} {sres : Nat} {async atDecode : Bool} {s : State} (hg : s.cur < 256)
    (hc : excClass e.code ≠ 2) (hq : (clusterAt s (clusterNo s.cur)).q.length + 5 ≤ 64) :
    ∃ tr, takeTrap e sres async atDecode s
        = setCluster (setCore s { core s with
              st := .trapped, trap := some tr, resume := none, bun := splitView s.regions (core s).bun
              csr := { (core s).csr with sres := BitVec.ofNat 3 sres } })
            (clusterNo s.cur)
            (enqueueRec s.now (recordOf s.cur (core s) e sres async) (clusterAt s (clusterNo s.cur)))
      ∧ tr.exc = e ∧ tr.cls = excClass e.code ∧ tr.sres = sres ∧ tr.async = async ∧ tr.atDecode = atDecode
      ∧ tr.pc = (core s).pc := by
  have hn : isCtrl s.cur = false := by simp [isCtrl]; omega
  simp only [takeTrap, hn, if_neg hc, Bool.false_eq_true, if_false]
  refine ⟨{ exc := e, cls := excClass e.code, sres := sres, async := async, atDecode := atDecode, pc := (core s).pc
            dpos := match (core s).br with | some b => b.dpos | none => 0
            btgt := match (core s).br with | some b => b.tgt | none => 0
            inEnd := (core s).inEnd && (core s).bun.slots.isEmpty }, ?_, rfl, rfl, rfl, rfl, rfl, rfl⟩
  unfold postFault
  rw [if_pos (by simpa [setCore] using hq)]
  rfl

/-! ### The end of a bundle (R22, R49, R82, R84) -/

/-- The sequencer at the end of a bundle: one issue cycle counts, and the CSRs written in the bundle take their values after the
bundle's own tests. -/
def endSeq (now : Nat) (c : Core) : Core :=
  let c1 := { c with csr := { c.csr with cyc := c.csr.cyc + 1 }, issues := (now :: c.issues).take 5 }
  lateCsr c.loops.length c.bun.late (if c.inEnd then c1 else advance c1)

/-- The end of a bundle moves the sequencer, empties the bundle, and begins the save that a CTXSW asks for. -/
theorem endBundle_core (s : State) : core (endBundle s) =
    { endSeq s.now (core s) with
      bun := {}, resume := none
      save := if (core s).bun.yields then some .yield else (endSeq s.now (core s)).save } := by
  simp [endBundle, endSeq]

/-- No other core changes as a bundle ends. -/
theorem endBundle_others (s : State) {g : Nat} (h : g ≠ s.cur) : coreAt (endBundle s) g = coreAt s g := by
  unfold endBundle setCore
  exact coreAt_setCoreAt_ne _ _ h

end Sys2Proof.Machine
end

