-- ==== Sys2Proof/Laws/Pages.lean ====
section
/-! SUPPORT. What accesses in the mode of a page find and leave in device memory (R309). -/

namespace Sys2Proof.Machine

open Sys2Proof

/-- An access of no mode finds the plain bytes. -/
@[simp] theorem viewRead_none (s : State) (sp : Space) (a n : Nat) : viewRead s none sp a n = spaceRead s sp a n := by
  have h : (granulesOf a n).all (lineAgrees s none sp) = true := List.all_eq_true.2 (fun _ _ => rfl)
  unfold viewRead
  rw [if_pos h]

/-- An access finds the plain bytes of lines that are stored as it takes them. -/
theorem viewRead_agrees {s : State} {m : Option LineKey} {sp : Space} {a n : Nat}
    (h : ∀ g ∈ granulesOf a n, lineAgrees s m sp g = true) : viewRead s m sp a n = spaceRead s sp a n :=
  if_pos (List.all_eq_true.2 h)

/-- A line that no page governs is stored as every access takes it. -/
theorem lineAgrees_of_none {s : State} {sp : Space} {g : Nat} (m : Option LineKey) (h : lineKey s sp g = none) :
    lineAgrees s m sp g = true := by
  unfold lineAgrees
  rw [h]
  split <;> simp_all

/-- No line changes for an access of no mode. -/
@[simp] theorem stampLines_none (sp : Space) (a n : Nat) (s : State) : stampLines none sp a n s = s := rfl

/-- A line stored in another mode changes device memory alone. -/
theorem stampLine_only (m : LineKey) (sp : Space) (s : State) (g : Nat) :
    stampLine m sp s g = { s with dram := (stampLine m sp s g).dram } := by
  cases sp <;> rfl

/-- So do the lines of a range. -/
theorem stampLines_only (mode : Option LineKey) (sp : Space) (a n : Nat) (s : State) :
    stampLines mode sp a n s = { s with dram := (stampLines mode sp a n s).dram } := by
  cases mode with
  | none => rfl
  | some m =>
    simp only [stampLines]
    generalize granulesOf a n = gs
    induction gs generalizing s with
    | nil => rfl
    | cons g gs ih => rw [List.foldl_cons, ih, stampLine_only]

/-- A line that is stored as the access takes it keeps its bytes. -/
theorem stampLine_hbm_of_agrees {m : LineKey} {s : State} {sp : Space} {g : Nat} (h : lineAgrees s (some m) sp g = true) :
    (stampLine m sp s g).dram.hbm = s.dram.hbm := by
  cases sp <;> simp [stampLine, h]

/-- Both memories keep their canonical form. -/
theorem stampLine_wf {s : State} (m : LineKey) (sp : Space) (g : Nat) (h : Memory.wf s.dram.hbm = true)
    (hc : Memory.wf s.dram.cap = true) :
    Memory.wf (stampLine m sp s g).dram.hbm = true ∧ Memory.wf (stampLine m sp s g).dram.cap = true := by
  cases sp <;> simp only [stampLine] <;> (try split) <;> simp_all [Memory.wf_writeBytes]

/-- So they do for a range. -/
theorem stampLines_wf {s : State} (mode : Option LineKey) (sp : Space) (a n : Nat) (h : Memory.wf s.dram.hbm = true)
    (hc : Memory.wf s.dram.cap = true) :
    Memory.wf (stampLines mode sp a n s).dram.hbm = true ∧ Memory.wf (stampLines mode sp a n s).dram.cap = true := by
  cases mode with
  | none => exact ⟨h, hc⟩
  | some m =>
    simp only [stampLines]
    generalize granulesOf a n = gs
    induction gs generalizing s with
    | nil => exact ⟨h, hc⟩
    | cons g gs ih =>
      have := stampLine_wf m sp g h hc
      exact ih this.1 this.2

end Sys2Proof.Machine
end

