-- ==== Sys2Proof/Laws/Regions.lean ====
section
/-! SUPPORT. What the choice of a free table entry can give (R229, log 15). -/

namespace Sys2Proof.Machine

open Sys2Proof

/-- The first free key is free and lies in the range that was searched. -/
theorem firstFree_some {free : Nat → Bool} {n b k : Nat} (h : firstFree free n b = some k) :
    free k = true ∧ b ≤ k ∧ k < b + n := by
  induction n generalizing b with
  | zero => cases h
  | succ n ih =>
    unfold firstFree at h
    split at h
    · cases h; exact ⟨‹_›, by omega, by omega⟩
    · have := ih h; exact ⟨this.1, by omega, by omega⟩

/-- An entry is found where some entry is free. -/
theorem pickFree_isSome {s : State} {free : Nat → Bool} {base n : Nat} (h : (firstFree free n base).isSome = true) :
    (pickFree s free base n).isSome = true := by
  unfold pickFree
  cases hk : firstFree free n base with
  | none => rw [hk] at h; cases h
  | some k => simp only; split <;> rfl

/-- The entry that is found is free and in the table, whichever the device takes. -/
theorem pickFree_some {s : State} {free : Nat → Bool} {base n w : Nat} (h : pickFree s free base n = some w) :
    free w = true ∧ base ≤ w ∧ w < base + n := by
  unfold pickFree at h
  cases hk : firstFree free n base with
  | none => rw [hk] at h; cases h
  | some k =>
    rw [hk] at h
    have hf := firstFree_some hk
    simp only at h
    split at h
    · cases h; exact ⟨‹_›, by omega, by have := Nat.mod_lt (draw s).1.toNat (show 0 < n by omega); omega⟩
    · cases h; exact hf

end Sys2Proof.Machine
end

