-- ==== Sys2Proof/Laws/Store.lean ====
section
/-! SUPPORT. What a store of a slot leaves in scratchpad (R51, R63, R77). -/

namespace Sys2Proof.Machine

open Sys2Proof

/-- A byte that no pair names is as before. -/
theorem Memory.read_foldl_write_out (m : Memory) (bs : List (Nat × Byte)) {a : Nat} (h : ∀ b ∈ bs, b.1 ≠ a) :
    Memory.read (bs.foldl (fun m b => Memory.write m b.1 b.2) m) a = Memory.read m a := by
  induction bs generalizing m with
  | nil => rfl
  | cons b bs ih =>
    rw [List.foldl_cons, ih _ (fun x hx => h x (List.mem_cons_of_mem _ hx))]
    exact Memory.read_write_ne _ _ (Ne.symm (h b (List.mem_cons_self ..)))

/-- A byte outside a range that is set to zero is as before. -/
theorem Memory.read_zero_out (m : Memory) {a n b : Nat} (h : b < a ∨ a + n ≤ b) :
    Memory.read (Memory.zero m a n) b = Memory.read m b := by
  unfold Memory.read Map.get Memory.zero
  congr 1
  induction m with
  | nil => rfl
  | cons x m ih =>
    rw [List.filter_cons]
    by_cases hx : x.1 = b
    · have : (decide (x.1 < a) || decide (a + n ≤ x.1)) = true := by simp; omega
      rw [this]
      obtain ⟨y, z⟩ := x
      simp only [Map.find?, if_true]
      simp only at hx
      rw [if_pos hx, if_pos hx]
    · obtain ⟨y, z⟩ := x
      split
      · simp only [Map.find?]
        simp only at hx
        rw [if_neg hx, if_neg hx, ih]
      · simp only [Map.find?]
        simp only at hx
        rw [if_neg hx, ih]

/-- A byte of a granule that was not poisoned, and that no stored pair names, is as before. -/
theorem spWrite_read_out (sp : Scratch) (bs : List (Nat × Byte)) {a : Nat} (h : ∀ b ∈ bs, b.1 ≠ a)
    (hp : Map.find? sp.poison (a / 64) = none) :
    Memory.read (spWrite sp bs).mem a = Memory.read sp.mem a := by
  unfold spWrite
  simp only
  rw [Memory.read_foldl_write_out _ _ h]
  generalize hl : (List.map (fun x : Nat × Byte => x.1 / 64) bs).eraseDups.filter (fun g => (Map.find? sp.poison g).isSome) = gs
  have hg : ∀ g ∈ gs, g ≠ a / 64 := by
    intro g hg e
    rw [← hl, List.mem_filter] at hg
    rw [e, hp] at hg
    exact absurd hg.2 (by simp)
  clear hl
  generalize sp.mem = m
  induction gs generalizing m with
  | nil => rfl
  | cons g gs ih =>
    rw [List.foldl_cons, ih (fun x hx => hg x (List.mem_cons_of_mem _ hx))]
    have := hg g (List.mem_cons_self ..)
    exact Memory.read_zero_out _ (by omega)

/-- A store into scratchpad keeps the canonical form. -/
theorem spWrite_wf {sp : Scratch} (bs : List (Nat × Byte)) (h : Memory.wf sp.mem = true) :
    Memory.wf (spWrite sp bs).mem = true := by
  unfold spWrite
  simp only
  apply Memory.wf_foldl_write
  generalize (List.map (fun x : Nat × Byte => x.1 / 64) bs).eraseDups.filter (fun g => (Map.find? sp.poison g).isSome) = gs
  revert h
  generalize sp.mem = m
  intro h
  induction gs generalizing m with
  | nil => exact h
  | cons g gs ih => exact ih _ (Memory.wf_zero _ _ h)

/-- Writing bytes with their addresses from an address upward is writing them from that address. -/
theorem Memory.foldl_write_range' (m : Memory) (a k : Nat) (bs : List Byte) :
    ((List.range' k bs.length).zipWith (fun i b => (a + i, b)) bs).foldl (fun m b => Memory.write m b.1 b.2) m
      = Memory.writeBytes m (a + k) bs := by
  induction bs generalizing m k with
  | nil => rfl
  | cons b bs ih =>
    rw [List.length_cons, List.range'_succ, List.zipWith_cons_cons, List.foldl_cons, ih]
    rfl

/-- The bytes of a slot's store are written from its address upward. -/
theorem Memory.foldl_write_placeBytes (m : Memory) (a : Nat) (bs : List Byte) :
    (placeBytes a bs).foldl (fun m b => Memory.write m b.1 b.2) m = Memory.writeBytes m a bs := by
  unfold placeBytes
  rw [List.range_eq_range']
  exact Memory.foldl_write_range' m a 0 bs

/-- So are the little-endian bytes of a value. -/
theorem Memory.foldl_write_bytesAt (m : Memory) (a n v : Nat) :
    (bytesAt a n v).foldl (fun m b => Memory.write m b.1 b.2) m = Memory.writeLE m a n v := by
  unfold bytesAt Memory.writeLE
  rw [← Memory.foldl_write_placeBytes, placeBytes, leBytes_length]

/-- A store changes, of the acting core, its scratchpad, its bundle and STAT.WCOL; of the machine, nothing else. -/
theorem slotStore_core (sl : Slot) (bs : List (Nat × Byte)) (s : State) :
    core (slotStore sl bs s) = { core s with
      sp := spWrite (core s).sp bs, bun := (core (slotStore sl bs s)).bun
      csr := { (core s).csr with wcol := (core (slotStore sl bs s)).csr.wcol } } := by
  unfold slotStore keepOld
  simp only
  split <;> simp

/-- No other core changes by a store. -/
theorem slotStore_others (sl : Slot) (bs : List (Nat × Byte)) (s : State) {g : Nat} (h : g ≠ s.cur) :
    coreAt (slotStore sl bs s) g = coreAt s g := by
  unfold slotStore keepOld
  simp only
  split
  · exact coreAt_setCoreAt_ne _ _ h
  · rw [setCore]
    rw [coreAt_setCoreAt_ne _ _ (by simpa [setCore] using h), setCore, coreAt_setCoreAt_ne _ _ h]

end Sys2Proof.Machine
end

