-- ==== Sys2Proof/Tests/Slice0.lean ====
section
/-! SUPPORT. Tests. Words of spec/ and their instructions; ill-formed terms that WellFormed refuses; for every statement a state
and operands that meet the hypotheses of its clauses, at the ends of their ranges where a clause has a range; and single steps
with results worked out by hand from the rules named. -/

namespace Sys2Proof.Machine.Tests

open Sys2Proof Sys2Proof.Machine Sys2Proof.Machine.Claims

set_option Elab.async false

/-! ### States -/

/-- A running core with every register live, every bank FULL and the scalar registers `xs`, keyed 32·file + number. -/
def aCore (xs : Map Word) : Core := let c := placedCore [] {}; { c with files := { c.files with x := xs } }

/-- A state with core `g` as given, acting, and context 0 ACTIVE. -/
def at_ (g : Nat) (c : Core) : State :=
  { State.reset with cur := g, cores := [(g, c)], ctxs := [(0, { st := .active, alw := 1000000, htlen := 8 })] }

/-- Core 0 with scalar registers. -/
def on0 (xs : Map Word) : State := at_ 0 (aCore xs)

/-- Control core 0 with scalar registers. -/
def onK (xs : Map Word) : State := at_ 256 (aCore xs)

/-- A HELD region of context 0 over the scratchpad of core 0, open to every class of the core. -/
def spRegion : Region := { kind := .sp, st := .held, size := 0x180000, phase := { mode := 0 } }

/-- Core 0 with scalar registers, all of its scratchpad rented. -/
def rented (xs : Map Word) : State := { on0 xs with regions := [(0, spRegion)] }

/-! ### Decoding -/

/-- Each word of a list decodes to its instruction. -/
def reads (xs : List (Slot × List IWord × IWord × Instr)) : Bool :=
  xs.all (fun x => decide ((decodeSlot true 0 x.1 x.2.1 x.2.2.1).toOption = some x.2.2.2))

-- The words stand in the worked examples of spec/ (03_encoding.md and the sections of the families).
theorem test_decode_scalar : reads
    [(.s, [1], 0x07010400, .shl always 2 1 false (.lit 1)), (.s, [], 0x200189C0, .lds always 3 2 false (.reg 0 false) false 3),
     (.s, [32], 0x21061802, .sts always 12 6 false (.lit 32) 2), (.s, [], 0x35090840, .xmovpS always ⟨.c0, true, 1, 1, false, 0⟩),
     (.s, [], 0x2D000000, .endk always)] = true := by decide

theorem test_decode_rent : reads
    [(.s, [0x1800], 0x4206AC00, .prepay always 13 11 false (.lit 0x1800)), (.s, [2], 0x40059C03, .rentHBM always 11 7 false 2)]
      = true := by decide

theorem test_decode_phase : reads
    [(.s, [], 0x4A028862, .acqT always 5 2 false 3 false), (.s, [], 0x4B030880, .rel always 6 2 false 4 false),
     (.s, [], 0x49010400, .fencex always 2 1 0), (.s, [0x1000], 0x50038E00, .barm always 7 3 true (.lit 0x1000))]
      = true := by decide

theorem test_decode_queue_graph : reads
    [(.s, [], 0x58020440, .qput always 4 1 false 2 false), (.s, [], 0x5C028C00, .garm always 5 3 false),
     (.s, [0x3F8], 0x62000000, .rfwait always (.lit 0x3F8)), (.s, [], 0x620001C2, .rfwait always (.reg 1 false))]
      = true := by decide

theorem test_decode_vector : reads
    [(.v0, [], 0x01008860, .vadd .v0 always 1 2 false 3 false false), (.v1, [], 0x0A142180, .vcswpHi .v1 ⟨false, 1⟩ 8 8 false 12 false),
     (.v0, [], 0x4E000440, .vhist .v0 always 1 2 false), (.v0, [], 0x53004100, .xmovpV .v0 always ⟨.s, false, 8, 4, false, 0⟩),
     (.v0, [], 0x4A018411, .vpack .v0 always 3 1 true 1 false 0), (.v1, [], 0x4D008C81, .vgrd .v1 always 1 3 false 4 false true),
     (.v0, [], 0x4B030C98, .vmulw .v0 always 6 3 true 4 true), (.v0, [], 0x4C0098B8, .vxtr .v0 always 1 6 true 5 true)]
      = true := by decide

theorem test_decode_matrix : reads
    [(.m, [12], 0x01000000, .mcall always (.lit 12)), (.m, [5, 7], 0x02008040, .mparm always 1 (.lit 7)),
     (.m, [], 0x040011CC, .msql always 4 (.reg 6 false))] = true := by decide

theorem test_decode_copy : reads
    [(.c0, [], 0x20040021, .eset .c0 always 1 0 0 1 1), (.c1, [], 0x28018400, .cwm .c1 always 3 1 0),
     (.c0, [0x40], 0x14239002, .kld .c0 ⟨false, 2⟩ 7 4 (.lit 0x40) false 2), (.c0, [], 0x3000052F, .bcast .c0 always 0 1 9 15)]
      = true := by decide

theorem test_decode_gather_collective : reads
    [(.c0, [], 0x3A000400, .gwait .c0 always 1), (.c0, [], 0x3B008880, .kvapp .c0 always false 1 2 4),
     (.c0, [], 0x3D00A000, .pxins .c0 always 1 8), (.c0, [], 0x41008000, .csnap .c0 always 1 0 false),
     (.c0, [], 0x42018000, .mirrMark .c0 always 3), (.c0, [], 0x42020001, .mirrDone .c0 always 4),
     (.c0, [], 0x42028002, .mirrSt .c0 always 5)] = true := by decide

/-- R164: opcode 4 with n set, opcode 1 with plane 2 of 8 through register 3 and step 64, and opcode 11. -/
theorem test_decode_uops :
    decodeUop 0x4000000200000000 = some (.uopXtr false true)
    ∧ decodeUop 0x1600004200000040 = some (.uopPlane 3 2 8 64)
    ∧ decodeUop 0xB000000000000000 = some .uopEnd ∧ decodeUop 0xB000000000000001 = none := by decide

theorem test_decode_refuses :
    (match decodeSlot true 0 .m [] 0x0D000000 with | .error .illegalOp => true | _ => false) = true
    ∧ (match decodeSlot false 0 .s [] 0x2F000000 with | .error .priv => true | _ => false) = true
    ∧ (match decodeSlot true 0 .s [7] 0x01018040 with | .error .illegalLiteral => true | _ => false) = true := by decide

/-! ### WellFormed (R33, R34, R36, R38, R39, R42): one ill-formed term for each check -/

theorem test_wf_mark_on_s0 : Instr.wf 0 (.add always 1 0 true (.lit 1)) = false := by decide
theorem test_wf_operand_mark : Instr.wf 0 (.add always 1 2 false (.reg 0 true)) = false := by decide
theorem test_wf_matrix_register : Instr.wf 0 (.madd always 8 0 (.lit 1)) = false := by decide
theorem test_wf_matrix_predicate : Instr.wf 0 (.mwait ⟨false, 4⟩) = false := by decide
theorem test_wf_matrix_operand : Instr.wf 0 (.mcall always (.reg 8 false)) = false := by decide
theorem test_wf_copy_register : Instr.wf 0 (.kmov .c0 always 16 (.lit 0)) = false := by decide
theorem test_wf_copy_operand : Instr.wf 0 (.kmov .c0 always 1 (.reg 2 true)) = false := by decide
theorem test_wf_pair : Instr.wf 0 (.vmulw .v0 always 3 1 false 2 false) = false := by decide
theorem test_wf_compare_mod : Instr.wf 0 (.cmpeq always 1 2 false (.reg 3 false) 1) = false := by decide
theorem test_wf_load_sign : Instr.wf 0 (.lds always 1 2 false (.lit 0) true 3) = false := by decide
theorem test_wf_element_format : Instr.wf 0 (.vcvt .v0 always 1 2 false 7 0 false) = false := by decide
theorem test_wf_move_register : Instr.wf 0 (.xmovS always ⟨.m, false, 8, 1, false, 0⟩) = false := by decide
theorem test_wf_move_part : Instr.wf 0 (.xmovS always ⟨.m, false, 1, 1, false, 3⟩) = false := by decide
theorem test_wf_literal_only : Instr.wf 0 (.bankWRS always (.reg 1 false)) = false := by decide
theorem test_wf_rent_register : Instr.wf 0 (.rentSP always 1 31 false 1) = false := by decide
theorem test_wf_fence_path : Instr.wf 0 (.fence always 6 0) = false := by decide
theorem test_wf_fencex_same_path : Instr.wf 0 (.fencex always 2 2 0) = false := by decide
theorem test_wf_loop_offset : Instr.wf 0 (.loop always 1 false (.lit 0)) = false := by decide
theorem test_wf_csr_number : Instr.wf 0 (.csrr always 1 (.lit 6)) = false := by decide
theorem test_wf_barrier_word : Instr.wf 0 (.bwait always (.lit 0x4000)) = false := by decide
theorem test_wf_divisor : Instr.wf 0 (.clkdivM always (.lit 5)) = false := by decide
theorem test_wf_tag_word : Instr.wf 0 (.vtag .v0 always 1 2 false (.lit 7)) = false := by decide
theorem test_wf_call_index : Instr.wf 0 (.mcall always (.lit 256)) = false := by decide
theorem test_wf_scale_count : Instr.wf 0 (.msql always 1 (.lit 65)) = false := by decide
theorem test_wf_release_tile : Instr.wf 0 (.acrel always (.lit 33)) = false := by decide
theorem test_wf_uop_plane : Instr.wf 0 (.uopPlane 0 4 4 0) = false := by decide
theorem test_wf_accepts : Instr.wf 0 (.add always 1 2 true (.lit 1)) = true := by decide

/-! ### The scalar slot -/

theorem test_sub_wraps : exec (.sub always 3 1 false (.lit 6)) (on0 [(1, 5)])
    = .next (delivered .s [] (lands .s 3 0xFFFFFFFFFFFFFFFF 1) (on0 [(1, 5)])) := rfl
theorem test_mulhu_top : exec (.mulhu always 3 1 false (.reg 1 false)) (on0 [(1, 0xFFFFFFFFFFFFFFFF)])
    = .next (delivered .s [] (lands .s 3 0xFFFFFFFFFFFFFFFE 3) (on0 [(1, 0xFFFFFFFFFFFFFFFF)])) := by rfl
theorem test_mulh_sign : exec (.mulh always 3 1 false (.lit 2)) (on0 [(1, 0x8000000000000000)])
    = .next (delivered .s [] (lands .s 3 0xFFFFFFFFFFFFFFFF 3) (on0 [(1, 0x8000000000000000)])) := by rfl
theorem test_sra_fills : exec (.sra always 3 1 false (.lit 68)) (on0 [(1, 0x8000000000000000)])
    = .next (delivered .s [] (lands .s 3 0xF800000000000000 1) (on0 [(1, 0x8000000000000000)])) := by rfl
theorem test_clz_zero : exec (.clz always 3 1 false) (on0 []) = .next (delivered .s [] (lands .s 3 64 1) (on0 [])) := by rfl

theorem test_meets_ScalarSlotResults :
    predOn (core (on0 [(1, 5), (2, 7)])) .s always = true ∧ rdX (core (on0 [(1, 5), (2, 7)])) .s 1 = .ok 5
    ∧ rdX (core (on0 [(1, 5), (2, 7)])) .s 2 = .ok 7 ∧ rdO (core (on0 [(1, 5), (2, 7)])) .s (.reg 2 true) = .ok 7
    ∧ rdO (core (on0 [])) .s (.lit 9) = .ok 9 ∧ rdX (core (on0 [])) .s 0 = .ok 0 ∧ (2 : BitVec 2) ≠ 3
    ∧ predOn (core (on0 [])) .c1 always = true ∧ rdX (core (on0 [(175, 6)])) .c1 15 = .ok 6
    ∧ rdO (core (on0 [(160, 4)])) .c1 (.reg 0 false) = .ok 4 := by
  and_intros <;> first | decide +kernel | rfl

/-- R75, R76: the last byte of scratchpad is in reach of a load and of a store. -/
theorem test_meets_ScratchpadAccessResults :
    (checkLocal .sl .read 0x17FFFF 1 1 (rented [(1, 0x17FFF8), (2, 0x17FFF8)])).toOption.isSome = true
    ∧ checkPoison (core (rented [])) 0x17FFFF 1 = .ok ()
    ∧ (checkLocal .sl .write 0x17FFF8 8 8 (rented [])).toOption.isSome = true
    ∧ rdX (core (rented [(1, 0x17FFF8)])) .s 1 = .ok 0x17FFF8 ∧ rdO (core (rented [])) .s (.lit 7) = .ok 7
    ∧ rdX (core (rented [(129, 0x17FFF8)])) .c0 1 = .ok 0x17FFF8 ∧ Memory.wf (core (rented [])).sp.mem = true := by
  and_intros <;> first | decide +kernel | rfl

/-- R78, R79: an AMO and an AMOCAS of 4 and of 8 bytes. -/
theorem test_meets_AtomicResults :
    (checkLocal .sl .atomic 0x17FFFC 4 4 (rented [])).toOption.isSome = true
    ∧ (checkLocal .sl .atomic 0 8 8 (rented [])).toOption.isSome = true
    ∧ checkPoison (core (rented [])) 0x17FFFC 4 = .ok () ∧ rdX (core (rented [(1, 0x17FFFC)])) .s 1 = .ok 0x17FFFC
    ∧ rdX (core (rented [(2, 9)])) .s 2 = .ok 9 ∧ seen (rented []) 0x17FFFC 4 = 0
    ∧ (let c : Core := { aCore [] with files := { (aCore []).files with live := [] } }
       rdX (core (at_ 0 c)) .s 1 = .error (exc 0x10 (regInfo .s 1))) := by
  and_intros <;> first | decide +kernel | rfl

/-- R81: targets 0, 0x3FFFC, 0x40000 and one that is no multiple of 4. -/
theorem test_meets_BranchResults :
    branchFree (core (on0 [])) ∧ rdO (core (on0 [])) .s (.lit 0x3FFFC) = .ok 0x3FFFC
    ∧ (core (on0 [])).pc.setWidth 64 + 0x3FFFC = (0x3FFFC : Word) ∧ rdX (core (on0 [(1, 0x3FFFC)])) .s 1 = .ok 0x3FFFC
    ∧ rdX (core (on0 [(1, 0x40000)])) .s 1 = .ok 0x40000 ∧ rdX (core (on0 [(1, 0x40002)])) .s 1 = .ok 0x40002
    ∧ (0x40002 : Word).toNat % 4 ≠ 0 ∧ (0x40000 : Word).toNat % 4 = 0 := by
  and_intros <;> first | decide +kernel | rfl | (intro e h; cases h)

/-- R83, R288: counts 0 and 2^32 − 1, the offset that ends at the last bundle address, and three entries on the stack. -/
theorem test_meets_LoopAndEndResults :
    branchFree (core (on0 [])) ∧ rdX (core (on0 [(1, 0xFFFFFFFF)])) .s 1 = .ok 0xFFFFFFFF ∧ rdX (core (on0 [])) .s 0 = .ok 0
    ∧ (0 : Int) < (0x3FFFC : Word).toInt ∧ ((core (on0 [])).pc.toNat : Int) + (0x3FFFC : Word).toInt < 0x40000
    ∧ (aCore []).loops.length < 4 ∧ (∀ x ∈ (core (on0 [])).chans, x.2.st ≠ .suspended) := by
  and_intros <;> first | decide +kernel | rfl | (intro e h; cases h)

/-- R84: a core in its second and its first delay bundle, one that takes a branch, and loop ends with 2, 1 and 0 turns left. -/
theorem test_meets_SequencerRules :
    (let c : Core := { aCore [] with br := some ⟨8, 2⟩ }; c.br = some ⟨8, 2⟩)
    ∧ (let c : Core := { aCore [] with br := some ⟨8, 1⟩ }; c.br = some ⟨8, 1⟩)
    ∧ (let c : Core := { aCore [] with bun := { taken := some 12 } }; c.br = none ∧ c.bun.taken = some 12)
    ∧ (let c : Core := { aCore [] with loops := [⟨4, 0, 2⟩] }
       c.br = none ∧ c.bun.taken = none ∧ c.bun.jump = none ∧ c.loops = [⟨4, 0, 2⟩] ∧ (2 : BitVec 32).toNat = 2)
    ∧ (∀ e ∈ (aCore []).loops.head?, e.fin ≠ (aCore []).pc) := by
  and_intros <;> decide +kernel

theorem test_loop_end_rounds : (advance { aCore [] with loops := [⟨4, 0, 2⟩] }).pc = 4
    ∧ (advance { aCore [] with loops := [⟨4, 0, 2⟩] }).loops = [⟨4, 0, 1⟩]
    ∧ (advance { aCore [] with loops := [⟨4, 0, 1⟩] }).loops = [] := ⟨rfl, rfl, rfl⟩

/-- R85: numbers below and from 0xF0, on a compute and a control core, WDATA, and a bank within BCSEL's range. -/
theorem test_meets_CsrResults :
    predOn (core (onK [])) .s always = true ∧ rdO (core (onK [])) .s (.lit 0x50) = .ok 0x50 ∧ csrKnown 0x50 = true
    ∧ csrKnown 0xF0 = true ∧ csrKnown 0xF9 = true ∧ (onK []).cur = 256 ∧ (on0 []).cur = 0
    ∧ rdX (core (on0 [(1, 1)])) .s 1 = .ok 1 ∧ ((383 : Word).setWidth 9).toNat < 384
    ∧ (core (at_ 0 { aCore [] with loops := [⟨4, 8, 2⟩] })).loops = [⟨4, 8, 2⟩] ∧ (core (on0 [])).loops = [] := by
  and_intros <;> first | decide +kernel | rfl

/-- A record of core 0's fault 0x21. -/
def aRec : TRec := recordOf 0 (aCore []) (exc 0x21 0) 0 false

/-- Control core 0 with its cluster as given, and core 0 trapped. -/
def withCluster (q : Cluster) : State :=
  { onK [] with
    clusters := [(0, q)]
    cores := [(0, { aCore [] with st := .trapped, trap := some ⟨exc 0x21 0, 1, 0, false, false, 0, 0, 0, false⟩ }), (256, aCore [])] }

/-- R190, R192, R193: a full queue, one record with nothing latched, a queue with room for the control core's latched record and for
core 0's; the window on a predicate, a data and a vector register of core 0, on its generators and its CSRs, and one that is
refused. -/
theorem test_meets_ControlCoreSteps :
    (clusterAt (withCluster { q := List.replicate 64 aRec }) 0).q = aRec :: List.replicate 63 aRec
    ∧ (clusterAt (withCluster { q := [aRec] }) 0).latch = none
    ∧ (∀ i < 8, (coreAt (withCluster { q := [aRec] }) (8 * 0 + i)).latched = none)
    ∧ (clusterAt (withCluster { latch := some aRec, q := List.replicate 59 aRec }) 0).latch = some aRec
    ∧ (clusterAt (withCluster { latch := some aRec, q := List.replicate 59 aRec }) 0).q.length ≤ 59
    ∧ (coreAt (updCoreAt 0 (fun c => { c with latched := some (3, aRec) }) (withCluster {})) (8 * 0 + 0)).latched = some (3, aRec)
    ∧ ([0x8010, 0x10, 0x20, 0x460, 0x70] : List (BitVec 31)).all (fun w =>
        wServed (coreAt (withCluster { wsel := w }) (8 * 0 + wCore { wsel := w })) { wsel := w } false) = true
    ∧ wServed (coreAt (withCluster {}) 1) { wsel := 1 } true = false := by
  and_intros <;> decide +kernel

/-- R186: the last core and code, and a branch in its second delay bundle. -/
theorem test_meets_FaultIsTaken :
    (at_ 255 { aCore [] with br := some ⟨0x3FFFC, 2⟩ }).cur < 256 ∧ 0xFF < 256 ∧ 0xFF ≠ 0x3F
    ∧ (∀ b ∈ (core (at_ 255 { aCore [] with br := some ⟨0x3FFFC, 2⟩ })).br, b.dpos < 4)
    ∧ (clusterAt (at_ 255 (aCore [])) 31).q = [] := by
  and_intros <;> decide +kernel

theorem test_meets_TrapAndPrivilege : predOn (core (on0 [(1, 3)])) .s always = true
    ∧ rdO (core (on0 [(1, 3)])) .s (.reg 1 true) = .ok 3 ∧ (on0 []).cur < 256 := by
  and_intros <;> first | decide +kernel | rfl

theorem test_trap_traps : (match exec (.trap always (.lit 9)) (on0 []) with
    | .next t => (core t).st == .trapped && (core t).csr.sres == 1 && (clusterAt t 0).q.length == 1
    | _ => false) = true := by decide

/-- R196: RFT of core 0, trapped and not. -/
theorem test_meets_ReturnFromFault :
    256 ≤ (withCluster {}).cur ∧ rdX (core (withCluster {})) .s 0 = .ok 0
    ∧ (coreAt (withCluster {}) 0).st = .trapped
    ∧ (coreAt (withCluster {}) 0).trap = some ⟨exc 0x21 0, 1, 0, false, false, 0, 0, 0, false⟩
    ∧ rdX (core (onK [(1, 7)])) .s 1 = .ok 7 ∧ (coreAt (onK [(1, 7)]) 7).st ≠ .trapped := by
  and_intros <;> first | decide +kernel | rfl

/-- R56: the last register of each file, a lane mask with one bit, and one with none. -/
theorem test_meets_CrossFileMoves :
    rdX (core (on0 [(31, 5)])) .s 31 = .ok 5 ∧ rdX (core (on0 [(103, 5)])) .m 7 = .ok 5 ∧ rdX (core (on0 [(143, 5)])) .c0 15 = .ok 5
    ∧ predOn (core (on0 [])) .m always = true ∧ selMask (core (on0 [])) .v0 always ≠ 0
    ∧ rdV (core (on0 [])) .v1 31 = .ok {} ∧ selMask (core (on0 [])) .v1 ⟨true, 0⟩ = 0 := by
  and_intros <;> first | decide +kernel | rfl

/-- R67: banks 0, 1, 2, 3 and 4, and ranges of scratchpad of length 0, up to its end, and beyond it. -/
theorem test_meets_BankInstructions :
    rdO (core (on0 [])) .s (.lit 1) = .ok 1 ∧ rdO (core (on0 [])) .s (.lit 2) = .ok 2
    ∧ bankOpnd (core (on0 [])) .v0 (.lit 3) = .ok 3 ∧ bankOpnd (core (on0 [])) .v0 (.lit 4) = .ok 4
    ∧ rdX (core (on0 [(1, 0x17FFFF)])) .s 1 = .ok 0x17FFFF ∧ 0x17FFFF + 1 ≤ 0x180000 ∧ 0x180000 < 0x17FFFF + 2 := by
  and_intros <;> first | decide +kernel | rfl

/-- A result of the S slot for register `r`, due in issue cycle `d`. -/
def aLanding (r d : Nat) (arrives : Bool) : Landing :=
  { emptyLanding with reg := r, due := d, bits := 5, mask := mask64, arrival := arrives }

/-- R25, R55: a result that is due now, one that is due next, and two for one register. -/
theorem test_meets_ResultsLand :
    (core (at_ 0 { aCore [] with pend := [aLanding 31 0 false] })).pend = [aLanding 31 0 false]
    ∧ bankReady (aCore []) (aLanding 31 0 false) = true ∧ (aLanding 31 0 false).reg < 32
    ∧ (aCore []).csr.cyc < (aLanding 31 1 false).due ∧ sameDest (aLanding 31 0 false) (aLanding 31 0 true) = true := by
  and_intros <;> decide +kernel

theorem test_result_lands : (match exec .resultLanding (at_ 0 { aCore [] with pend := [aLanding 3 0 false] }) with
    | .next t => getX (core t) .s 3 == 5 && (core t).pend.isEmpty
    | _ => false) = true := by decide +kernel

/-- R58, R59, R63: banks that wake, and banks that do not. -/
theorem test_meets_RegisterBankResults :
    (getBank (setBank (aCore []) .v1 3 { st := .waking, fromRet := true }) .v1 3).st = .waking
    ∧ (getBank (aCore []) .s 1).st ≠ .waking ∧ 3 < (if isV .v1 then 4 else 2) ∧ 1 < (if isV .s then 4 else 2)
    ∧ (getSpBank (setSpBank 383 { st := .waking } (aCore [])) 383).st = .waking ∧ (getSpBank (aCore []) 0).st ≠ .waking := by
  and_intros <;> decide +kernel

/-! ### Boundaries, clocks and rent -/

/-- R187, R48, R43, R52, R22: a pending fault, a compute core at work, a store with no valid word, and a frozen core. -/
theorem test_meets_BoundarySteps :
    (core (at_ 0 { aCore [] with asyncs := [exc 0x22 0] })).asyncs = [exc 0x22 0] ∧ (core (on0 [])).st = .running
    ∧ (core (on0 [])).drain = none ∧ (core (on0 [])).resume = none ∧ (core (on0 [])).asyncs = []
    ∧ (on0 []).cur < 256 ∧ (core (on0 [])).st ≠ .disabled ∧ (clusterAt (on0 []) 0).q.length < 64
    ∧ (core (on0 [])).bun.slots = [] ∧ decodeAt (on0 []) = .error (illegalBundle 0, 1)
    ∧ (core (at_ 0 { aCore [] with st := .frozen })).st = .frozen
    ∧ holdCause (at_ 0 { aCore [] with st := .frozen }) = none ∧ (core (on0 [])).inEnd = false := by
  and_intros <;> first | decide +kernel | rfl

theorem test_empty_bundle_moves_on : (match exec (.emptyBundle 31) (on0 []) with
    | .next t => (core t).pc == 4 && (core t).csr.cyc == 1 && (core t).window == [(0, 31)]
    | _ => false) = true := by decide

/-- R348, R349: divisors 1, 4, 0 and 5, on both kinds of core, and drains at their end and before it. -/
theorem test_meets_ClockDivisors :
    rdO (core (on0 [])) .s (.lit 1) = .ok 1 ∧ rdO (core (onK [])) .s (.lit 4) = .ok 4 ∧ (on0 []).dev.st ≠ .quickset
    ∧ rdO (core (on0 [])) .s (.lit 0) = .ok 0 ∧ rdO (core (on0 [])) .s (.lit 5) = .ok 5
    ∧ (core (at_ 0 { aCore [] with drain := some (.v, 3) })).drain = some (.v, 3) ∧ drained .v (aCore []) = true
    ∧ drained .v { aCore [] with pend := [{ aLanding 1 9 false with src := .v0, file := .v0 }] } = false := by
  and_intros <;> first | decide +kernel | rfl

/-- Core 0 that would rent 64 bytes at the last place of its scratchpad for `n` ticks, with an allowance. -/
def renting (alw : Int) (rs : Map Region) : State :=
  { on0 [(1, 64), (2, 0x17FFC0)] with ctxs := [(0, { st := .active, alw := alw, htlen := 8 })], regions := rs }

/-- R237: the smallest size, the last place, the least and the longest term; an allowance that just covers the charge and one
that does not; a place that is taken. -/
theorem test_meets_RentResults :
    rdX (core (renting 2048 [])) .s 1 = .ok 64 ∧ rdX (core (renting 2048 [])) .s (1 + 1) = .ok 0x17FFC0
    ∧ (64 : Word).toNat % 64 = 0 ∧ 0x17FFC0 + 64 ≤ 0x180000 ∧ 64 * RKind.sp.rate * 1 = 2048
    ∧ myAlw (renting 2048 []) = 2048 ∧ myAlw (renting 2047 []) < 2048 ∧ (myCtx (renting 2048 [])).st ≠ .free
    ∧ rangeTaken (renting 2048 []) .sp 0 0x17FFC0 64 = false ∧ rangeTaken (renting 2048 [(0, spRegion)]) .sp 0 0x17FFC0 64 = true
    ∧ (freeEntryOf (renting 2048 []) .sp 0).isSome = true ∧ (2 ^ 20 : Word).toNat ≤ 2 ^ 20 := by
  and_intros <;> first | decide +kernel | rfl

/-- Core 0 with a region of kind HBM of 64 bytes under key 2^18, its handle in s1, and `f` done to it. -/
def owning (f : Region → Region) : State :=
  let r := f { kind := .hbm, st := .held, size := 64, pu := 5 }
  { on0 [(1, (handleOf (2 ^ 18) r).setWidth 64), (2, 0), (4, 64), (5, 0x0000000100003001)] with regions := [(2 ^ 18, r)] }

/-- R235, R238, R239: a HELD region of the context, terms of 1 and of 2^20 ticks, a reserve, and no region under handle 0. -/
theorem test_meets_RegionTermResults :
    (namedRegion (owning id) ((handleOf (2 ^ 18) { kind := .hbm, st := .held, size := 64, pu := 5 }).setWidth 64)).isSome = true
    ∧ rdX (core (owning id)) .s 0 = .ok 0 ∧ namedRegion (owning id) 0 = none ∧ (solvent (owning id))
    ∧ rdX (core (owning id)) .s (1 + 1) = .ok 0 ∧ rdX (core (owning id)) .s 4 = .ok 64
    ∧ rdX (core (owning id)) .s (4 + 1) = .ok 0x0000000100003001
    ∧ fld (0x0000000100003001 : Word) 14 18 = 0 ∧ (fld (0x0000000100003001 : Word) 32 32).toNat = 1 ∧ 5 + 2 ^ 20 ≤ 0 + 2 ^ 24
    ∧ lienCount (owning id) (2 ^ 18) { kind := .hbm, st := .held, size := 64, pu := 5 } = 0
    ∧ syncBearing (owning id) (2 ^ 18) { kind := .hbm, st := .held, size := 64, pu := 5 } = false
    ∧ (freeEntryOf (owning id) .hbm (tableCore (2 ^ 18) { kind := .hbm, st := .held, size := 64, pu := 5 })).isSome = true := by
  and_intros <;> first | exact pickFree_isSome (by decide) | decide +kernel | rfl

/-- The region of `owning` under its key. -/
def theRegion (f : Region → Region) : Option (Nat × Region) :=
  regionOf (owning f).regions (handleOf (2 ^ 18) (f { kind := .hbm, st := .held, size := 64, pu := 5 }))

/-- R233, R234, R284, R235: a region whose paid-until is now, with and without 64 ticks of reserve; a launch region; one whose
grace ends now; a sublet whose term ends now; a SCRUBBED region. -/
theorem test_meets_RentClock :
    theRegion (fun r => { r with pu := 0, res := 32768 })
      = some (2 ^ 18, { kind := .hbm, st := .held, size := 64, pu := 0, res := 32768 })
    ∧ 64 * (64 * RKind.hbm.rate) = 32768
    ∧ theRegion (fun r => { r with pu := 0, res := 511 }) = some (2 ^ 18, { kind := .hbm, st := .held, size := 64, res := 511 })
    ∧ theRegion (fun r => { r with pu := 0, term := some 64 })
      = some (2 ^ 18, { kind := .hbm, st := .held, size := 64, term := some 64 })
    ∧ (theRegion (fun r => { r with st := .lapsed, ge := 0 })).isSome = true
    ∧ (theRegion (fun r => { r with subl := some ⟨1, 0, true, true, 0⟩ })).isSome = true
    ∧ (theRegion (fun r => { r with st := .scrubbed })).isSome = true ∧ (ctxAt (owning id) 0).st ≠ .free := by
  and_intros <;> decide +kernel

/-- R228: the last core alone runs a context. -/
theorem test_meets_TickBoundary :
    (at_ 255 (aCore [])).regions = [] ∧ (at_ 255 (aCore [])).images = [] ∧ (at_ 255 (aCore [])).pxi = []
    ∧ (at_ 255 (aCore [])).cores = [(255, aCore [])] ∧ (aCore []).st = .running ∧ (ctxAt (at_ 255 (aCore [])) 0).st ≠ .free
    ∧ (∀ x ∈ (at_ 255 (aCore [])).ctxs, x.2.tables = [] ∧ x.2.debt = 0) := by
  and_intros <;> decide +kernel

theorem test_tick_debits : (match exec .tickBoundary (on0 []) with
    | .next t => (ctxAt t 0).alw == 1000000 - (2 * 16384 + 8 * 262144) && t.tick == 1
    | _ => false) = true := by decide +kernel

theorem test_meets_Fences : predOn (core (on0 [])) .s always = true ∧ (0 : BitVec 3).toNat = 0 ∧ (5 : BitVec 3).toNat = 5 := by
  and_intros <;> decide +kernel

/-! ### Ownership, barriers, collectives, queues, nodes, contexts -/

/-- What `phaseTarget` gives for the handle in s1 of `owning`. -/
def target (f : Region → Region) : Option (Nat × Region) :=
  (phaseTarget (owning f) ((handleOf (2 ^ 18) (f { kind := .hbm, st := .held, size := 64, pu := 5 })).setWidth 64)).toOption

/-- R257 to R260: an OPEN region, one that core 1 holds exclusively, one that the core may release, a bound one that it
may not, requests with PMASK 1, and a region that is LAPSED. -/
theorem test_meets_PhaseInstructions :
    target (fun r => { r with phase := { mode := 0 } })
      = some (2 ^ 18, { kind := .hbm, st := .held, size := 64, pu := 5, phase := { mode := 0 } })
    ∧ (target (fun r => { r with phase := { holder := 1 } })).isSome = true
    ∧ fld (4 : Word) 8 56 = 0 ∧ fld (4 : Word) 2 6 ≠ 0 ∧ fld (4 : Word) 0 2 = 0 ∧ fld (5 : Word) 0 2 = 1 ∧ fld (6 : Word) 0 2 = 2
    ∧ rdX (core (owning id)) .s 2 = .ok 0 ∧ (1 : BitVec 16) ≠ BitVec.ofNat 16 (coreNum 0) ∧ namedRegion (owning id) 0 = none
    ∧ (theRegion (fun r => { r with st := .lapsed })).isSome = true
    ∧ relLegal (core (owning id)) 0xFC = true ∧ mayRelease (owning id) { mode := 2 } 0 = true
    ∧ mayRelease (owning id) { mode := 2, holder := 1 } 0 = false ∧ bound { mode := 0 } = false
    ∧ regionBusy (owning id) 0 (2 ^ 18) { kind := .hbm, st := .held, size := 64, pu := 5 } [.sl, .cp, .mx, .ga, .co, .lk] false
      = false := by
  and_intros <;> first | decide +kernel | rfl

/-- Group 1 of core 0 and core `m`, in a state, with barriers. -/
def grouped (m : Nat) (st : GSt) (bs : List Barrier) : State :=
  { owning id with
    cores := [(0, { aCore [(1, (handleOf (2 ^ 18) { kind := .hbm, size := 64 }).setWidth 64), (2, 256)] with
      csr := { (aCore []).csr with dmr := 1 } })]
    groups := [(1, { st := st, members := [0, m] })], barriers := bs }

/-- A barrier 4095 of group 1 with its state, its home die and its arrivals. -/
def aBarrier (st : BSt) (die : Nat) (arr : List Nat) : Barrier :=
  { g := 1, b := 0xFFF, die := die, st := st, count := 2, backing := 0, arr := arr, last := 0, rel := some 0, phase := 1
    arrivedAt := [(0, 0)], remote := [0], seen := [] }

/-- R296 to R299: the last barrier number, unbound and bound, on the core's die and on another; arrivals and releases. -/
theorem test_meets_BarrierResults :
    barrierNamed true (.lit 0xFFF) (grouped 1 .compute []) 0xFFF 1 0xFFF
    ∧ barrierAt (grouped 1 .compute []) 1 0xFFF = none ∧ membersOf (grouped 1 .compute []) 1 = [0, 1]
    ∧ backs (grouped 1 .compute []) ((handleOf (2 ^ 18) { kind := .hbm, size := 64 }).setWidth 64) = true
    ∧ backs (grouped 1 .compute []) 0 = false
    ∧ barrierAt (grouped 1 .compute [aBarrier .armed 0 []]) 1 0xFFF = some (aBarrier .armed 0 [])
    ∧ hasArrived { aBarrier .armed 0 [] with remote := [] } 0 = false ∧ dieNo 0 ≠ (aBarrier .armed 1 []).die
    ∧ Map.find? (aBarrier .armed 0 []).arrivedAt 0 = some 0 ∧ released (aBarrier .armed 0 []) 0 = true
    ∧ released { aBarrier .armed 0 [] with phase := 0 } 0 = false ∧ quiet (grouped 1 .compute [])
    ∧ (∀ m ∈ membersOf (grouped 1 .compute []) 1, dieNo m = dieNo 0) ∧ phaseDone (grouped 1 .compute []) 1 = true
    ∧ openSets (grouped 1 .compute []) 1 = [] ∧ (grouped 1 .compute []).cur ∈ (aBarrier .armed 0 []).remote
    ∧ Map.get (aBarrier .armed 1 []).seen 0 0 < (aBarrier .armed 1 []).phase
    ∧ (groupAt (grouped 1 .broken []) 1).st = .broken ∧ barrierAt (grouped 1 .broken [aBarrier .releasing 0 [0, 1]]) 1 0xFFF = some (aBarrier .releasing 0 [0, 1])
    ∧ (aBarrier .armed 0 []).remote.filter (fun m => memberAt m == 0) = [0] := by
  and_intros <;> first | decide +kernel | rfl | (unfold quiet; decide +kernel)

/-- Core 0 and core 1 of group 1 in COMMUNICATE, with scratchpad, and COLLs in flight. -/
def collecting (ops : List (Nat × CollOp)) (ran : List Nat) : State :=
  let c (g : Nat) : Core := { aCore [(128, 0), (129, 64), (130, 16384)] with
    csr := { (aCore []).csr with dmr := 1 }, colls := (ops.filter (fun x => x.1 == g)).map (·.2) }
  { on0 [] with
    cores := [(0, c 0), (1, c 1)]
    regions := [(0, spRegion), (1024, spRegion)]
    groups := [(1, { st := .communicate, members := [0, 1], joined := if ops.isEmpty then [] else [(0, 1), (1, 1)], ran := ran })] }

/-- A COLL.SUM.F32 of one element, or with another `op`. -/
def aColl (op : BitVec 2) : CollOp :=
  { g := 1, k := 0, seq := 0, after := 0, slot := .c0, i32 := false, op := op, cnt := 1, src := 0, dst := 64, word := 0 }

/-- R293 to R295: counts 1 and 16,384; extents apart; a set whose members agree, and one whose members differ. -/
theorem test_meets_Collectives :
    predOn (core (collecting [] [])) .c0 always = true ∧ collFlying (collecting [] []) 0 < 4
    ∧ fld (core (collecting [] [])).csr.dmr (16 * 0) 16 = 1 ∧ rdX (core (collecting [] [])) .c0 1 = .ok 64
    ∧ rdX (core (collecting [] [])) .c0 2 = .ok 16384 ∧ 1 ≤ (1 : Word).toNat ∧ (16384 : Word).toNat ≤ 16384
    ∧ (checkLocal .co .read 0 4 64 (collecting [] [])).toOption.isSome = true
    ∧ (checkLocal .co .write 64 4 64 (collecting [] [])).toOption.isSome = true
    ∧ (groupAt (collecting [] []) 1).st ≠ .broken ∧ (groupAt (collecting [] []) 1).incs = []
    ∧ setJoined (collecting [(0, aColl 0), (1, aColl 0)] []) 1 0 = true
    ∧ setDiffers (setOps (collecting [(0, aColl 0), (1, aColl 0)] []) 1 0) = false
    ∧ (checkSet 1 (setOps (collecting [(0, aColl 0), (1, aColl 0)] []) 1 0) 0 (collecting [(0, aColl 0), (1, aColl 0)] [])).toOption.isSome = true
    ∧ setDiffers (setOps (collecting [(0, aColl 0), (1, aColl 1)] []) 1 0) = true
    ∧ 0 ∈ (groupAt (collecting [(0, aColl 0), (1, aColl 0)] [0]) 1).ran
    ∧ (∀ x ∈ setOps (collecting [(0, aColl 0), (1, aColl 0)] []) 1 0,
        collHeld (collecting [(0, aColl 0), (1, aColl 0)] []) (memberAt x.1)
          (memberCore (collecting [(0, aColl 0), (1, aColl 0)] []) x.1) x.2.after = false) := by
  and_intros <;> first | decide +kernel | rfl

/-- A set whose operands lie in FULL banks is ready; a snapshot that is due is found. -/
theorem test_meets_Collectives_engines :
    (let s := collecting [(0, aColl 0), (1, aColl 0)] []
     let full (c : Core) : Core := setSpBank 0 { st := .full } (setSpBank 2 { st := .full } c)
     setReady (setOps s 1 0) { s with cores := s.cores.map (fun x => (x.1, full x.2)) }) = true
    ∧ (let o : SnapOp := { g := 1, seq := 0, after := 0, slot := .c0, addr := 0, words := [], due := 0 }
       dueSnap (updCore (fun c => { c with snaps := [o] }) (collecting [] []))) = some { g := 1, seq := 0, after := 0, slot := .c0, addr := 0, words := [], due := 0 }
    ∧ (collCheck 0 0 0 .write 0 1024 (collecting [] [])).toOption.isSome = true ∧ (List.replicate 256 (0 : BitVec 32)).length = 256
    ∧ Memory.wf (core (collecting [] [])).sp.mem = true ∧ (collecting [] []).cur < 512
    ∧ (let s := collecting [(0, aColl 0), (1, aColl 0)] [0]
       (checkSet 1 (setOps s 1 0) 0 s).toOption.isSome = true ∧ (setOps s 1 0).Pairwise (fun x y => memberAt x.1 ≠ memberAt y.1)
       ∧ (checkSet 1 (setOps s 1 0) 0 s).toOption.any (fun t => t.cores.all (fun c => Memory.wf c.2.sp.mem)) = true)
    ∧ (∀ x ∈ (collecting [] []).cores, ∀ o' ∈ x.2.snaps, o'.g = 1 → o'.born ≠ (collecting [] []).now)
    ∧ holding (core (collecting [] [])) = true := by
  and_intros <;> decide +kernel

/-- Core 0 with queue 1 of two slots, its region of HBM, and its tail. -/
def queueing (dir : BitVec 2) (tail : BitVec 32) : State :=
  let r : Region := { kind := .hbm, st := .held, size := 128, pu := 5 }
  { on0 [(1, 1), (2, 0)] with
    regions := [(0, spRegion), (2 ^ 18, r)]
    queues := [(1, { owner := 0, dir := dir, region := handleOf (2 ^ 18) r, slots := 2, tail := tail })] }

/-- R273, R279: an outbound queue, one with room, a full one, and an empty one. -/
theorem test_meets_QueueMessages :
    (fld (1 : Word) 0 16).toNat = 1 ∧ (Map.find? (queueing 1 0).queues 1).isSome = true
    ∧ rdX (core (queueing 1 0)) .s 1 = .ok 1 ∧ (read64 0 (queueing 1 0)).toOption.isSome = true
    ∧ (Map.find? (queueing 2 1).queues 1).map (queueBase (queueing 2 1)) = some (some 0)
    ∧ (Map.find? (queueing 2 1).queues 1).map queueCount = some 1 ∧ (Map.find? (queueing 2 2).queues 1).map queueCount = some 2
    ∧ (checkLocal .sl .write 0 64 64 (queueing 2 1)).toOption.isSome = true
    ∧ (Map.find? (queueing 2 0).queues 1).map (headMsg (queueing 2 0)) = some none
    ∧ ((Map.find? (queueing 2 1).queues 1).bind (headMsg (queueing 2 1))).isSome = true ∧ fld (1 : Word) 48 16 = 0 := by
  and_intros <;> first | decide +kernel | rfl

/-- R273, R279: id 0, an id without a queue, another context's queue, each wrong direction, reserved bits, and an empty queue whose
waiter's node is none. -/
theorem test_meets_QueueMessages_faults :
    (fld (2 ^ 32 : Word) 0 16).toNat = 0 ∧ Map.find? (queueing 1 0).queues 2 = none
    ∧ (Map.find? { queueing 1 0 with queues := [(1, { owner := 5, dir := 1, region := 0, slots := 2 })] }.queues 1).map (·.owner) = some 5
    ∧ (core (queueing 1 0)).ctx = 0 ∧ (Map.find? (queueing 0 0).queues 1).map (·.dir) = some 0
    ∧ (Map.find? (queueing 1 0).queues 1).map (·.dir) = some 1 ∧ fld (2 ^ 48 + 1 : Word) 48 16 ≠ 0
    ∧ (fld (2 ^ 48 + 1 : Word) 0 16).toNat = 1 ∧ canWait (queueing 2 0) 0 1 (fld (1 : Word) 16 32) = false := by
  and_intros <;> first | decide +kernel | rfl

theorem test_qput_sends : (match exec (.qput always 3 1 false 2 false) (queueing 1 0) with
    | .next t => t.link.out.map (fun m => (m.type, m.queue, m.payload.length)) == [(1, 1, 64)]
    | _ => false) = true := by decide

/-- Core 0 with two nodes of its context, ids in s1 and s2. -/
def noding (f : Node → Node) : State :=
  { rented [(1, 0), (2, 1)] with nodes := [(0, { st := .built, desc := [] }), (1, f { st := .built, kind := .copy })] }

/-- R274, R275, R279: a BUILT node with and without predecessors, a node that exists and one that does not, and a legal copy
descriptor with a FREE entry. -/
theorem test_meets_GraphNodes :
    rdX (core (noding id)) .s 1 = .ok 0 ∧ rdX (core (noding id)) .s 2 = .ok 1
    ∧ (myNode (noding id) 0).map (·.1) = some 0 ∧ (myNode (noding id) 1).map (·.1) = some 1 ∧ myNode (noding id) 2 = none
    ∧ (myNode (noding (fun n => { n with cnt := 1 })) 1).map (·.2.cnt) = some 1
    ∧ (myNode (noding id) 1).map (fun x => (x.2.cnt, x.2.kind)) = some (0, .copy)
    ∧ (read64 0 (noding id)).toOption.isSome = true ∧ fld (0x3FF : Word) 10 54 = 0 ∧ (2 : BitVec 2) ≠ 3
    ∧ (pickFree (noding id) (nodeFree (noding id)) 0 65536).isSome = true := by
  and_intros <;> first | exact pickFree_isSome (by decide) | decide +kernel | rfl

theorem test_garm_without_predecessors : (match exec (.garm always 3 2 false) (noding id) with
    | .next t => (Map.find? t.nodes 1).any (fun n => n.st == .ready)
    | _ => false) = true := by decide

/-- A legal event descriptor: word 0 asks for a local word, word 1 names an aligned address. -/
theorem test_meets_GraphNodes_descriptor :
    descOk .event [0x1, 0x40, 0, 0, 0, 0, 0, 0] = true
    ∧ tooWide (noding id) .event [0x1, 0x40, 0, 0, 0, 0, 0, 0] = false := by
  and_intros <;> decide +kernel

/-- R274, R275, R279: an illegal descriptor, a kernel of more than one die before SERVICE, reserved bits, a count and a list of successors at their
bounds, a node that is not BUILT, and event nodes whose word has and has not reached its target. -/
theorem test_meets_GraphNodes_bounds :
    descOk .event [0, 0, 0, 0, 0, 0, 0, 1] = false
    ∧ descOk .kernel [1, 0, 1, 0x211, 0, 0, 0, 0] = true
    ∧ tooWide { noding id with dev := { st := .quickset } } .kernel [1, 0, 1, 0x211, 0, 0, 0, 0] = true
    ∧ fld (0x400 : Word) 10 54 ≠ 0
    ∧ (myNode (noding (fun n => { n with cnt := 65535 })) 1).map (·.2.cnt) = some 65535
    ∧ (myNode (noding (fun n => { n with succ := List.replicate 64 0 })) 1).map (·.2.succ.length) = some 64
    ∧ (myNode (noding (fun n => { n with st := .ready })) 1).map (fun x => decide (x.2.st = .built)) = some false
    ∧ (let n : Node := { st := .built, kind := .event, desc := [1, 0x40, 0, 0, 0, 0, 0, 0] }
       n.cnt = 0 ∧ n.succ = [] ∧ wordReached (noding id) n = true
         ∧ wordReached (noding id) { n with desc := n.desc.set 2 1 } = false) := by
  and_intros <;> decide +kernel

/-- Control core 0 with context 5 in a state, and the core of its cluster as given. -/
def handling (st : CtxSt) (c : Core) : State :=
  { onK [(1, 5), (2, 1)] with
    ctxs := [(5, { st := st, alw := 10 })], cores := [(0, c), (256, aCore [(1, 5), (2, 1)])]
    dev := { st := .service, passed := [(.stack, 0)] }
    images := if st = .parked then [{ core := 0, ctx := 5, node := 0, yielded := false, trapped := false, saved := aCore [], snap := [] }] else [] }

/-- R262: a core whose context is killed keeps its turn of that reference cycle, and stops before the next. -/
theorem test_kill_stops_at_next_cycle :
    (let t := endCtx 5 true (handling .active { aCore [] with ctx := 5 })
     ((coreAt t 0).st, (coreAt (stopKilled t) 0).st, (ctxAt t 5).st) == (.running, .idle, .ending)) = true := by decide +kernel

/-- R261 to R271: a FREE id, a LIVE context, one with an image, cores that run and that are IDLE. -/
theorem test_meets_ContextControl :
    256 ≤ (handling .free {}).cur ∧ rdX (core (handling .free {})) .s 1 = .ok 5 ∧ rdX (core (handling .free {})) .s 2 = .ok 1
    ∧ (fld (5 : Word) 0 12 : BitVec 12) = 5 ∧ fld (5 : Word) 12 52 = 0 ∧ (ctxAt (handling .free {}) 5).st = .free
    ∧ (5 : BitVec 12) ≠ 0xFFF ∧ (0x7FFFFFFFFFFFFFFF : Word).toNat < 2 ^ 63 ∧ (ctxAt (handling .live {}) 5).st = .live
    ∧ fld (0x3FF : Word) 10 54 = 0 ∧ fld (1 : Word) 1 63 = 0 ∧ fld (2 ^ 14 : Word) 0 14 = 0 ∧ fld (2 ^ 14 : Word) 56 8 = 0
    ∧ (coreAt (handling .live { aCore [] with ctx := 5 }) 0).st = .running
    ∧ (coreAt (handling .live { aCore [] with ctx := 5 }) 0).drain = none ∧ (coreAt (handling .live { aCore [] with ctx := 5 }) 0).resume = none
    ∧ (ctxAt (handling .live { aCore [] with ctx := 5 }) (coreAt (handling .live { aCore [] with ctx := 5 }) 0).ctx).st ≠ .ending
    ∧ 0 ≤ alwSeen (handling .parked { st := .idle }) 5 ∧ (ctxAt (handling .parked { st := .idle }) 5).st = .parked
    ∧ hbmUsed (handling .live { aCore [] with ctx := 5 }) + 69632 ≤ hbmCapacity (handling .live { aCore [] with ctx := 5 })
    ∧ (coreAt (handling .parked { st := .idle }) 0).st = .idle ∧ (imageFor (handling .parked { st := .idle }) 0 5).isSome = true := by
  and_intros <;> first | decide +kernel | rfl

/-- R271: each condition under which CTXCTL answers without its effect: ids that are not FREE and ENDING ones, a negative allowance, a core that does not
run, one that is not IDLE, no space in HBM, no image, and reserved bits. -/
theorem test_meets_ContextControl_answers :
    (ctxAt (handling .ending {}) 5).st = .ending ∧ 2 ^ 63 ≤ (2 ^ 63 : Word).toNat ∧ fld (5 + 2 ^ 12 : Word) 12 52 ≠ 0
    ∧ (coreAt (handling .live { st := .idle }) 0).st ∉ [CoreSt.running, .frozen, .trapped]
    ∧ (coreAt (handling .ending { aCore [] with ctx := 5 }) 0).st ∈ [CoreSt.running, .frozen, .trapped]
    ∧ (ctxAt (handling .ending { aCore [] with ctx := 5 }) (coreAt (handling .ending { aCore [] with ctx := 5 }) 0).ctx).st = .ending
    ∧ (let s := { handling .live { aCore [] with ctx := 5 } with dev := { st := .service } }
       hbmCapacity s < hbmUsed s + 69632)
    ∧ (ctxAt (handling .parked (aCore [])) (fld (5 : Word) 0 12)).st ∈ [CtxSt.live, .active, .parked]
    ∧ (coreAt (handling .parked (aCore [])) 0).st ≠ .idle
    ∧ alwSeen { handling .parked { st := .idle } with ctxs := [(5, { st := .parked, alw := -1 })] } 5 < 0
    ∧ imageFor (handling .live { st := .idle }) 0 5 = none := by
  and_intros <;> first | decide +kernel | rfl

/-- R263 to R270: a core that saves with nothing to wait for, one that restores, and an ENDING context that no core holds. -/
theorem test_meets_SavesAndRestores :
    (aCore []).inEnd = false ∧ (on0 []).cur < 256 ∧ 256 ≤ (onK []).cur ∧ predOn (core (onK [])) .s always = true
    ∧ (core (at_ 0 { aCore [] with st := .saving })).st = .saving
    ∧ saveReady (at_ 0 { aCore [] with st := .saving, save := some .yield }) = true
    ∧ (core (at_ 0 { aCore [] with st := .saving })).snaps = [] ∧ (core (at_ 0 { aCore [] with st := .saving })).mirrorQ = []
    ∧ (let s := { handling .parked { st := .loading, restore := true, ctx := 5 } with cur := 0 }
       (core s).st = .loading ∧ (core s).restore = true
       ∧ (s.images.find? (fun i => i.core == s.cur && i.ctx == (core s).ctx && i.node == (core s).node)).map (·.trapped) = some false)
    ∧ (ctxAt (handling .ending {}) 5).st = .ending ∧ holders (handling .ending {}) 5 = [] := by
  and_intros <;> decide +kernel

/-! ### The vector slots -/

/-- Core 0 with vector registers of V0, keyed 32 + number, and all of its scratchpad rented. -/
def vec0 (vs : Map VReg) : State :=
  { rented [] with cores := [(0, { aCore [] with files := { (aCore []).files with v := vs } })] }

/-- A vector register by its lanes' common 32-bit value and its tag. -/
def lanesOf (x : Nat) (tag : BitVec 6) : VReg :=
  { bits := BitVec.ofNat 2048 ((List.range 64).foldl (fun n _ => n * 2 ^ 32 + x) 0), tag := tag }

/-- R109 to R118: sources of tags 1, 3, 5, 8, 11 and NONE. -/
theorem test_meets_VectorArithmeticResults :
    rdV (core (vec0 [(33, { tag := 1 }), (34, { tag := 1 })])) .v0 1 = .ok { tag := 1 }
    ∧ rdV (core (vec0 [(33, { tag := 1 }), (34, { tag := 1 })])) .v0 2 = .ok { tag := 1 }
    ∧ rdV (core (vec0 [(63, { tag := 3 })])) .v0 31 = .ok { tag := 3 } ∧ rdV (core (vec0 [(33, { tag := 5 })])) .v0 1 = .ok { tag := 5 }
    ∧ rdV (core (vec0 [(33, { tag := 8 })])) .v0 1 = .ok { tag := 8 } ∧ rdV (core (vec0 [(33, { tag := 11 })])) .v0 1 = .ok { tag := 11 }
    ∧ (fmtOf 1).isSome = true ∧ (fmtOf 3).isSome = true ∧ rdV (core (vec0 [])) .v0 1 = .ok { tag := 0 }
    ∧ ¬(1 ≤ (0 : BitVec 6).toNat ∧ (0 : BitVec 6).toNat ≤ 3) := by
  and_intros <;> first | decide +kernel | rfl

/-- The result that waits to land, seen as lane `l` of 32 bits with its tag. -/
def firstResult (o : Host.Outcome State Fault Refusal) (l : Nat) : Option (Nat × Nat) :=
  match o with
  | .next t => (core t).pend.head?.map (fun x => (el 32 x.bits l, x.tag.toNat))
  | _ => none

/-- 1.5 + 2.5 = 4, and 1 + 2^-24 rounds to the even 1 (R91, R114). -/
theorem test_vadd_fp32 :
    firstResult (exec (.vadd .v0 always 3 1 false 2 false false) (vec0 [(33, lanesOf 0x3FC00000 1), (34, lanesOf 0x40200000 1)])) 63
      = some (0x40800000, 1)
    ∧ firstResult (exec (.vadd .v0 always 3 1 false 2 false false) (vec0 [(33, lanesOf 0x3F800000 1), (34, lanesOf 0x33800000 1)])) 0
      = some (0x3F800000, 1) := by
  constructor <;> decide +kernel

/-- 0x7FFFFFFF + 1 saturates in VIADDS and wraps in VIADD (R118). -/
theorem test_viadds_saturates :
    firstResult (exec (.viadds .v0 always 3 1 false 2 false) (vec0 [(33, lanesOf 0x7FFFFFFF 8), (34, lanesOf 1 8)])) 5
      = some (0x7FFFFFFF, 8)
    ∧ firstResult (exec (.viadd .v0 always 3 1 false 2 false) (vec0 [(33, lanesOf 0x7FFFFFFF 8), (34, lanesOf 1 8)])) 5
      = some (0x80000000, 8) := by
  constructor <;> decide +kernel

theorem test_vadd_of_integers_faults : (match exec (.vadd .v0 always 3 1 false 2 false false) (vec0 [(33, { tag := 8 }), (34, { tag := 8 })]) with
    | .next t => (core t).trap.any (fun x => x.exc.code == 0x13 && x.exc.fslot == 1)
    | _ => false) = true := by decide +kernel

/-- R115, R116, R119, R120, R126, R136: registers of one tag and of two, a tag word, and pairs of keys and indices. -/
theorem test_meets_VectorMaskAndMoveResults :
    rdV (core (vec0 [(33, { tag := 1 }), (34, { tag := 8 })])) .v0 1 = .ok { tag := 1 }
    ∧ rdV (core (vec0 [(33, { tag := 1 }), (34, { tag := 8 })])) .v0 (1 + 1) = .ok { tag := 8 }
    ∧ rdV (core (vec0 [(35, { tag := 1 }), (36, { tag := 8 })])) .v0 (3 + 1) = .ok { tag := 8 }
    ∧ rdV (core (vec0 [(35, { tag := 1 }), (36, { tag := 8 })])) .v0 3 = .ok { tag := 1 }
    ∧ tagWordOk 0x98 = true ∧ (5 : BitVec 3).toNat < 6 ∧ (1 : BitVec 6) ≠ 8
    ∧ selMask (core (vec0 [])) .v0 always ≠ 0 ∧ selMask (core (vec0 [])) .v0 ⟨true, 0⟩ = 0 := by
  and_intros <;> first | decide +kernel | rfl

/-- R121 to R125: a listed conversion, a permutation by INT32 and by UINT8, and a reduction. -/
theorem test_meets_VectorShuffleResults :
    convListed 1 2 = true ∧ convListed 0x20 1 = true
    ∧ rdV (core (vec0 [(33, { tag := 0x20 }), (35, {})])) .v0 1 = .ok { tag := 0x20 } ∧ rdV (core (vec0 [(33, { tag := 0x20 }), (35, {})])) .v0 3 = .ok {}
    ∧ rdV (core (vec0 [(33, { tag := 1 }), (34, { tag := 8 })])) .v0 1 = .ok { tag := 1 }
    ∧ rdV (core (vec0 [(33, { tag := 1 }), (34, { tag := 8 })])) .v0 2 = .ok { tag := 8 }
    ∧ rdV (core (vec0 [(34, { tag := 11 })])) .v0 2 = .ok { tag := 11 } ∧ (1 : BitVec 6) ≠ 0 ∧ (1 : Nat) ≠ 0x20 := by
  and_intros <;> first | decide +kernel | rfl

/-- R127, R128, R135: the last line of scratchpad, with and without a base; the lanes of addresses; a domain at level 1. -/
theorem test_meets_VectorMemoryResults :
    vbase .v0 0 (vec0 []) = .ok none ∧ vbase .v0 1 (vec0 [(33, { tag := 8 })]) = .ok (some { tag := 8 })
    ∧ vaddr none 0x17FF00 = 0x17FF00 ∧ 0x17FF00 % 64 = 0 ∧ 0x17FF00 + 256 ≤ 0x180000
    ∧ (checkLocal .sl .read 0x17FF00 256 64 (vec0 [])).toOption.isSome = true ∧ checkPoison (core (vec0 [])) 0x17FF00 256 = .ok ()
    ∧ checkRegionAt (viewRegions (vec0 [])) 0 (.sp 0) .write ((vstLanes 1 0x17FF00).map (·.2)) = .ok ()
    ∧ (raceLanes .write ((vstLanes 1 0x17FF00).map (·.2)) (vec0 [])).toOption.isSome = true ∧ (core (vec0 [])).sp.poison = []
    ∧ (checkLanes .read (laneAddrs 1 0) (vec0 [])).toOption.isSome = true
    ∧ (checkLanes .write (laneAddrs 1 0) (vec0 [])).toOption.isSome = true
    ∧ histValues false 1 (0 : VWord) ≠ [] ∧ (groupAt (grouped 1 .compute []) 1).incs = []
    ∧ fld (core (grouped 1 .compute [])).csr.dmr (16 * ((1 : BitVec 3).toNat - 1)) 16 = 1 := by
  and_intros <;> first | decide +kernel | rfl

theorem test_vst_stores_lane : (match exec (.vst .v0 always 1 0 false 0x17FF00) (vec0 [(33, lanesOf 0x01020304 8)]) with
    | .next t => Memory.readLE (core t).sp.mem 0x17FFFC 4 == 0x01020304
    | _ => false) = true := by decide +kernel

/-- R130 to R134: INT8 and plane registers and their last planes; integers that fit a digit, that are wider, and that overflow;
packed registers and pairs, indices within and beyond the pair, and bounds that hold and that do not. -/
theorem test_meets_VectorDigitResults :
    rdV (core (vec0 [(33, { tag := 10 })])) .v0 1 = .ok { tag := 10 } ∧ rdV (core (vec0 [(33, { tag := 23 })])) .v0 1 = .ok { tag := 23 }
    ∧ (7 : BitVec 3).toNat < (23 : BitVec 6).toNat - 15 ∧ (16 : BitVec 6).toNat - 15 ≤ (1 : BitVec 3).toNat
    ∧ digitBits 0 < elemBits 8 ∧ elemBits 10 ≤ digitBits 0
    ∧ 2048 / elemBits 10 < ((3 : BitVec 2).toNat + 1) * (2048 / digitBits 0) ∧ (0 + 1) * (2048 / digitBits 0) ≤ 2048 / elemBits 10
    ∧ (∀ k < 2048 / digitBits 2, (packed (lanesOf 0x7FFFFFFF 8) true 0 (2048 / digitBits 2) k).natAbs ≤ 2 ^ (digitBits 2 - 1) - 1)
    ∧ (∃ k < 2048 / digitBits 2, 2 ^ (digitBits 2 - 1) - 1 < (packed (lanesOf 0x80000000 8) false 0 (2048 / digitBits 2) k).natAbs)
    ∧ rdV (core (vec0 [(33, { tag := 0x18, dw := 1 }), (34, { tag := 0x18, dw := 1 })])) .v0 1 = .ok { tag := 0x18, dw := 1 }
    ∧ rdV (core (vec0 [(33, { tag := 0x18, dw := 1 }), (34, { tag := 0x18, dw := 1 })])) .v0 (1 + 1) = .ok { tag := 0x18, dw := 1 }
    ∧ rdV (core (vec0 [(33, { tag := 0x18, dw := 3 }), (34, { tag := 0x18, dw := 3 }), (35, { tag := 8 })])) .v0 (1 + 1) = .ok { tag := 0x18, dw := 3 }
    ∧ (∀ l < 64, el 32 (0 : VWord) l < 4096 / digitBits 1) ∧ (∃ l < 64, 4096 / digitBits 1 ≤ el 32 (lanesOf 0xFFFFFFFF 8).bits l)
    ∧ guardBound (digitBits 1) 0 0 ≤ 2 ^ (digitBits 1 - 1) - 1
    ∧ ¬guardBound (digitBits 1) (lanesOf 0x7FFF7FFF 8).bits (lanesOf 0x7FFF7FFF 8).bits ≤ 2 ^ (digitBits 1 - 1) - 1
    ∧ selMask (core (vec0 [])) .v0 always ≠ 0 ∧ selMask (core (vec0 [])) .v0 ⟨true, 0⟩ = 0 := by
  and_intros <;> first | decide +kernel | rfl | exact ⟨0, by decide +kernel⟩

/-! ### The matrix slot and engine -/

/-- Core 0 with its scratchpad rented, matrix registers, and a matrix engine. -/
def mat0 (xs : Map Word) (e : Pme) : State := { rented [] with cores := [(0, { aCore xs with pme := e })] }

/-- A call of routine 255, and the directory entry of one that ends at once. -/
def aCall (k : CallKind) : Call := { kind := k, regs := List.replicate 8 0, seq := 1, issued := 0 }

/-- A directory entry. -/
def aDir (narrow : Bool) : DirEnt :=
  { start := 0, len := 1, narrow := narrow, valid := true, creg := 0, cfix := 0, cper := 0, epass := 0 }

/-- R170 to R178: an empty call queue, routines 255 and 256, counts 1 and 64, tiles 0 and 32, and an upload's header. -/
theorem test_meets_MatrixSlotResults :
    predOn (core (mat0 [] {})) .m always = true ∧ rdX (core (mat0 [(103, 64)] {})) .m 7 = .ok 64
    ∧ rdO (core (mat0 [] {})) .m (.lit 255) = .ok 255 ∧ rdO (core (mat0 [] {})) .m (.lit 256) = .ok 256
    ∧ (pme (mat0 [] {})).calls.length < 2 ∧ 64 ≤ stagingFree (pme (mat0 [] {})) ∧ (1 : Word).toNat ≤ 64
    ∧ (checkLocal .mx .read 0 (64 * 64) 64 (mat0 [] {})).toOption.isSome = true ∧ (32 : Word).toNat ≤ 32
    ∧ (checkLocal .mx .read 0 16 16 (mat0 [] {})).toOption.isSome = true ∧ checkPoison (core (mat0 [] {})) 0 16 = .ok ()
    ∧ (fld (0x800 : Word) 11 11).toNat = 1 ∧ (fld (0x800 + 1535 : Word) 0 11).toNat + 1 ≤ 1536
    ∧ (checkLocal .mx .read 0 (16 + 8 * 1) 16 (mat0 [] {})).toOption.isSome = true ∧ (pme (mat0 [] {})).msqls = [] := by
  and_intros <;> first | decide +kernel | rfl

/-- R160, R170, R173: two calls queued, a routine above 255, counts 0 and 65, tile 33, and a call that MWAIT waits for. -/
theorem test_meets_MatrixSlotResults_stops :
    2 ≤ (pme (mat0 [] { calls := [aCall (.call 0), aCall (.call 0)] })).calls.length ∧ 255 < (256 : Word).toNat
    ∧ (0 : Word).toNat = 0 ∧ 64 < (65 : Word).toNat ∧ 32 < (33 : Word).toNat
    ∧ (pme (mat0 [] { calls := [aCall (.call 0)] })).calls ≠ []
    ∧ (let m : Msql := { addr := 0, count := 2, read := 1, stg := [], issued := 0 }
       ∃ x ∈ (pme (mat0 [] { msqls := [m] })).msqls, x.read < x.count) := by
  and_intros <;> first | decide +kernel | exact ⟨_, List.mem_singleton.mpr rfl, by decide⟩

/-- A routine at its first micro-operation. -/
def aRoutine (narrow : Bool) : Routine :=
  { idx := 0, ent := aDir narrow, uaddr := 0, regs := List.replicate 8 0, a := [], b := [], d := [], i := [], ea := [], eb := []
    exp := none, stk := [1], passes := 0, half := false }

/-- Core 0 with a routine that runs. -/
def running (r : Routine) (e : Pme) : State := mat0 [] { e with calls := [aCall (.call 0)], run := some r }

/-- R164 to R169: a loop stack with its last turn, a call at the head, no guard failure, and operands within scratchpad. -/
theorem test_meets_MicroOperationResults :
    (pme (running (aRoutine false) {})).run = some (aRoutine false) ∧ (aRoutine false).stk = [1]
    ∧ (pme (running (aRoutine false) {})).calls = [aCall (.call 0)] ∧ guardRow (aRoutine true) = none
    ∧ (engCheck .mx .read 0 512 (running (aRoutine false) {})).toOption.isSome = true
    ∧ (engCheck .mx .read 0 4096 (running (aRoutine false) {})).toOption.isSome = true
    ∧ (engCheck .mx .write 0 (4096 * 4) (running (aRoutine false) {})).toOption.isSome = true
    ∧ (pme (running (aRoutine false) { scales := [0, 0] })).scales = [0, 0] ∧ (pme (running (aRoutine false) {})).scales = []
    ∧ (pme (running (aRoutine false) {})).fault = none ∧ (2 : BitVec 7).toNat ≤ (pme (running (aRoutine false) { scales := [0, 0] })).scales.length
    ∧ (pme (running (aRoutine false) { scales := [0, 0] })).scales.length < (3 : BitVec 7).toNat
    ∧ (bindTile (running (aRoutine false) {}) (aRoutine false) 0 0).isSome = true
    ∧ Memory.wf (core (running (aRoutine false) {})).sp.mem = true := by
  and_intros <;> decide +kernel

theorem test_uop_xtr : (match exec (.uopXtr false true) (running { aRoutine false with i := [3, 0], d := [5, -1] } {}) with
    | .next t => (pme t).run.any (fun r => r.i == [1, 1] && r.uaddr == 1)
    | _ => false) = true := by decide +kernel

/-- An MSQL with its second entry to read, an uploaded image's header, and what each engine step needs. -/
theorem test_meets_MatrixEngineSteps :
    canStart { mat0 [] { calls := [aCall (.call 255)], dir := [(255, aDir false)] } with now := 10000 } = true
    ∧ callRanges (mat0 [] { calls := [aCall (.call 255)], dir := [(255, aDir false)] }) (aCall (.call 255)) = []
    ∧ (Map.find? (pme (mat0 [] { dir := [(255, aDir false)] })).dir 255) = some (aDir false)
    ∧ (∀ e, Map.find? (pme (mat0 [] { dir := [(255, { aDir false with valid := false })] })).dir 255 = some e → e.valid = false)
    ∧ (let m : Msql := { addr := 0, count := 2, read := 1, stg := [], issued := 0 }
       readDue { mat0 [] { msqls := [m] } with now := 10000 } m = true)
    ∧ spacePoison (mat0 [] {}) (.sp 0) 64 64 = none
    ∧ banksFull (setSpBank 3 { st := .full } (setSpBank 2 { st := .full } (core (mat0 [] {})))) 64 64 = true
    ∧ checkRegion (mat0 [] {}).regions 0 (.sp 0) .read 64 64 = .ok ()
    ∧ (let a : Acrel := { tile := 32, covers := 0, dueAt := 0, born := 0 }
       acrelDue (mat0 [] { acrels := [a] }) a = true)
    ∧ (let x : Sample := { kind := .mstat 31, reg := 0, covers := none, settle := 0, value := none, born := 0 }
       sampleDue (mat0 [] { samples := [x] }) x = true)
    ∧ (engCheck .mx .read (muplCode 0 0x800).1 (muplCode 0 0x800).2 (mat0 [] {})).toOption.isSome = true := by
  and_intros <;> first | decide +kernel | rfl

theorem test_enqueue_scale : (match exec .scaleEntryEnqueue (mat0 [] { msqls := [{ addr := 0, count := 1, read := 1, stg := [(7, 0)], issued := 0 }] }) with
    | .next t => (pme t).scales == [7]
    | _ => false) = true := by decide +kernel

/-! ### The copy channels -/

/-- A region of 64 KiB of HBM, HELD, open to every class of its context. -/
def hbmRegion : Region := { kind := .hbm, st := .held, size := 65536, pu := 5, phase := { mode := 0 } }

/-- Context 0 with handle 1 over that region, of `len` bytes. -/
def handleCtx (len : Nat) : Ctx :=
  { st := .active, alw := 1000000, htlen := 8
    handles := [(1, ⟨7 + (handleOf (2 ^ 18) hbmRegion).setWidth 64 * 65536, BitVec.ofNat 64 len, 0⟩)] }

/-- A core with the scratchpad banks of its first and last bytes FULL. -/
def awake (c : Core) : Core :=
  { c with sp := { c.sp with banks := [0, 1, 2, 3, 380, 381, 382, 383].map (fun b => (b, { st := .full })) } }

/-- The levels of a channel after ECLR: six of count 1. -/
def ones : List Level := List.replicate 6 {}

/-- Core 0 with its scratchpad and 64 KiB of HBM behind handle 1, its core changed by `f`. -/
def copying (f : Core → Core) : State :=
  { State.reset with cores := [(0, f (awake (aCore [(129, 1), (131, 0x17F000), (132, 4096)])))], ctxs := [(0, handleCtx 65536)]
                     regions := [(0, spRegion), (2 ^ 18, hbmRegion)] }

theorem ok_of_isSome {α : Type} {x : Except Exc α} (d : α) (h : x.toOption.isSome = true) : x = .ok (x.toOption.getD d) := by
  cases x with
  | error e => simp [Except.toOption] at h
  | ok a => rfl

/-- The global side of handle 1 at an offset. -/
def gSide (off : Nat) : Side := globalSide (myCtx (copying id)) 1 off

/-- R205, R211: a copy of the largest size between the last bytes of the handle and the last of scratchpad passes. -/
theorem test_meets_NestsStart_ld : egoPasses 0 1 (gSide 0xF000) (localSide 0x17F000) ones 4096 0 (copying id) := by
  refine ⟨by decide, by decide, rfl, rfl, copying id, _, _, _, rfl,
    ok_of_isSome (copying id) ?_, ok_of_isSome (copying id) ?_, rfl⟩ <;> decide +kernel

/-- The same bytes the other way. -/
theorem test_meets_NestsStart_st : egoPasses 0 1 (localSide 0x17F000) (gSide 0xF000) ones 4096 0 (copying id) := by
  refine ⟨by decide, by decide, rfl, rfl, _, _, _, _, ok_of_isSome (copying id) ?_, rfl, rfl,
    ok_of_isSome (copying id) ?_⟩ <;> decide +kernel

/-- One byte within scratchpad, from its first byte to its last. -/
theorem test_meets_NestsStart_ll : egoPasses 0 0 (localSide 0) (localSide 0x17FFFF) ones 1 0 (copying id) := by
  refine ⟨by decide, by decide, rfl, rfl, _, _, _, _, ok_of_isSome (copying id) ?_, ok_of_isSome (copying id) ?_, rfl, rfl⟩ <;>
    decide +kernel

/-- The overflow area: its offset is the least that the destination may have; a level of count 0 makes no copy. -/
theorem test_meets_NestsStart_sp :
    egoPasses 0 1 (localSide 0) (gSide 128) ones 64 128 (copying id)
    ∧ egoPasses 0 1 (localSide 0) (gSide 128) (⟨0, 0, 0⟩ :: ones.tail) 64 128 (copying id)
    ∧ nestCopies ones = 1 ∧ nestCopies (⟨0, 0, 0⟩ :: ones.tail) = 0 := by
  refine ⟨⟨by decide, by decide, rfl, rfl, _, _, _, _, ok_of_isSome (copying id) ?_, rfl, rfl, ok_of_isSome (copying id) ?_⟩,
    ⟨by decide, by decide, rfl, rfl, _, _, _, _, ok_of_isSome (copying id) ?_, rfl, rfl, ok_of_isSome (copying id) ?_⟩,
    by decide, by decide⟩ <;> decide +kernel

/-- R208, R211: operands of the copy slots, a level with strides at the ends of their range, a full and a free queue, sizes 0
and 4,097, and a handle without an entry. -/
theorem test_meets_NestsStart :
    predOn (core (copying id)) .c0 always = true ∧ rdX (core (copying id)) .c0 1 = .ok 1
    ∧ rdX (core (copying id)) .c0 3 = .ok 0x17F000 ∧ rdX (core (copying id)) .c0 4 = .ok 4096
    ∧ rdX (core (copying id)) .c0 (nextReg 1) = .ok 0 ∧ fld (0xFFFF : Word) 16 48 = 0
    ∧ (fld (0x7FFFFFFF : Word) 0 32).signExtend 64 = (0x7FFFFFFF : Word)
    ∧ (fld (0xFFFFFFFF80000000 : Word) 0 32).signExtend 64 = (0xFFFFFFFF80000000 : Word)
    ∧ (getChan (core (copying id)) 0).q.length < 4 ∧ levelsOf (getChan (core (copying id)) 0) = ones
    ∧ handleEnt (myCtx (copying id)) 2 = none ∧ handleEnt (myCtx (copying id)) 0 = none ∧ 4096 < (4097 : Word).toNat := by
  and_intros <;> first | decide +kernel | rfl

/-- A nest of one copy of 64 bytes between handle 1 and scratchpad. -/
def aNest (src dst : Side) : Entry :=
  { levels := ones, dir := .ld, src := src, dst := dst, size := 64, empty := false, guarded := false, monoS := true, monoD := true
    seq := 0, liens := [], hold := [], readG := [], fillG := [], srcDone := 0, fillDone := 0 }

/-- `copying` with channel 0 in a state with a queue. -/
def moving (st : ChanSt) (es : List Entry) : State := copying (fun c => { c with chans := [(0, { st := st, q := es, wmf := 64 })] })

/-- R216, R217, R219, R220, R222: each state of a channel, a masked channel that is not IDLE, a quiet core, and a mark that has been
reached and one that has not. -/
theorem test_meets_ChannelInstructions :
    0 ∈ maskChans .c0 1 ∧ (getChan (core (moving .active [])) 0).st = .active ∧ (getChan (core (moving .active [])) 1).st = .idle
    ∧ (∀ x ∈ (moving .suspended []).regions, x.2.st ≠ .overdue ∧ x.2.st ≠ .liened) ∧ (∀ k ∈ maskChans .c0 15, (getChan (core (copying id)) k).st = .idle)
    ∧ (∀ k ∈ maskChans .c0 1, (getChan (core (moving .suspended [])) k).st ≠ .idle)
    ∧ (0 : BitVec 4) ≠ 1 ∧ rdO (core (moving .active [])) .c0 (.lit 63) = .ok 63 ∧ rdX (core (copying id)) .c0 0 = .ok 0
    ∧ (0 + 63 : Word).toNat ≤ (getChan (core (moving .active [])) 0).wmf.toNat
    ∧ ¬((0 + 65 : Word).toNat ≤ (getChan (core (moving .active [])) 0).wmf.toNat)
    ∧ ((0 : BitVec 32) - (0 : Word).setWidth 32).toNat < 2 ^ 31 ∧ ¬((0 : BitVec 32) - (1 : Word).setWidth 32).toNat < 2 ^ 31
    ∧ (getChan (core (moving .suspended [])) 0).fault = none
    ∧ (getChan (core (moving .active [aNest (gSide 0) (localSide 0)])) 0).q = [aNest (gSide 0) (localSide 0)] := by
  and_intros <;> first | decide +kernel | rfl

/-- R212 to R216, R221: a granule that may be read, one that may be written to scratchpad and one to HBM, an empty nest, and a
granule whose source is poisoned. -/
theorem test_meets_CopyProgress :
    (let e := aNest (gSide 0xFFC0) (localSide 0x17FFC0)
     let s := moving .active [e]
     locate (getChan (core s) 0).q 0 0 = some (0, e, 0) ∧ (∀ x ∈ s.regions, x.2.st ≠ .overdue ∧ x.2.st ≠ .liened) ∧ mayRead (core s) 0 (getChan (core s) 0) 0 e 0 0 = true
     ∧ moveFault e s e.src .read (granSrc e 0 0).1 (granSrc e 0 0).2 = none
     ∧ readReady s e 0 0 = true ∧ entryCopies e = 1 ∧ copyGrans e 0 = 1
     ∧ firstUnread (getChan (core s) 0).q = some (0, e, 0, 0)
     ∧ (let s' := { s with dram := { s.dram with hbmPoison := [(1023, true)] } }
        moveFault e s' e.src .read (granSrc e 0 0).1 (granSrc e 0 0).2 = some (0x11, word (2 ^ 63 + 0xFFC0))))
    ∧ (∀ sides ∈ [(gSide 0xFFC0, localSide 0x17FFC0), (localSide 0x17FFC0, gSide 0xFFC0)],
      let e := { aNest sides.1 sides.2 with readG := [(0, 0, List.replicate 64 7)], srcDone := 1 }
      let s := moving .active [e]
      locate (getChan (core s) 0).q 0 0 = some (0, e, 0) ∧ mayFill (core s) 0 (getChan (core s) 0) 0 e 0 0 = true
      ∧ moveFault e s e.dst .write (granDst e 0 0).1 (granDst e 0 0).2 = none
      ∧ fillReady s e 0 0 = true)
    ∧ (let e := { aNest (gSide 0) (localSide 0) with empty := true }
       locate (getChan (core (moving .active [e])) 0).q 0 0 = some (0, e, 0)
       ∧ ∀ h ∈ e.hold, holdStands (core (moving .active [e])) h = false) := by
  and_intros <;> decide +kernel

theorem test_copy_fills : (match exec (.copyComplete 0 0 0 .fill)
    (moving .active [{ aNest (gSide 0) (localSide 0x17FFC0) with readG := [(0, 0, List.replicate 64 7)], srcDone := 1 }]) with
    | .next t => (spByte t 0x17FFFF, (getChan (core t) 0).ccf, (getChan (core t) 0).wmf, (getChan (core t) 0).q.length)
        == (7, 1, 0x180000, 0)
    | _ => false) = true := by decide +kernel

/-! ### The broadcast bus -/

/-- Core 0 and core 63 of one context, with a landing buffer in core 0 and a queue of bus 0. -/
def onBus (l : List LandEnt) (q : List Bcast) : State :=
  { copying (fun c => { c with land := l }) with
    cores := [(0, { aCore [(130, 65535), (132, 0xFFFFFFFFFFFFFFFF)] with land := l }), (63, aCore [])], buses := [(busKey 0 0, q)] }

/-- A block from core 0 for core 63. -/
def aBcast (n : Option Nat) : Bcast :=
  { core := 0, ctx := 0, label := 65535, recv := [63], data := List.replicate 256 9, issued := 0, lands := n }

/-- R224, R225: the last label, a mask of the last core, landing entries that are free, reserved and filled, and a block that waits,
flies and has arrived. -/
theorem test_meets_BroadcastBus :
    rdX (core (onBus [] [])) .c0 2 = .ok 65535 ∧ (65535 : Word).toNat < 2 ^ 16
    ∧ (checkLocal .sl .read 0x17FF00 256 64 (onBus [] [])).toOption.isSome = true
    ∧ checkPoison (core (onBus [] [])) 0x17FF00 256 = .ok () ∧ (0x8000000000000000 : Word) ≠ 0
    ∧ (∀ i < 64, (0x8000000000000000 : Word).getLsbD i = true → runsCtx (coreAt (onBus [] []) (64 * dieNo 0 + i)) 0 = true
      ∧ landFree (coreAt (onBus [] []) (64 * dieNo 0 + i)) 0 65535 = true)
    ∧ landed (core (onBus [⟨0, 65535, none⟩] [])) 0 65535 = none
    ∧ landed (core (onBus [⟨0, 65535, some [5]⟩] [])) 0 65535 = some [5]
    ∧ (checkLocal .sl .write 0x17FF00 256 64 (onBus [] [])).toOption.isSome = true
    ∧ Memory.wf (core (onBus [] [])).sp.mem = true
    ∧ busQ { onBus [] [aBcast none] with now := 1 } (busKey 0 0) = [aBcast none]
    ∧ busQ { onBus [] [aBcast (some 8)] with now := 8 } (busKey 0 0) = [aBcast (some 8)]
    ∧ landEnt (coreAt { onBus [] [] with cores := [(63, { aCore [] with land := [⟨0, 65535, none⟩] })] } 63) 0 65535
        = some ⟨0, 65535, none⟩ := by
  and_intros <;> first | decide +kernel | rfl

/-! ### The gather engine and the prefix index -/

/-- `copying` with registers of C0 as pairs of a file's number and value, a gather engine, and a page table at 0x4000 that maps
the 64 KiB page of virtual address 0x10000 to the first of HBM. -/
def gathering (xs : Map Word) (q : Gather) : State :=
  let m := Memory.writeLE (Memory.writeLE (Memory.writeLE (Memory.writeLE [] 0x4000 8 (0x8000 + 1)) 0x8000 8 (0xC000 + 1))
    0xC000 8 (0x20000 + 1)) 0x20008 8 15
  { copying id with
    cores := [(0, { awake (aCore xs) with gather := q })], ctxs := [(0, { handleCtx 65536 with root := 0x4000, tables := [1, 2, 3, 8] })]
    dram := { ({} : Dram) with hbm := m } }

/-- The registers of a gather of `n` elements of 64 bytes from 0x10000 by the list at 0 to the last bytes of scratchpad. -/
def gatherRegs (n : Word) : Map Word := [(129, 0x10000), (130, 64 + 64 * 2 ^ 16), (132, 0), (133, n), (134, 0x17FFC0)]

/-- R310, R311, R317, R320: registers of a gather of 1 and of 65,536 elements, of an append of the smallest vector, and of a prefix
operation at the last place; a queue with room and a full one; an element of 0 bytes. -/
theorem test_meets_GatherSlotResults :
    predOn (core (gathering (gatherRegs 1) {})) .c0 always = true ∧ rdX (core (gathering (gatherRegs 1) {})) .c0 1 = .ok 0x10000
    ∧ rdX (core (gathering (gatherRegs 1) {})) .c0 (1 + 1) = .ok (64 + 64 * 2 ^ 16)
    ∧ rdX (core (gathering (gatherRegs 65536) {})) .c0 4 = .ok 0 ∧ rdX (core (gathering (gatherRegs 65536) {})) .c0 (4 + 1) = .ok 65536
    ∧ rdX (core (gathering (gatherRegs 1) {})) .c0 6 = .ok 0x17FFC0 ∧ (core (gathering (gatherRegs 1) {})).gather.q.length < 8
    ∧ (fld (64 + 64 * 2 ^ 16 : Word) 0 13).toNat = 64 ∧ fld (64 + 64 * 2 ^ 16 : Word) 14 2 = 0
    ∧ fld (64 + 64 * 2 ^ 16 : Word) 48 16 = 0 ∧ (fld (64 * 2 ^ 16 : Word) 0 13).toNat = 0
    ∧ (gaIssue .read 0 (4 * 1) 4 (gathering [] {})).toOption.isSome = true
    ∧ (gaIssue .write 0x17FFC0 (1 * 64) 1 (gathering [] {})).toOption.isSome = true
    ∧ (gaIssue .read 0x17FFC0 (1 * 64) 1 (gathering [] {})).toOption.isSome = true
    ∧ (fld (2 * 2 ^ 32 : Word) 32 11).toNat = 2 ∧ fld (2 * 2 ^ 32 : Word) 44 20 = 0
    ∧ (checkLocal .ga .read 0 (8 * 2) 4 (gathering [] {})).toOption.isSome = true
    ∧ (checkLocal .ga .write 0x17FFB0 80 16 (gathering [] {})).toOption.isSome = true ∧ 0 ≤ myAlw (gathering [] {})
    ∧ 8 ≤ (core (gathering [] { q := List.replicate 8 { kind := .scat, slot := .c0, seq := 1 } })).gather.q.length
    ∧ ((0 : BitVec 32) - (1 : Word).setWidth 32).toNat ≥ 2 ^ 31 ∧ ((0 : BitVec 32) - (0 : Word).setWidth 32).toNat < 2 ^ 31
    ∧ (core (gathering [] {})).gather.gdone = (core (gathering [] {})).gather.giss
    ∧ (core (gathering [] { giss := 1 })).gather.gdone ≠ (core (gathering [] { giss := 1 })).gather.giss := by
  and_intros <;> first | decide +kernel | rfl

/-- A gather or scatter of one element of 64 bytes between virtual address 0x10000 and scratchpad, that has begun. -/
def aGather (k : GKind) : GOp :=
  { kind := k, slot := .c0, seq := 1, base := 0x10000, size := 64, stride := 64, list := 0, n := 1, loc := 0x17FFC0, started := true }

/-- R310: one core of the die alone has a gather queue. -/
theorem test_meets_GatherElements_alone : gathersAlone (gathering [] {}) ∧ (aGather .scat).rest = [] := by
  refine ⟨⟨by decide, fun i hi => (List.not_mem_nil hi).elim, fun g hg _ => ?_⟩, rfl⟩
  have h : ¬0 = g := fun h => hg h.symm
  simp [coreAt, gathering, copying, Map.get, Map.find?, h, Core.reset]

/-- R306, R310 to R313, R317: an operation that has not begun; a last element either way, whose page is mapped; an append of two
elements; a list entry in no region; an element that ends above 2^56. -/
theorem test_meets_GatherElements :
    (core (gathering [] { q := [aGather .scat] })).gather.q = [aGather .scat] ∧ (gathering [] {}).images = []
    ∧ ({ aGather .scat with started := false } : GOp).started = false ∧ (aGather .scat).n = (aGather .scat).prog + 1
    ∧ 0x10000 + 0 * 64 + 64 ≤ 2 ^ 56
    ∧ (gaLocal .read 0 4 (gathering [] {})).toOption.isSome = true ∧ banksFull (core (gathering [] {})) 0 4 = true
    ∧ banksFull (core (gathering [] {})) 0x17FFC0 64 = true
    ∧ ((gaGlobal .read (pieces 0x10000 64) (gathering [] {})).toOption.map (·.1)) = some [(.hbm, 0, 64)]
    ∧ ((gaGlobal .write (pieces 0x10000 64) (gathering [] {})).toOption.map (·.1)) = some [(.hbm, 0, 64)]
    ∧ (gaLocal .write 0x17FFC0 64 (gathering [] {})).toOption.isSome = true
    ∧ (gaLocal .read 0x17FFC0 64 (gathering [] {})).toOption.isSome = true
    ∧ (gaLocal .read 0 (8 * 2) (gathering [] {})).toOption.isSome = true ∧ banksFull (core (gathering [] {})) 0 (8 * 2) = true
    ∧ ((gaGlobal .write (pieces (0x10000 + 2048 * 15) 8) (gathering [] {})).toOption.map (·.1)) = some [(.hbm, 30720, 8)]
    ∧ ((gaGlobal .write (pieces (0x10000 + 2048 * 15 + 32768) 8) (gathering [] {})).toOption.map (·.1)) = some [(.hbm, 63488, 8)]
    ∧ 30720 + 8 ≤ 63488 ∧ (gaLocal .read 0 4 { gathering [] {} with regions := [] }).toOption.isSome = false
    ∧ 2 ^ 56 < (2 ^ 56 - 63) + 64 ∧ Memory.wf (gathering [] {}).dram.hbm = true
    ∧ leafMode (gathering [] {}) (myCtx (gathering [] {})) 0x10000 = some none
    ∧ (granulesOf 0 64).all (lineAgrees (gathering [] {}) (some none) .hbm) = true := by
  and_intros <;> decide +kernel

theorem test_scatter_stores_page_mode : (match exec .gatherOpComplete (gathering [] { q := [aGather .scat], giss := 1 }) with
    | .next t => t.dram.hbmKeys == [(0, none)] && !lineAgrees t (some (some 1)) .hbm 0
    | _ => false) = true := by decide +kernel

theorem test_gather_moves_a_page : (match exec .gatherOpComplete
    (let s := gathering [] { q := [aGather (.gath false)], giss := 1 }
     { s with dram := { s.dram with hbm := Memory.write s.dram.hbm 63 0xAB } }) with
    | .next t => (spByte t 0x17FFFF, (core t).gather.gdone, (core t).gather.q.length) == (0xAB, 1, 0)
    | _ => false) = true := by decide +kernel

/-- R310: of two queues of a die with work the engine serves the one behind that which it served last. -/
theorem test_queues_take_turns :
    (let s := gathering [] { q := [aGather .scat], giss := 1 }
     let two (l : Nat) : State := { s with cores := [(0, core s), (1, core s)], turns := [(0, l)] }
     (nextQueue (two 0) 0, nextQueue (two 1) 0, nextQueue (two 1) 64) == (some 1, some 0, none)) = true := by decide +kernel

/-- The prefix index with entries for the tag of 68 zero bytes, and a prefix operation at the last place of scratchpad. -/
def prefixing (k : GKind) (es : List PxEnt) : State :=
  let s := gathering [] { q := [{ kind := k, slot := .c0, seq := 1, loc := 0x17FFB0, started := true }], giss := 1 }
  { s with pxi := es, dev := { s.dev with st := .service, pxReady := true } }

/-- An entry of context `c` for the tag of 68 zero bytes. -/
def aPrefix (c : BitVec 12) : PxEnt := ⟨c, List.replicate 68 0, 5⟩

/-- R319, R320: an index that serves, and one that does not; a tag that is there and one that is not; a bucket with room and a full
one. -/
theorem test_meets_PrefixOperations :
    pxServes (prefixing .pxlook []) = true ∧ pxServes (gathering [] {}) = false
    ∧ (gaLocal .read 0x17FFB0 72 (prefixing .pxlook [])).toOption.isSome = true
    ∧ (gaLocal .write (0x17FFB0 + 72) 8 (prefixing .pxlook [])).toOption.isSome = true
    ∧ banksFull (core (prefixing .pxlook [])) 0x17FFB0 80 = true
    ∧ pxMatch (prefixing .pxdrop [aPrefix 0]) 0 (List.replicate 68 0) = some (aPrefix 0)
    ∧ pxMatch (prefixing .pxins [aPrefix 1]) 0 (List.replicate 68 0) = none ∧ (aPrefix 0).blk ≠ 0 ∧ (aPrefix 0).blk = 5
    ∧ ([aPrefix 1, aPrefix 2, aPrefix 3].filter (fun e => bucketOf e.tag == bucketOf (List.replicate 68 0))).length < 4
    ∧ 4 ≤ ([aPrefix 1, aPrefix 2, aPrefix 3, aPrefix 4].filter (fun e => bucketOf e.tag == bucketOf (List.replicate 68 0))).length := by
  and_intros <;> decide +kernel

/-! ### Kernels -/

/-- An image of one resident overlay of one word and a literal block of 64 bytes, with a carve-out of 4 KiB. -/
def anImage : Memory :=
  Memory.writeLE (Memory.writeLE (Memory.writeLE (Memory.writeLE (Memory.writeLE (Memory.writeLE (Memory.writeLE [] 0 8 (1 + 256))
    8 8 (1 + 64 * 2 ^ 32)) 16 8 0x80) 24 8 64) 64 8 (2 ^ 18 + 2 ^ 35)) 72 8 0x100) 80 8 0x140

/-- A READY kernel node on one core, with one parameter and the rank. -/
def aKernel : Node :=
  { st := .ready, kind := .kernel, desc := [1, 0, 2 ^ 32 + 2 ^ 52 + 2 ^ 55, 0x111, 42, 0, 0, 0] }

/-- A device with that node, the image behind handle 1, and core 0 IDLE beside an IS region of the context. -/
def launching (m : Memory) : State :=
  let r : Region := { kind := .is, st := .held, size := 64, pu := 9, phase := { mode := 0 } }
  { State.reset with
    cur := 256, cores := [(0, { st := .idle }), (256, aCore [])], ctxs := [(0, handleCtx 65536)]
    regions := [(1, r), (2 ^ 18, hbmRegion)], nodes := [(0, aKernel)]
    dram := { ({} : Dram) with hbm := m } }

/-- R283: the node is the one to place, on core 0; its image is read, or is not legal. -/
theorem test_meets_KernelPlacement :
    (walkReady (launching []) (readyNodes (launching []))).2 = some (0, aKernel) ∧ fit (launching []) [] 0 aKernel = some [0]
    ∧ readImage (launching []) (ctxAt (launching []) 0) aKernel.desc = none
    ∧ (walkReady (launching anImage) (readyNodes (launching anImage))).2 = some (0, aKernel)
    ∧ fit (launching anImage) [] 0 aKernel = some [0]
    ∧ (readImage (launching anImage) (ctxAt (launching anImage) 0) aKernel.desc).map (fun i => (i.litLen, i.carve))
        = some (64, 4096)
    ∧ quiet (launching []) ∧ Map.find? (launching []).nodes 0 = some aKernel ∧ aKernel.st ≠ .free
    ∧ (clusterAt (launching []) (clusterNo aKernel.home)).q = [] ∧ [0].Nodup ∧ Memory.wf (coreAt (launching anImage) 0).sp.mem = true
    ∧ (core (at_ 0 { aCore [] with st := .loading })).st = .loading ∧ (aCore []).restore = false := by
  and_intros <;> first | decide +kernel | rfl | (unfold quiet; decide +kernel)

/-- A launch region of scratchpad that is paid for, fits and finds an entry is rented, under a key that no region holds. -/
theorem rentLaunch_some {owner : BitVec 12} {g base size term : Nat} {s : State}
    (h1 : ¬(alwSeen s owner < ((size * RKind.sp.rate * term : Nat) : Int) ∨ rangeTaken s .sp g base size = true))
    (h2 : (freeEntryOf s .sp g).isSome = true) :
    ∃ key h s1, rentLaunch .sp owner g base size term s = some (h, s1) ∧ (∃ r, s1.regions = Map.put s.regions key r)
      ∧ entryFree s.regions key = true := by
  obtain ⟨key, hk⟩ := Option.isSome_iff_exists.mp h2
  have hr : ∀ n : Int, (addAlw owner n (draw s).2).regions = s.regions := by
    intro n; unfold addAlw; split <;> rfl
  unfold rentLaunch
  simp only [h1, if_false, hk]
  refine ⟨key, _, _, rfl, ?_, (pickFree_some hk).1⟩
  exact ⟨_, congrArg (Map.put · key _) (hr _)⟩

/-- The one overlay of that image. -/
def theOverlay : Overlay :=
  { ibase := 0, nw := 1, res := true, rtag := 0, words := ⟨[(0x100, 4), (0x140, 1)], some [(0, false)]⟩ }

/-- What that image says. -/
def theImage : KImage :=
  { entry := 0, carve := 4096, litLen := 64, lit := ⟨[(0x80, 64)], some (List.replicate 64 0)⟩, routs := [], ovls := [theOverlay]
    src := [(0, 64), (64, 32), (0, 0)] }

/-- `launching` with that image, its header and records read. -/
def reading : State := noteSrc theImage.src (launching anImage)

/-- The steps of R283 on core 0 all succeed for that image. -/
theorem test_meets_KernelPlacement_loads :
    readImage (launching anImage) (ctxAt (launching anImage) 0) aKernel.desc = some theImage
    ∧ ∃ hs pm s1, loadCores aKernel theImage [0] [] (noteSrc theImage.src (launching anImage)) = (0, hs, pm, s1) := by
  refine ⟨by decide +kernel, ?_⟩
  obtain ⟨key, h, s1, hl, ⟨r, hr⟩, hf⟩ := rentLaunch_some (owner := 0) (g := 0) (base := litBase theImage) (size := 4160) (term := 1)
    (s := reading) (by decide +kernel) (pickFree_isSome (by decide +kernel))
  have hsp : launchSpans theImage = [(.sp, litBase theImage, 4160)] := by decide +kernel
  have hkey : key ≠ 1 := by rintro rfl; revert hf; decide +kernel
  have hreg : reading.regions = (launching []).regions := by decide +kernel
  have hheld : residentHeld s1 0 0 theOverlay = true := by
    unfold residentHeld
    rw [hr, hreg, List.any_eq_true]
    have hm : ((1, { kind := .is, st := .held, size := 64, pu := 9, phase := { mode := 0 } }) : Nat × Region)
        ∈ Map.put (launching []).regions key r := by
      show _ ∈ Map.put [(1, _), (2 ^ 18, hbmRegion)] key r
      unfold Map.put
      split
      · omega
      · split
        · simp
        · simp
    exact ⟨_, hm, by decide⟩
  have hload : ∃ s2, loadCore aKernel theImage 0 reading = (0, [h], {}, s2) := by
    have hra : rentAll 0 0 1 [(.sp, litBase theImage, 4160)] [] reading = (true, [h], s1) := by
      simp only [rentAll, hl]; rfl
    have hres : ((theImage.ovls.filter (·.res)).all (residentHeld s1 0 0)) = true := by
      show (residentHeld s1 0 0 _ && true) = true
      rw [hheld]; rfl
    have hov : ∃ s2, loadOverlays 0 0 theImage.ovls s1 = some s2 := by
      show ∃ s2, (loadOverlay 0 0 theOverlay s1).bind some = some s2
      unfold loadOverlay
      split
      · exact ⟨_, rfl⟩
      · exact ⟨_, rfl⟩
    obtain ⟨s2, hs2⟩ := hov
    unfold loadCore
    rw [show aKernel.owner = 0 from rfl, show descTerm aKernel.desc = 1 by decide, hsp, hra]
    simp only [hres, hs2, show theImage.routs = [] from rfl, loadRoutines]
    exact ⟨_, rfl⟩
  obtain ⟨s2, h2⟩ := hload
  refine ⟨[h], {}, s2, ?_⟩
  show loadCores aKernel theImage [0] [] reading = _
  simp [loadCores, h2]

/-- Two READY copy nodes over handle 1, created by core 0. -/
def dispatching (n1 n2 : Node → Node) : State :=
  let n : Node := { st := .ready, kind := .copy, desc := [1, 0, 1, 4096, 64, 0, 0, 0] }
  { State.reset with cores := [(0, aCore [])], ctxs := [(0, handleCtx 65536)], regions := [(2 ^ 18, hbmRegion)]
                     nodes := [(0, n1 n), (1, n2 n)] }

/-- R276, R278: copy nodes whose handles pass; a kernel that finds no core; a node READY for 2^16 ticks. -/
theorem test_meets_DispatchOrder :
    (∀ x ∈ (dispatching id id).nodes, ownerReady (dispatching id id) x.2 = true ∧ copyHandlesOk (dispatching id id) x.2 = true)
    ∧ (5 : BitVec 8) < 6 ∧ fit { launching [] with cores := [] } [] 0 aKernel = none ∧ aKernel.kind = .kernel ∧ aKernel.st = .ready
    ∧ nodeOf (launching []) (nodeId 0 aKernel) = some (0, aKernel) ∧ aKernel.starved = false
    ∧ aKernel.ready + 2 ^ 16 * 4096 ≤ 2 ^ 28 ∧ (clusterAt (launching []) 0).q = [] := by
  and_intros <;> decide +kernel

/-- R275, R286, R288: a core at END with nothing to wait for, alone and with another core of its kernel; a copy node that runs and
meets no fault, and one whose region has lapsed. -/
theorem test_meets_NodesEnd :
    retireReady (at_ 0 { aCore [] with inEnd := true }) = true
    ∧ nodeOf { at_ 0 { aCore [] with inEnd := true } with nodes := [(0, { aKernel with st := .running, left := [0] })] } 0
        = some (0, { aKernel with st := .running, left := [0] })
    ∧ ([0].filter (· != 0)) = ([] : List Nat) ∧ ([0, 1].filter (· != 0)) = [1]
    ∧ (let s := dispatching (fun n => { n with st := .running }) id
       nodeOf s 0 = some (0, { st := .running, kind := .copy, desc := [1, 0, 1, 4096, 64, 0, 0, 0] })
       ∧ copyNodeBad s { st := .running, kind := .copy, desc := [1, 0, 1, 4096, 64, 0, 0, 0] } = false
       ∧ (copySides s { st := .running, kind := .copy, desc := [1, 0, 1, 4096, 64, 0, 0, 0] }).1.kind = 0
       ∧ (copySides s { st := .running, kind := .copy, desc := [1, 0, 1, 4096, 64, 0, 0, 0] }).2.1.kind = 0
       ∧ copyNodeBad { s with regions := [(2 ^ 18, { hbmRegion with st := .lapsed })] }
          { st := .running, kind := .copy, desc := [1, 0, 1, 4096, 64, 0, 0, 0] } = true) := by
  and_intros <;> decide +kernel

theorem test_copy_node_moves : (match exec (.copyNodeComplete 0)
    (let s := dispatching (fun n => { n with st := .running }) id
     { s with dram := { s.dram with hbm := [(63, 0xCD)] } }) with
    | .next t => (Memory.read t.dram.hbm 4159, (Map.get t.nodes 0 {}).st) == (0xCD, NSt.free)
    | _ => false) = true := by decide +kernel

/-! ### Memory, power, mirrors, peers, Holly and the host -/

/-- A device in service whose stack `k` is as given, over contexts and regions. -/
def stacked (k : Nat) (y : Stack) (cs : Map Ctx) (rs : Map Region) : State :=
  { on0 [] with ctxs := cs, regions := rs, dram := { ({} : Dram) with stks := [(k, y)], epoch := some 0, slot := 5, begun := true }
                dev := { ({} : Dev) with st := .service }, link := { ({} : Link) with ports := 128, session := true } }

/-- R325 to R328, R330 to R335: RFWAIT at SLOT and at the end of its reach; a slot that begins; the last stack in and out of hot mode
under a share of 256; shares that just sum to 256 and beyond; dies 0 and 15; a latency record; a line's cluster; a region of the
capacity tier on the last link. -/
theorem test_meets_MemoryMaintenance :
    rdO (core (stacked 7 {} [] [])) .s (.lit 5) = .ok 5 ∧ (5 : Word).toNat ≤ (stacked 7 {} [] []).dram.slot
    ∧ 5 < (5 + 2 ^ 24 : Word).toNat ∧ (5 + 2 ^ 24 : Word).toNat ≤ 5 + 2 ^ 24 ∧ 5 + 2 ^ 24 < (6 + 2 ^ 24 : Word).toNat
    ∧ (stacked 7 {} [] []).dram.epoch = some 0 ∧ (stacked 7 {} [] []).dram.begun = true ∧ 0 + 366 * (5 + 1) ≤ 2196
    ∧ State.reset.dram.begun = false ∧ 0 + 366 * 0 ≤ 0
    ∧ Map.rising (stackAt (stacked 7 { owed := [(63, [1, 2])] } [] []) 7).owed = true
    ∧ (let x : Ctx := { st := .active, shares := [(7, 256)] }
       (stacked 7 {} [(4095, x)] []).ctxs = [(4095, x)] ∧ 0 < shareOf x 7 ∧ shareOf x 7 ≤ 256)
    ∧ (stackAt (stacked 7 {} [] []) 7).hotNext = false ∧ (stackAt (stacked 7 { hotNext := true } [] []) 7).hotNext = true
    ∧ (clusterAt (stacked 7 {} [] []) (8 * (7 / 2))).q = [] ∧ adminOpen (stacked 7 {} [] []) = true
    ∧ (let s := stacked 7 {} [(0, { st := .active }), (1, { st := .active, shares := [(7, 200)] })] []
       otherShares s 0 7 + (56 : BitVec 9).toNat ≤ 256 ∧ 256 < otherShares s 0 7 + (57 : BitVec 9).toNat)
    ∧ (stackAt (stacked 7 {} [] []) 7).mapping = none ∧ (stackAt (stacked 7 {} [] []) 7).dies.getLsbD 15 = true
    ∧ (stackAt (stacked 7 { mapping := some 0 } [] []) 7).mapping = some 0 ∧ Map.rising (stacked 7 {} [] []).dram.lat = true
    ∧ (∀ pa : BitVec 56, (clusterAt (stacked 7 {} [] []) (8 * ((Config.lineStack (64 * (pa.toNat / 64))).toNat / 2))).q = [])
    ∧ (let r : Region := { kind := .cap, st := .held, size := 64, pu := 9, links := [15] }
       (stacked 7 {} [(0, { st := .active })] [(2 ^ 18, r)]).regions = [(2 ^ 18, r)] ∧ r.links.contains 15 = true ∧ r.subl = none ∧ r.term = none
       ∧ (stacked 7 {} [] []).dram.linkDown.getLsbD 15 = false ∧ (stacked 7 {} [] []).barriers = []
       ∧ (ctxAt (stacked 7 {} [(0, { st := .active })] []) r.owner).st ≠ .free) := by
  and_intros <;> first | exact fun _ => rfl | decide +kernel | rfl

/-- R328: an odd slot out of hot mode leaves the debt; R330: the mode changes at the slot boundary. -/
theorem test_slot_begins : (match exec (.refreshSlot []) { stacked 7 { hotNext := true, owed := [(63, [1, 2])] } [] [] with now := 2196 } with
    | .next t => (t.dram.slot, (stackAt t 7).hot, (stackAt t 0).hot) == (6, true, false)
    | _ => false) = true := by decide +kernel

/-- Cores 0 and 255 of context 0, whose demand is `d`, under a budget of 11 units. -/
def budgeted (d : Nat) : State :=
  { on0 [] with
    cores := [(0, aCore []), (255, aCore [])], ctxs := [(0, { st := .active, demand := d })], regions := []
    dev := { ({} : Dev) with st := .service, budget := 11, floors := [64, 64, 64, 64] }, link := { ({} : Link) with ports := 128, session := true } }

/-- R350: floors that sum to 256 and to 257; cores 0 and 255 of one context, with a demand that half of the budget covers, and one
that it does not; a device with a session and one without. -/
theorem test_meets_EnergyGrants :
    adminOpen (budgeted 5) = true ∧ adminOpen (on0 []) = false ∧ ([64, 64, 64, 64] : List Nat).length = 4
    ∧ ([64, 64, 64, 64] : List Nat).foldl (· + ·) 0 ≤ 256 ∧ 256 < ([64, 64, 64, 65] : List Nat).foldl (· + ·) 0
    ∧ (budgeted 5).regions = [] ∧ (budgeted 5).images = [] ∧ (budgeted 5).pxi = []
    ∧ (∀ x ∈ (budgeted 5).ctxs, x.2.tables = [] ∧ x.2.debt = 0) ∧ (budgeted 5).cores = [(0, aCore []), (255, aCore [])]
    ∧ holding (aCore []) = true ∧ (ctxAt (budgeted 5) (aCore []).ctx).st ≠ .free ∧ (ctxAt (budgeted 5) (aCore []).ctx).demand = 5
    ∧ 5 ≤ min (2 * 5) 11 / 2 ∧ ¬ 6 ≤ min (2 * 6) 11 / 2 := by
  and_intros <;> decide +kernel

theorem test_budget_splits : (match exec .tickBoundary (budgeted 6) with
    | .next t => ((coreAt t 0).csr.grant, (coreAt t 255).csr.grant) == (6, 5)
    | _ => false) = true := by decide +kernel

theorem ok_of_toOption {ε α : Type} {x : Except ε α} {a : α} (h : x.toOption = some a) : x = .ok a := by
  cases x with
  | error e => cases h
  | ok b => exact congrArg _ (Option.some.inj h)

/-- Core 0 of a context with mirror peer 255, in a device in service with a session, and that peer as given. -/
def peering (y : Peer) (f : Core → Core) : State :=
  { copying f with ctxs := [(0, { handleCtx 65536 with mirror := some 255 })], dev := { ({} : Dev) with st := .service }
                   link := { ({} : Link) with ports := 128, session := true, peers := [(254, { st := .up }), (255, y)] } }

/-- R206, R336 to R344: a mirror peer and none; granules to send, and to be acknowledged; the last peer in every state and at the
ends of its times; an export of the HBM region, and none. -/
theorem test_meets_MirrorsAndPeers :
    (myCtx (copying id)).mirror = none ∧ (myCtx (peering {} id)).mirror = some 255
    ∧ rdO (core (copying id)) .c0 (.lit 1) = .ok 1 ∧ (handleEnt (myCtx (copying id)) 1).isSome = true
    ∧ handleEnt (myCtx (copying id)) 8 = none ∧ (ctxAt (peering {} id) 0).mirOff = false
    ∧ (core (peering { st := .up } (fun c => { c with mirrorQ := [(0, 0, List.replicate 64 1)], mseq := 1 }))).mirrorQ
        = [(0, 0, List.replicate 64 1)]
    ∧ (core (peering { st := .up } (fun c => { c with unacked := [0] }))).unacked = [0]
    ∧ (core (peering { st := .up } id)).unacked = [] ∧ linkOpen (peering {} id) = true ∧ linkOpen (copying id) = false
    ∧ (peering {} id).images = [] ∧ adminOpen (peering {} id) = true ∧ (peerAt (peering {} id) 255).st = .down
    ∧ (∀ st ∈ [PeerSt.joining, .up, .suspect, .lost, .redirected], (peerAt (peering { st := st } id) 255).st = st)
    ∧ exportable (peering {} id) (handleOf (2 ^ 18) hbmRegion) = true ∧ 0 + 30000000 ≤ 30000000 ∧ 599999 < 0 + 600000
    ∧ (peerAt (peering {} id) 254).st = .up ∧ (254 : BitVec 8) ≠ 255 ∧ 63 % 64 + 1 ≤ 64
    ∧ (peerAt (peering { st := .suspect, copy := [(0, [])] } id) 255).copy ≠ []
    ∧ Map.find? (peering {} id).link.peers 254 = some { st := .up } ∧ Memory.wf (peering {} id).dram.hbm = true := by
  and_intros <;> first | decide +kernel | rfl

/-- R340: accesses of an UP peer that pass, up to the last byte, and that do not, and a copy that this device has promoted. -/
theorem test_meets_MirrorsAndPeers_accesses :
    let y : Peer := { st := .up, xport := [handleOf (2 ^ 18) hbmRegion] }
    let s := { peering y id with regions := [(2 ^ 18, { hbmRegion with phase := { mode := 2, hk := 2, holder := 255 } })] }
    let s1 := setPeer 255 { y with st := .up, seen := s.now } s
    exportCheck s1 255 .read 1 65535 = .ok (.hbm, 65535) ∧ exportCheck s1 255 .write 1 65535 = .ok (.hbm, 65535)
    ∧ exportCheck s1 255 .read 1 65536 = .error 0x21
    ∧ (let z : Peer := { st := .lost, promoted := true, copy := [(1023, List.replicate 64 9)] }
       let s' := { s with link := { s.link with peers := [(254, z), (255, y)] } }
       (peerAt s' 254).promoted = true ∧ Map.find? (peerAt s' 254).copy (65535 / 64) = some (List.replicate 64 9)
       ∧ (peerAt s 254).promoted = false) := by
  refine ⟨ok_of_toOption (by decide +kernel), ok_of_toOption (by decide +kernel), rfl, ?_⟩
  decide +kernel

/-- `gathering` in service with a session, the last three of its tables rented, and a table of a leaf that nothing backs. -/
def mapping : State :=
  let s := gathering [] {}
  { s with
    dev := { ({} : Dev) with st := .service }, link := { ({} : Link) with ports := 128, session := true }
    ctxs := [(0, { handleCtx 65536 with root := 0x4000, tables := [1, 3, 8, 9] })]
    dram := { s.dram with hbm := Memory.writeLE s.dram.hbm 0x24000 8 0x1020F } }

/-- R304, R305, R307 to R309: an entry at the last place of its word that maps the region again, encrypted; one that leads to a leaf
without backing, and leaves without backing or stored plain; a block that is taken. -/
theorem test_meets_HollyRequests_pages :
    (0x20010 : BitVec 56).toNat % 8 = 0 ∧ Memory.wf mapping.dram.hbm = true
    ∧ (∀ x ∈ mapping.regions, sharedRegion mapping x.1 = false)
    ∧ leafBacked mapping 0 (4, 0x20F) = true ∧ leafBacked mapping 0 (4, 0x1020F) = false ∧ fld (0xF : Word) 6 2 ≠ 2
    ∧ (0xF : Word).getLsbD 9 = false ∧ ((0xF : Word).getLsbD 0 && (0xF : Word).getLsbD 1) = true
    ∧ rentTable 0 (0x0 / 2 ^ 14) mapping = none
    ∧ (let fresh (pa e : Nat) := (leavesOf (writeHbm pa (leBytes 8 e) mapping) (ctxAt mapping 0)).filter
         (fun l => !(leavesOf mapping (ctxAt mapping 0)).contains l)
       (rentTable 0 (0x20010 / 2 ^ 14) mapping).bind (rentPointed 0 0x20F) = some mapping
       ∧ fresh 0x20010 0x20F ≠ [] ∧ (∀ l ∈ fresh 0x20010 0x20F, leafBacked mapping 0 l = true)
       ∧ (rentTable 0 (0xC008 / 2 ^ 14) mapping).bind (rentPointed 0 0x24001) = some mapping
       ∧ ∃ l ∈ fresh 0xC008 0x24001, leafBacked mapping 0 l = false) := by
  and_intros <;> decide +kernel

/-- R204, R247, R273, R289: the device with a session and without; a legal entry at the last handle and one with V = 0, one over a
page table, and the type of the page that an entry maps; a region that holds a queue of 1,024 slots; a free domain. -/
theorem test_meets_HollyRequests :
    (adminOpen (gathering [] {}) = false ∧ adminOpen mapping = true ∧ (ctxAt mapping 0).st ≠ .free
     ∧ (7 : BitVec 16).toNat < (ctxAt mapping 0).htlen
     ∧ handleOk (7 + (handleOf (2 ^ 18) hbmRegion).setWidth 64 * 65536) 64 0 = true
     ∧ fld (7 + (handleOf (2 ^ 18) hbmRegion).setWidth 64 * 65536 : Word) 3 2 ≠ 3
     ∧ handleClear mapping (7 + (handleOf (2 ^ 18) hbmRegion).setWidth 64 * 65536) 64 0 = true
     ∧ handleClear mapping (7 + (handleOf (2 ^ 18) hbmRegion).setWidth 64 * 65536) 64 0xC000 = false
     ∧ pageType mapping (ctxAt mapping 0) 0 0 64 = some 0 ∧ (ctxAt (copying id) 0).root = 0
     ∧ Map.rising (ctxAt mapping 0).handles = true
     ∧ Map.find? mapping.queues 65535 = none ∧ (10 : BitVec 5).toNat ≤ 16
     ∧ regionOf mapping.regions (handleOf (2 ^ 18) hbmRegion) = some (2 ^ 18, hbmRegion) ∧ 64 * 2 ^ 10 ≤ hbmRegion.size)
    ∧ ∀ n : Nat, (freshDomain { gathering [] {} with ctr := n }).1 ≠ 0 := by
  refine ⟨by and_intros <;> decide +kernel, fun n => ?_⟩
  obtain ⟨k, hk⟩ := Option.isSome_iff_exists.mp (pickFree_isSome (s := { gathering [] {} with ctr := n })
    (free := fun k => k ≠ 0 && (Map.find? (gathering [] {}).groups k).isNone) (base := 0) (n := 65536) (by decide))
  have hp := pickFree_some hk
  have he : (freshDomain { gathering [] {} with ctr := n }).1 = BitVec.ofNat 16 k := by
    unfold freshDomain
    rw [show pickFree _ _ 0 65536 = some k from hk]
  rw [he]
  intro h0
  have := congrArg BitVec.toNat h0
  simp at this hp
  omega

/-- A device in service that answers on the last port, with inbound queue 65,535 of two slots. -/
def hosting (st : DevSt) (tail : BitVec 32) : State :=
  { queueing 0 0 with
    dev := { ({} : Dev) with st := st }, link := { ({} : Link) with ports := 128, session := true }
    queues := [(65535, { owner := 0, dir := 0, region := handleOf (2 ^ 18) { kind := .hbm, st := .held, size := 128, pu := 5 }
                         slots := 2, tail := tail })] }

/-- R336 to R338, R352, R357: a device that answers; an absent queue, one with room and a full one; requests with and without a
session, refused and carried out; the first type that is not assigned; a sample that is due. -/
theorem test_meets_HostMessages :
    answering (hosting .service 0) = true ∧ (hosting .service 0).dev.st ≠ .safe ∧ Map.find? (hosting .service 0).queues 1 = none
    ∧ (Map.find? (hosting .service 1).queues 65535).map (fun q => (q.dir, q.owner)) = some (0, 0)
    ∧ (Map.find? (hosting .service 1).queues 65535).map (queueBase (hosting .service 1)) = some (some 0)
    ∧ (Map.find? (hosting .service 1).queues 65535).map queueCount = some 1
    ∧ (Map.find? (hosting .service 2).queues 65535).map queueCount = some 2 ∧ (List.replicate 64 (5 : Byte)).length = 64
    ∧ adminOpen (hosting .service 0) = true ∧ carryOut (.mirror 9 0) (hosting .service 0) = none
    ∧ (0x00 : BitVec 8).toNat ∉ [0x01, 0x02, 0x10, 0x11, 0x12, 0x20] ∧ (2 : BitVec 8) ≠ 1
    ∧ [0xE4, 0xE5, 0xEC, 0xE1].map (fun c => spdmCode [0x12, c]) = [0xE4, 0xE5, 0xEC, 0xE1] ∧ (ctxAt (hosting .service 0) 0).mirror = none
    ∧ (let s := { hosting .service 0 with tick := 1, link := { ({} : Link) with resync := [(7, 0)] } }
       s.link.resync = [(7, 0)] ∧ 0 < s.tick) := by
  and_intros <;> decide +kernel

/-- R338: a device that serves without and with a session, one in SAFE, and a request that can be carried out. -/
theorem test_meets_AdminNeedsASession :
    answering (hosting .service 0) = true ∧ answering (hosting .safe 0) = true ∧ (hosting .service 0).dev.st ≠ .safe
    ∧ (let s := { hosting .service 0 with link := { ({} : Link) with ports := 1 } }
       answering s = true ∧ s.link.session = false)
    ∧ adminOpen (hosting .service 0) = true ∧ (carryOut (.mirror 0 255) (hosting .service 0)).isSome = true := by
  and_intros <;> decide +kernel

theorem test_qmsg_enters : (match exec (.mbaupQmsg 0 65535 9 (List.replicate 64 5)) (hosting .service 1) with
    | .next t => (Memory.read t.dram.hbm 127, t.link.out.length) == (5, 0)
    | _ => false) = true := by decide +kernel

/-- A device in a state of bring-up. -/
def booting (st : DevSt) (passed : List (PartKind × Nat)) (rs : List Nat) : State :=
  { at_ 256 (aCore []) with dev := { ({} : Dev) with st := st, passed := passed, restarts := rs } }

/-- SHA-384 of "abc" (FIPS 180-4), the first test of RFC 8032 for Ed25519, and an entry of the S-box (FIPS 197). -/
theorem test_sha384_abc : (sha384 [0x61, 0x62, 0x63]).take 8 = beBytes 8 0xCB00753F45A35E8B := by decide +kernel

theorem test_ed25519_first_vector :
    ed25519Ok (beBytes 32 0xd75a980182b10ab7d54bfed3c964073a0ee172f3daa62325af021a68f707511a)
      (beBytes 64 (0xe5564300c360ac729086e2cc806e828a84877f1eb8e5d974d873e06522490155 * 2 ^ 256
        + 0x5fb8821590a33bacc61e39701cf9b46bd25bf5f0595bbe24655141438e7a100b)) [] = true := by decide +kernel

theorem test_aes_box : aesBox aesSubs 0x53 = 0xED := by decide +kernel

/-- A Bramble image of version 1 with an empty body: its Ed25519 and ML-DSA-65 keys and signatures over header bytes 0 to 63. -/
def anEdKey : List Byte := beBytes 32 0xd75a980182b10ab7d54bfed3c964073a0ee172f3daa62325af021a68f707511a
@[inherit_doc anEdKey] def anEdSig : List Byte := beBytes 64 0xc27bc8a0a4635064adf676058ac2d241c5bc91f8c43c79ba02050fe6356daa1bd5e3995423d8035d622aa1843c75eb18efaecaa62643483ee9d082bb46210006
@[inherit_doc anEdKey] def anMlKey : List Byte :=
  beBytes 64 0x48683d91978e31eb3dddb8b0473482d2b88a5f625949fd8f58a561e696bd4c27d05b38dbb2edf01e664efd81be1ea893688ce68aa2d51c5958f8bbc6eb4e89ee
    ++ beBytes 64 0x67d2c0320954d57212cac7229ff1d6eaf03928bd51511f8d88d847736c7de2730d5978e5410713160978867711bf5539a0bfc4c350c2be572baf0ee2e2fb16cc
    ++ beBytes 64 0xfea08028d99ac49aebb75937ddce111cdab62fff3cea8ba2233d1e56fbc5c5a1e726de63fadd2af016b119177fa3d971a2d9277173fce55b67745af0b7c21d59
    ++ beBytes 64 0x7dbeb93e6a32f341c49a5a8be9e825088d1f2aa45155d6c8ae15367e4eb003b8fdf7851071949739f9fff09023eaf45104d2a84a45906eed4671a44dc28d2798
    ++ beBytes 64 0x7bb55df69e9e8561f61a80a72699503865fed9b7ee72a8e17a19c408144f4b29afef7031c3a6d8571610b42c9f421245a88f197e16812b031159b65b9687e5b3
    ++ beBytes 64 0xe934c5225ae98a79ba73d2b399d73510effad19e53b8450f0ba8fce1012fd98d260a74aaaa13fae249a006b1c34f5ba0b882f26378222fb36f2283c243f0ffeb
    ++ beBytes 64 0x5f1bb414a0a70d55e3d40a56b6cbc88ae1f03b7b2882d98deea28e145c9dedfd8eaf1cef2ed94a8b050f8964f46d1ea0d0c2a43e0dda6182adbf4f6ed175b674
    ++ beBytes 64 0x2257859bf22f3a417ecf1f9d89317b5e539d587af16b9e1313e04514ffa64ba8b3ff2b8321f8811cb3fb022c8f644e70a4b80a2fbfee604abb7379091ea8e6c5
    ++ beBytes 64 0xc74dfc0283666b40c0793870028204a136bf5da9568eb798d349038bdb0c11e03445e7847cb5069c75cf28ac601c7799d958210ddbcb226e51afef9f1de47b07
    ++ beBytes 64 0x3873d6d3f97456bede085082e74a298b2cd48f4b3093155f366c8fa601c6af858dfa32c08491b2a29887f90335949a5d6edaa679882a3a95d6bf6d970a221f4b
    ++ beBytes 64 0x9d3d8cbf384af81aac95e2b3294e04789ac83727a5dc04559f96af41d8a053516feeeebc52746eb6ab2819e09108710d835f011fa63065872ad334d5cdffb2b2
    ++ beBytes 64 0x310507e92fc993ae317da97f4f309cdaf0f67ed99d90215576083849f953b246d7fedb3fdb67679850a5ad404e64147fb7cf4f6aeddd05afb4b834968d1fe880
    ++ beBytes 64 0x14960dce5d942236526e12a478d69e5fbe6970310b308c06845018cfc7b2ab430a13a6b1ac7bb02cccbb3d911ac2f11068613fbe029bfdce02cf5cd38950ed72
    ++ beBytes 64 0xc83944edfbc75615af87f864c051f3c55456c5412863a40c06d1dab562bdff0571b8d3c3917bbd300880bba5e998239b95fa91b7d6416d4f398b3adbcd30983e
    ++ beBytes 64 0xd3592b4d9ef7d4236fd00f50d98aa53a235ac4172720f77d96172672980cfe8ff7a5a702783edc2ba31b2259015a112fc7f468a9c2f9464039002d30ef678b4c
    ++ beBytes 64 0xb798bc116216bf7a9a7c18ba03b7b58fd07515d3115049d3614be7a07e744300750df1d2c58753389059eafc3d785ccdd31c07648bedc03a5c3b8ad46d064d59
    ++ beBytes 64 0xc13d57374729fc4e295362e2a5191204530428bc1522afa28ff5fe1655e304ca5bc8c27ad0e0c6a39dd4df28956c14b38cc93682cefe402bbd5e82d29c464e44
    ++ beBytes 64 0xeb5d37b48fc568dfe0cc6e8e16baea05e5135590f19294e73e8367b0216dbb815030b9de55913f08039c42351c59e5515dd5af8e089a15e625e8f6dee639386c
    ++ beBytes 64 0x46497d7a263288774de581a7de9629b41b4424141f978fb8331208efdec3c6e0de39bc57063f3dcd6c470373c08891ea29cbc7cc6d6483b8889083ace86aa7b5
    ++ beBytes 64 0x1b1c2cfe6e2ad18d97ce36fbc56ea42fae97e6a7ac114864478c366df1ebb1e7b11a9098504fd5975bdf1f49dc70002b63c1739a9d263fbad4073f6a9f6c2b8a
    ++ beBytes 64 0xf4b4c332a103a0cffa5deeb2d062ca3c215fd360026be7c5164f4a4424ef74948804d66f46487732c8202c795478647b4ea71d627c086024cca354a41f0877b3
    ++ beBytes 64 0x8f19b3774ad2095c8da53b069e21c76ae2d2007e16719ed40080d334f7da52e9f5a5990439caf083a95b833f02ad10a08c1a6d0f260c007285bd4a2f47703a5a
    ++ beBytes 64 0xef465287d253b18ac22514316210ff566814b10f87a293d6f199d3c3959990d0c1268b4f50d5f9fcefbbf237bd0c28b80182d6659741f14f10bfbb21bba12ab6
    ++ beBytes 64 0x20aa2396f56c0686b4ea9017990224216b2fe8ad76c4a9148eef9a86a3635a6aa77bc1dcfb6fba59a77dfda9b7530dc0ca8648c8d973738e01bab8f08b4905e8
    ++ beBytes 64 0x4aa4641bd602410cd97520265f2f231f2b35e15eb2fa04d2bd94d5a77abaf1e0e161010a990087f5b46ea988b2bc0512fda0fa923dadd6c45c5301d094836732
    ++ beBytes 64 0x65b5ab2e10f4ba520f6bbad564a5c3d5e27bdb080f7d20e13296a3181954c39c649c943ebe17df5c1f7aae0a8fe126c477585a5d4d648a0d008b6af5e8cd31be
    ++ beBytes 64 0x69a9296d4f3fd25ed86f221e4b93f65f5929967533624b9235750c30707550b58536d109a7131c5a5bbe4a5715567c12534aec7660761eebb9fae2891c774589
    ++ beBytes 64 0xb80e566ad557ddef7367196b7227ea9870ef09ddfec79d6b9319a6879b5205d76bf7aba5acf33afb59d17fc54e68383d6be5a08e9b66da53dcde008bb294b858
    ++ beBytes 64 0x2bd132cdcc49959fdbc21e52721880c8ad0352c79f03a43bbd84c4cdfdc6c529005e1e7cd9a349a7168a35569ba5dea818968d5a91466bd6e64e20bf62417198
    ++ beBytes 64 0xafc4e81c28dd77ed4028232398b52fbde86bc84f475b9016710ce2aabc11a06b4dbac901ec16cf365ca3f2d53813948a693a0f93e79c46ca5d5a6dca3d28ca50
    ++ beBytes 32 0xad18bd13fca55059dd9b185f79f9c47196a4e81b2104bc460a051e02f2e8444f
@[inherit_doc anEdKey] def anMlSig : List Byte :=
  beBytes 64 0x4f7b9d84c0c1f0f2ee63f3b9b91e396e9ffabe70c4b3ce26c9d30477a9673a6b133c4fb5e6116a6a1a24b6c683449dabdc443629a28eb653fd54c651fb798826
    ++ beBytes 64 0xfa3b504b2f60f73c8286a5b74f37beb0057653113ec11284371d9cab9175174ee14834f796fb00d7e393df3602552b242856934060ddf5eff2978de8a26c48c5
    ++ beBytes 64 0x045b8d89f2a7a1212253c4c3207a016dc834794350bb1b3b6541d90ac647367de2384d3ad2ee328d04f6c5d6fec441b3edbeab195c9a52660c5fe7d663904e99
    ++ beBytes 64 0x98628d971af87b8308b8e3538642d7044015684e623b7ea7b8845f2f051326b63ff375d35b32bf6cbc36340107fbe51a8c3847b868abfeb3de927bfaac375bb1
    ++ beBytes 64 0x9a0a2dc0fa269874ed1223e9279f83e76b5480b8ec625f1c040150fd0bbe51268cfed4d61c5469523c6f040a119eeb32873d7612b09b5c714b15cad8c7100181
    ++ beBytes 64 0xc99d9b00d5bf72f209c51fcee892c5573b277e7aa84acbbeaaf5bf215799af063c7c9fb242da3036f6225b27821b5552fadc5b5f71b7898f6907b3c651ac32fc
    ++ beBytes 64 0x934b655d8d20a0c9cc5f4afc8b552a6a917a687363622c4d9e2ea6468f887447a7ae112bd3ee9f8f78fe85d421a8954394b369032fec226bc45a12df88693799
    ++ beBytes 64 0x21aa3b87fc405e9500f7e8efdc58464f21b586af48cee06a6782d156887a6ca8b50389629a6d39c485cbb9156466b72df0e5d0cdd9f0e57b9bfaee4e4ee37916
    ++ beBytes 64 0x4b03959f97f223aa00d8cf7501715344afc279af8a9943907ec3b51525ed7d43904c1598282ab7b823c6155a55784fe673b992165e901bc8454656a37d9ad2cd
    ++ beBytes 64 0xdeb0a4e9748c2e2d200cb427f26e4e569446d53d2f5b44f3fb27196e88e79fc598d5490050dd02b054f310cb1b8cf6bbe09b02a34fd2e0dd8792e9da7bdb8db5
    ++ beBytes 64 0x04225c32e49d77159cbfb283e845cf8e55b3ebb1b2a4e5136afe979e164eb81bc24ab63e23deccb21459aa31b34839f23455191e4c9b2a5258a98e205c85c974
    ++ beBytes 64 0x6ca92942a59fe212bb4bacd32c516c316a7258322e14cf4d8f9f4fa0474f7c1fe8df0852dcdb90a15befa184c43e31c8b835b98c341624f1b13489463d2d2c4c
    ++ beBytes 64 0xae1a2ae5bc4d6df101ab400af02a1c6885307b02b50fb56fb601f7b0c8869fc0e95f197aa74da398ffa9d22e1f16788150486cee3d645e9ae416ef030cbcfc67
    ++ beBytes 64 0xad5fda9ee602dcce5611ff08b30de19ffdecf248125bc6c9088569807d3d46e8151088c4c49fe7851ea5367f065d402128b3fd28d447fc2568c2c19364baf80d
    ++ beBytes 64 0xa2d1bde230478ecb8c961573970fb4466bede956f1c1581d46fd05c637e43893b7c94d4cc135e74db064f1b66aa43854cd7e9150c33575f4b7821556d8d1dfee
    ++ beBytes 64 0x419e7952afdd96b1e99608d8b964f8eb7ea52f065fe67c5a332581353abd893416cec1e92b3bec16b07d09fb90d4bb32c876c62752420df7151cc95d4d128ab9
    ++ beBytes 64 0x07a3ea7962884f03571e822015597ba231ac0cc9d99095ae6a60277f918d9b062600d177e15d8500890091add746a047cc729574b7adb8b33f6990686b0f8325
    ++ beBytes 64 0xd1c8a556291b9e4d5c0d00e4e7beaa9fe300b2f7aae99529da961690677d4a57cb00605d18b88dcb8560fe02b5f62b8e35c8fe013982d925d2ee1b6eaffada0e
    ++ beBytes 64 0xfcf487e33de817f88b34af10486262e11d0fef90657e472b3ba9aa9ad28e8ec1d9453abbc7a2ee72d5c7016ba2b8e85bcbb000ccb0a91de407d9cfd4c438639e
    ++ beBytes 64 0xa028e3c9a6351f83c74945cc02bd4ecbef08ead31b2a785e9401731dfecabb4b0ccda8ed8fb3505bb66ff7de7bf0eca431e051f1dbeb392f61e1a4ab69a6108c
    ++ beBytes 64 0xd640a63c791944ba4309f61a4aa9109fd7cd84a3595be70647a92bde185da7244093c151c226004c2956c97e8a536c844e977e7d04521f74dbc5590ec3dadc5f
    ++ beBytes 64 0x40c7b799fdf77246b44bcbffb870d4b83f6c5b3b0c2d7af47ee14aab9acafe836a01f8066a1ea7875a2a3a0147be782dbd27565d53f29aad74ed30870467bb09
    ++ beBytes 64 0x61afb06facd15126cdffd90ba34dac1ff2dc796e637b4ef61909817ded9e1d8c6bd704304cc98560fcdfc356087fa2e253e6a14e631ade59f4dda67e5bfc0e55
    ++ beBytes 64 0xce14c13ccc952b4a06af7c18cae15adc734b69fbb653fa4b178c3bc951a4bfe5d19a0ac1c933c07cffbc8500a9d03d04ea9a959e43354278794c5b2e609c1c60
    ++ beBytes 64 0xe2bc5b04b5cc1b512e1271177043e377aad2358c432ae1493e9fd603db3e52d088d5fe6829ea15bf96735b99f31c4cd62dcb6573f409c5d15512c35568195b70
    ++ beBytes 64 0x22a00a6bfddf7f8090b859be60811725b30815c3dd34bbc954d450aa581089106101e707d3cb9d98d7146aed9c2a63e6f4c629958c5b7a1a428f84fea791858f
    ++ beBytes 64 0x55f638514b88a3fc5b4c3a14a0b0ca54fecbfdac438b3686a92129ede397d3894e411c9e7af52ecb59aac04cc78490523af4d2b2c969e3108d49ff852b6ba6b5
    ++ beBytes 64 0xd50d7e8058f66e3049b245fc94ef2132dffe797d51b3093760d18043026eb7563b678044e5bede939f6b56ecb8e759572d7abc9d2455d5174e498055c87ac866
    ++ beBytes 64 0xaf8a609461428c5a9af2fe19bca53c6758a0362b0fef96e99bdbf848af875aa6df89de3167e8b529d0bed7515b369f47be6cf58a132eb82d8dca362464edc23c
    ++ beBytes 64 0xa0751eeb67b51e29c5078ac3a1718e84699d6e2dc3c9c022fae64916c5bcc37cfacb160c704bc8099de111ce4b754940b9139a6489ec2086890282f58366edbf
    ++ beBytes 64 0x3853d77198b11ed2aa580c8241ed06a8599397d277b596e3ac8ff62d1916eec47e69fe58bb25ea260083efa516b0c837686b829fcc4aa6f26bd5beecce0722f0
    ++ beBytes 64 0x4a7fc5ca54c9c75c170b912195372e145da91bf2f89a0449880f3ae987d3f245b11e92182d54677cf046bc47d6b0f909b7ee36f878e7b4223b0d2186dca2cacf
    ++ beBytes 64 0xb98d283e3a7f7a746963ec5cee73aef820c42ae1cd509ce56b2cdd64d27f227f28335a8bd795499e319b743f856c39b3dceea93333bcefb2e77998ffb71ae278
    ++ beBytes 64 0x737c4c0f161a208892c6ce05323b495e9701e4fd118f0ea6a01197389e3c27f0f93b12beac9c48b22e987459c8b3f4e876ee3babcee4789adb10abf44066fbaa
    ++ beBytes 64 0xd4cd008e2136c69dd63dc5fcc4c06f5aef2c98cefb8a9555ae093d41cc526e91b91b09446ec2d2a7c2e34570053cf64141f740d7c395f7bfb1768d2e76e266b0
    ++ beBytes 64 0xb6573c974070801ac9688179099b0745edc70c62868f427ae98bda6f8da4d156b3db5a26996fb10f3a770bbb19f158cead6d8e8662cfb645987f20145b208f7c
    ++ beBytes 64 0x702d4b2cae06ad59e3b411d90b5cf591046cd5031d2bbbbbc0b2bef0d3e81403f8ed17bd071a3c964dd30e98598801666fda59b82792d17880c52dd5b4c085a4
    ++ beBytes 64 0x4c7ed7c1ac1aaa00f790534d2565fa42833d7269af904606523cc0dcfac6581f1af200b9cabb28bf18d74da257bfe785d7a347800d3043472f5f5f385ad12868
    ++ beBytes 64 0xbe6980059d3ea799e2caad09437ecc57b0bf657347149635a69f10aa97b26953843edb813fab47e256c2e321b4dd11bf858943b232b0c95993f3d7719ba445ba
    ++ beBytes 64 0x311737b769f8f2e2be7921a8017d0da86cc545f0aafee27db0c237f74089570ef3a6b722d8473059626acc651af4dd61410b3afd9154d054c69b693af65c451e
    ++ beBytes 64 0x2761caf85340c762d44930ecbe05a95c40bfd605c09e3fd55f3da457aeda5089e38518c24975592785b1042b9921135fbb5d8a0d7e0898e41c83cc61a27af77c
    ++ beBytes 64 0xfd1bd07f810f8de6c46cb6ee03ccf4738f5bf1bde68bc0757ff8bda80b4c8239dd085cd7b787e1b2385c2335c557cc2279b38ef9b0e71f049de27197a57b68e3
    ++ beBytes 64 0x0da26aecb18f4bdb88befd3061cbbd1243b96d59e8f8e9ad00f67bfdf3408adf06a6867aa9343c0f4d28bd188a9b00ead2b82170e01e48f1a50883c7abc21f68
    ++ beBytes 64 0x000d8365978465d9cc665539625eed09d6cbc9bbcad46102d2b5cd713d9448ff485685592c5f4cbbd211db6246051020dde60cf8e0575a2ac53030695bcd4eef
    ++ beBytes 64 0xd771167fabe94b4647c61754e4fa66157da6921cc16b6ac2d65c83133c924d5e5313ddce1ba814a91fea086591751805c2d2c5c670278b46282fa627ee2e2a17
    ++ beBytes 64 0x45fc3ee737443434e6e8d2eea5ce7cb18f7ae38cd316e2402c0b3d201ab53b40f6f824be2f5871f459caf215cb97889ef5933a47d2411ca31917744598aaf40d
    ++ beBytes 64 0x4942229b7b944a80b181a1d4c092cd83eb551a2c7ee58bcacd87d5c7c9018e0b8db5558563587c660b4bd58f3f3a8350acc399b81536ad008eb7601fb908fc4c
    ++ beBytes 64 0x769705403dd2b4257e3de1761f2e29fb962baf879fa865bf336bd7335c3e79f7d4c0ac7f6279f7e34a7a3c0d39459ea93be03a34e60e32bafc4a370262fd9bd4
    ++ beBytes 64 0xac24cf97e923ac971fc77c32996197d6b4ec4c9948d3730ee632b579cffb3be2885a45ca76a697c14f6fa76f7263e1aad36a982a247f6a71fc553267550a7d7e
    ++ beBytes 64 0xa98b28ed3a10e4aa456942d17e2790ee57222dee6566b3ad1383ae9a81212dddab71471ab06b1c48cf20b58b7c503b2a42ce9322c7c4e93490dda3148c785649
    ++ beBytes 64 0x539d9bf80c3bcfcec77d9e3101359ed254e96d8855a2b75e128133833251a7fc188225e306a40b6139adeafdc17a712f405892020d1e2036515b8dafbde3f953
    ++ beBytes 45 0x57caf00fb7dddf0c2555668a90b9c4ed0718219bbacbd3e2000000000000000000000000000000030f13172028
@[inherit_doc anEdKey] def anFirmware : List Byte :=
  [0x49, 0x4D, 0x59, 0x46, 1, 0, 1, 0] ++ List.replicate 56 0 ++ anEdKey ++ anEdSig ++ anMlKey ++ anMlSig ++ List.replicate 19 0

/-- R351 to R355: a device in each state; the parts that self-test needs; images that do not verify; the first part and the last of
36; a second and a third restart; a control core. -/
theorem test_meets_BringUp :
    (booting .reset [] []).dev.st = .reset ∧ (booting .selftest [] []).dev.st = .selftest
    ∧ imageOk 0 1 [] = false ∧ (booting .quickset [] []).dev.st = .quickset
    ∧ (PartKind.link, 15) ∉ (booting .quickset [] []).dev.passed ∧ (PartKind.link, 15) ∉ (booting .quickset [] []).dev.failed
    ∧ (booting .quickset (List.replicate 35 (.die, 0)) []).dev.passed.length + 0 = 35 ∧ 256 ≤ (booting .quickset [] []).cur
    ∧ ((booting .service [] [0]).dev.restarts.filter (fun t => 0 < t + 1000)).length < 2
    ∧ 2 ≤ ((booting .service [] [0, 0]).dev.restarts.filter (fun t => 0 < t + 1000)).length
    ∧ imageOk 0 2 [] = false ∧ (∀ x ∈ (booting .service [] []).dev.brambleDue, 256 + 8 * x.1 ≠ (booting .service [] []).cur)
    ∧ (let s := booting .service [] []
       let t (f : Bool) := { s with dev := { s.dev with brambleDue := [(0, f)] } }
       (t false).dev.brambleDue = [(0, false)] ∧ (t true).dev.brambleDue = [(0, true)] ∧ (t true).cur = 256 + 8 * 0
       ∧ imageOk (t true).dev.svn 1 [0] = false ∧ [0] ≠ (t true).dev.bramble) := by
  and_intros <;> decide +kernel

/-- R355: the Ed25519 signature of that image verifies. -/
theorem test_firmware_ed25519 :
    ed25519Ok (hdr anFirmware 64 32) (hdr anFirmware 96 64) (signedBytes anFirmware) = true := by decide +kernel

/-- R355: that image is accepted, from floors 0 and 1 and not from 2, where the fused values are those of its keys (log 14). Its ML-DSA-65
signature verifies when it is computed, which is too long for the kernel here. -/
theorem test_meets_BringUp_image (floor : Nat) (hf : floor ≤ 1)
    (h2 : mlDsa65Ok (hdr anFirmware 160 1952) (hdr anFirmware 2112 3309) (signedBytes anFirmware) = true)
    (h3 : sha384 (hdr anFirmware 64 32) = Config.fusedKeyHash false)
    (h4 : sha384 (hdr anFirmware 160 1952) = Config.fusedKeyHash true) : imageOk floor 1 anFirmware = true := by
  have h0 : imageHeaderOk anFirmware 1 = true := by decide +kernel
  have h5 : hdrNat anFirmware 6 2 = 1 := by decide +kernel
  unfold imageOk
  rw [h0, test_firmware_ed25519, h2, h3, h4, h5]
  simp [hf]

/-! ### Decoding and the step -/

/-- R31 to R42: an instruction of each form at an end of its range is well formed and has a word; a micro-operation has one. -/
theorem test_meets_DecodeRoundTrip :
    (∀ i ∈ [Instr.add ⟨true, 3⟩ 31 31 true (.lit 0xFFFFFFFF), .vld .v1 always 31 0 false 0x17FF00 5, .mcall ⟨false, 3⟩ (.lit 255),
        .egoLl .c1 always 3 true 15 15 15, .rfwait always (.reg 31 true)], hasWord i = true ∧ Instr.wf 0 i = true)
    ∧ encodeUop (.uopPlane 7 7 8 4095) ≠ 0 ∧ legal (.uopPlane 7 7 8 4095) = true := by
  and_intros <;> decide +kernel

/-- R42: words that no instruction has, that a compute core may not run, whose literal is absent, and whose literal is out of range. -/
theorem test_meets_DecodeRefusals :
    parse .m 0x0D000000 (litValue 0x0D000000 []) = none
    ∧ (parse .s 0x2F000000 (litValue 0x2F000000 [])).any (fun x => legal x.2 && privileged x.2) = true
    ∧ (parse .s 0x01018040 (litValue 0x01018040 [7])).any (fun x => legal x.2 && x.1 && !privileged x.2) = true
    ∧ regForm 0x01018040 = false ∧ [7].length ≤ lidx 0x01018040
    ∧ (parse .m 0x01000000 (litValue 0x01000000 [256])).any (fun x => legal x.2 && !litOk 0 x.2) = true := by
  and_intros <;> decide +kernel

/-- The table word of ADD s3, s1, L0, whose literal word is zero. -/
theorem test_decodes_table_word : decodeTableWord 32 0x01018400 = some (.add always 3 1 false (.lit 0)) := by decide

/-- R49, R53, R186: core 0 with that bundle, whose turn it is. -/
def stepping : State := State.reset.withFetchWord 32 0x01018400

/-- The step runs it and the core goes on at the next word. -/
theorem test_step_runs_table_word : (match step stepping with
    | .next t => (coreAt t 0).pend.map (fun x => (x.reg, x.due)) == [(3, 1)] && (coreAt t 0).st == .running
    | _ => false) = true := by decide +kernel

theorem any_toOption {ε α : Type} {x : Except ε α} {p : α → Bool} (h : x.toOption.any p = true) : ∃ a, x = .ok a ∧ p a = true := by
  cases x with
  | error e => cases h
  | ok a => exact ⟨a, rfl, h⟩

/-- R49, R53, R186: that state meets every hypothesis of the statement about a step. -/
theorem test_meets_StepRunsDecoded :
    let s0 := { stepping with cur := 0, todo := [] }
    let i := Instr.add always 3 1 false (.lit 0)
    stepping.inputs = [] ∧ dueStep stepping = none ∧ stepping.todo = [0] ∧ (core s0).st = .running ∧ isCtrl 0 = false
    ∧ (core s0).pme.samples = [] ∧ dueLandings (core s0) = [] ∧ (core s0).alwAgain = false ∧ (core s0).asyncs = []
    ∧ (core s0).save = none ∧ (core s0).inEnd = false ∧ (core s0).resume = none ∧ (core s0).drain = none
    ∧ earlyCauses s0 = [] ∧ (core s0).bun.slots = []
    ∧ ∃ b w, decodeAt s0 = .ok b ∧ b.slots = [(.s, w, i)]
      ∧ (let s2 := noteWait (startWakes (updCore (fun c => { c with bun := b }) s0))
         let s3 := updCore (fun c => { c with bun := { c.bun with word := w } }) (rejoin s2)
         (core s2).bun.slots = [(.s, w, i)] ∧ (core s2).st = .running ∧ (core s2).resume = none ∧ dueLandings (core s2) = []
         ∧ bundleCauses s2 = [] ∧ balrArrives s2 = none ∧ delayAtEnd (core s2) = false
         ∧ delivery (core s3) (.s, w, i) = none ∧ lossOf (core s3) .s = none ∧ guardMeets (core s3) (.s, w, i) = .free) := by
  intro s0 i
  have h : (decodeAt s0).toOption.any (fun b => b.slots == [(.s, 0x01018400, i)]
      && (let s2 := noteWait (startWakes (updCore (fun c => { c with bun := b }) s0))
          let s3 := updCore (fun c => { c with bun := { c.bun with word := 0x01018400 } }) (rejoin s2)
          decide ((core s2).bun.slots = [(.s, 0x01018400, i)] ∧ (core s2).st = .running ∧ (core s2).resume = none
            ∧ dueLandings (core s2) = [] ∧ bundleCauses s2 = [] ∧ balrArrives s2 = none ∧ delayAtEnd (core s2) = false
            ∧ delivery (core s3) (.s, 0x01018400, i) = none ∧ lossOf (core s3) .s = none
            ∧ guardMeets (core s3) (.s, 0x01018400, i) = .free))) = true := by
    decide +kernel
  obtain ⟨b, hb, hx⟩ := any_toOption h
  simp only [Bool.and_eq_true, beq_iff_eq, decide_eq_true_eq] at hx
  have h0 : stepping.inputs = [] ∧ dueStep stepping = none ∧ stepping.todo = [0] ∧ (core s0).st = .running ∧ isCtrl 0 = false
      ∧ (core s0).pme.samples = [] ∧ dueLandings (core s0) = [] ∧ (core s0).alwAgain = false ∧ (core s0).asyncs = []
      ∧ (core s0).save = none ∧ (core s0).inEnd = false ∧ (core s0).resume = none ∧ (core s0).drain = none
      ∧ earlyCauses s0 = [] ∧ (core s0).bun.slots = [] := by
    and_intros <;> decide +kernel
  obtain ⟨h1, h2, h3, h4, h5, h6, h7, h8, h9, h10, h11, h12, h13, h14, h15⟩ := h0
  exact ⟨h1, h2, h3, h4, h5, h6, h7, h8, h9, h10, h11, h12, h13, h14, h15, b, _, hb, hx.1, hx.2⟩

/-- R46, R47: an instruction of a compute core that completes, one that a control core alone may run, and a predicate that is
false. -/
theorem test_meets_IssueFrames :
    (on0 []).cur < 256 ∧ (onK []).cur = 256 ∧ hasWord (.sts always 2 1 false (.lit 0) 0) = true
    ∧ writesStorage (.sts always 2 1 false (.lit 0) 0) = true ∧ writesStorage (.add always 3 1 false (.lit 0)) = false
    ∧ steers (.br always (.lit 0)) = true ∧ cutsBanks (.bankWRS always (.lit 0)) = true
    ∧ predOn (core (on0 [])) .s ⟨true, 0⟩ = false ∧ isV .s = false
    ∧ reachesCores (.vacate always 3 1 false) = true ∧ legal (.add ⟨true, 0⟩ 3 1 false (.lit 0)) = true
    ∧ privileged (.add ⟨true, 0⟩ 3 1 false (.lit 0)) = false
    ∧ encodeSlot (.add ⟨true, 0⟩ 3 1 false (.lit 0)) = (.s, (encodeSlot (.add ⟨true, 0⟩ 3 1 false (.lit 0))).2.1, [0]) := by
  and_intros <;> decide +kernel

/-- R10: a state whose schedule names cores of the device. -/
theorem test_meets_NothingStops : CoresExist stepping := by unfold CoresExist; decide +kernel

/-- A state whose memories have their canonical form, with bytes in them, and whose step goes on. -/
theorem test_meets_MemoriesStayCanonical :
    MemoriesWf { stepping with dram := { stepping.dram with hbm := [(5, 1)] } }
    ∧ (match step { stepping with dram := { stepping.dram with hbm := [(5, 1)] } } with | .next _ => true | _ => false) = true := by
  refine ⟨by unfold MemoriesWf; decide +kernel, by decide +kernel⟩

end Sys2Proof.Machine.Tests
end

/-! The atomics of the S slot (R78, R79). That no other core changes as an AMO completes does not hold: the AMO may end the wait
that kept a region OVERDUE (R254), the region lapses (R234), its barrier and the barrier's group break (R296, R291), and the
COLLs that the members of the group have pending end with BARRIER_BROKEN (R295). -/

namespace Sys2Proof.Machine.AtomicBreaksGroup

open Sys2Proof Sys2Proof.Machine Sys2Proof.Machine.Claims

/-- A region over the first 128 bytes of core 0's scratchpad, OPEN, past its paid-until and kept OVERDUE by a waiter. -/
def overdue : Region := { kind := .sp, st := .overdue, size := 128, phase := { mode := 0 } }

/-- The waiter: an event node that waits until the word at 0x40 of core 0 is at least 9. -/
def watcher : Node := { kind := .event, st := .waiting, desc := [1, 0x40, 9] }

/-- A barrier of group 1 that the region backs; no member waits on it. -/
def barrier : Barrier :=
  { g := 1, b := 0, die := 0, st := .armed, count := 2, backing := handleOf 0 overdue, arr := [], last := 0, rel := none
    phase := 1, arrivedAt := [(0, 0), (1, 0)], remote := [], seen := [] }

/-- Group 1, of cores 0 and 1, in COMMUNICATE; core 1 has joined the first set of collectives. -/
def group : Group := { st := .communicate, level := 1, ph := 1, members := [0, 1], joined := [(1, 1)] }

/-- The COLL that core 1 has pending until core 0 joins its set. -/
def pendingColl : CollOp :=
  { g := 1, k := 0, seq := 0, after := 0, slot := .c0, i32 := true, op := 0, cnt := 1, src := 0, dst := 64, word := 0 }

/-- Core 0, with the address 0x40 in s1 and 9 in s2. -/
def adder : Core := let c := placedCore [] {}; { c with files := { c.files with x := [(1, 0x40), (2, 9)] } }

/-- Core 0 acts, and core 1 has its COLL pending. -/
def before : State :=
  { State.reset with
    cores := [(0, adder), (1, { placedCore [] {} with colls := [pendingColl] })]
    ctxs := [(0, { st := .active, alw := 1000000, htlen := 8 })]
    regions := [(0, overdue)], nodes := [(0, watcher)], groups := [(1, group)], barriers := [barrier] }

/-- AMO.ADD s2, s1, #0. -/
def addToWord : Instr := .amo ⟨false, 0⟩ 2 1 false 0 false 0

/-- The state after it. -/
def after : State := match exec addToWord before with
  | .next t => t
  | _ => before

theorem exec_addToWord : exec addToWord before = .next after := rfl

/-- Every check of the AMO passes: the sources are readable, and an OVERDUE region admits its owner (R231). -/
theorem addToWord_checks :
    Memory.wf (core before).sp.mem = true ∧ predOn (core before) .s ⟨false, 0⟩ = true
    ∧ rdX (core before) .s 1 = .ok 0x40 ∧ rdX (core before) .s 2 = .ok 9
    ∧ checkLocal .sl .atomic ((0x40 : Word) + 0).toNat 8 8 before = .ok before
    ∧ checkPoison (core before) ((0x40 : Word) + 0).toNat 8 = .ok () := by
  have hpass : checkLocal .sl .atomic ((0x40 : Word) + 0).toNat 8 8 before = .ok before :=
    checkLocal_ok.2 ⟨by decide, by decide, rfl, rfl, rfl⟩
  exact ⟨rfl, rfl, rfl, rfl, hpass, rfl⟩

/-- The watched word alone keeps the region sync-bearing. The AMO ends the wait: the node is DONE, the region LAPSED, the barrier
and its group BROKEN. -/
theorem addToWord_breaks_group :
    syncBearing before 0 overdue = true ∧ syncBearing { before with nodes := [] } 0 overdue = false
    ∧ (Map.get after.nodes 0 {}).st = .free ∧ (Map.get after.regions 0 {}).st = .lapsed
    ∧ after.barriers.map (·.st) = [.broken] ∧ (Map.get after.groups 1 {}).st = .broken := by
  and_intros <;> decide +kernel

/-- Core 1 has lost its pending COLL to the fault BARRIER_BROKEN. -/
theorem addToWord_faults_other_core :
    (coreAt before 1).collFaults = [] ∧ (coreAt after 1).collFaults = [⟨1, 0, brokenFault 0 .c0⟩] := by
  constructor <;> decide +kernel

/-- So another core is not as before. -/
theorem not_othersKept_addToWord : ¬ othersKept before after := by
  intro hkept
  have hcore : coreAt after 1 = coreAt before 1 := hkept 1 (by decide)
  obtain ⟨hnone, hfault⟩ := addToWord_faults_other_core
  rw [hcore, hnone] at hfault
  cases hfault

/-- Refutes O2: an AMO that meets every hypothesis of the first clause ends the wait on the word it writes, and so breaks a group
of which another core is a member; that core's pending COLL faults, where the clause has every other core as before. -/
theorem not_atomicResults : ¬ Obligations.AtomicResults := by
  unfold Obligations.AtomicResults
  rintro ⟨hamo, -, -⟩
  obtain ⟨hwf, hp, ha, hd, hlocal, hpoison⟩ := addToWord_checks
  obtain ⟨t, ht, -, -, hkept⟩ :=
    hamo ⟨false, 0⟩ 2 1 false 0 false 0 before before 0x40 9 8 rfl hwf hp ha hd hlocal hpoison
  have hexec : Host.Outcome.next after = Host.Outcome.next t := exec_addToWord.symm.trans ht
  cases hexec
  exact not_othersKept_addToWord hkept

end Sys2Proof.Machine.AtomicBreaksGroup

/-! TRAP (R195), the return of its core by RETRY (R196), and the privileged instructions named on a compute core (R42). -/

namespace Sys2Proof.Machine.TrapsAndPrivilege

open Sys2Proof Sys2Proof.Machine Sys2Proof.Machine.Claims

/-! ### The core of a fault (R186, R189) -/

theorem isCtrl_compute {g : Nat} (hg : g < 256) : isCtrl g = false := by simp [isCtrl, hg]

/-- The trap that a compute core holds for a fault. -/
def trapOf (e : Exc) (sres : Nat) (async atDecode : Bool) (c : Core) : Trap :=
  { exc := e, cls := excClass e.code, sres := sres, async := async, atDecode := atDecode, pc := c.pc
    dpos := match c.br with | some b => b.dpos | none => 0
    btgt := match c.br with | some b => b.tgt | none => 0
    inEnd := c.inEnd && c.bun.slots.isEmpty }

/-- A compute core as the fault leaves it, before its record goes to the cluster. -/
def trappedCore (rs : Map Region) (t : Trap) (c : Core) : Core :=
  { c with st := .trapped, trap := some t, resume := none, bun := splitView rs c.bun
           csr := { c.csr with sres := BitVec.ofNat 3 t.sres } }

/-- The record goes to the cluster's queue, or to the core's latch, which is all that can change of the core. -/
theorem coreAt_postFault (g : Nat) (r : TRec) (s : State) :
    ∃ l, coreAt (postFault g r s) g = { coreAt s g with latched := l } := by
  by_cases hroom : (clusterAt s (clusterNo g)).q.length + 5 ≤ 64
  · exact ⟨(coreAt s g).latched, by simp [postFault, hroom]⟩
  · exact ⟨some (s.now, r), by simp [postFault, hroom]⟩

@[simp] theorem postFault_cur (g : Nat) (r : TRec) (s : State) : (postFault g r s).cur = s.cur := by
  by_cases hroom : (clusterAt s (clusterNo g)).q.length + 5 ≤ 64 <;> simp [postFault, hroom]

/-- A fault of class 0 or 1 traps a compute core, and its record goes to the cluster. -/
theorem takeTrap_nonfatal {e : Exc} {sres : Nat} {async atDecode : Bool} {s : State} (hn : isCtrl s.cur = false)
    (hc : excClass e.code ≠ 2) : takeTrap e sres async atDecode s
      = postFault s.cur (recordOf s.cur (core s) e sres async)
          (setCore s (trappedCore s.regions (trapOf e sres async atDecode (core s)) (core s))) := by
  simp only [takeTrap, hn, if_neg hc, Bool.false_eq_true, if_false]
  rfl

/-- Such a fault leaves the core TRAPPED whatever room its cluster's queue has (`takeTrap_compute` asks for five free entries). -/
theorem core_takeTrap {e : Exc} {sres : Nat} {async atDecode : Bool} {s : State} (hn : isCtrl s.cur = false)
    (hc : excClass e.code ≠ 2) : ∃ l, core (takeTrap e sres async atDecode s)
      = { trappedCore s.regions (trapOf e sres async atDecode (core s)) (core s) with latched := l } := by
  obtain ⟨l, hl⟩ := coreAt_postFault s.cur (recordOf s.cur (core s) e sres async)
    (setCore s (trappedCore s.regions (trapOf e sres async atDecode (core s)) (core s)))
  refine ⟨l, ?_⟩
  rw [takeTrap_nonfatal hn hc, core, postFault_cur, setCore_cur, hl, setCore, coreAt_setCoreAt]

/-- The trap's split of the bundle keeps its slots. -/
@[simp] theorem splitView_slots (rs : Map Region) (b : Bundle) : (splitView rs b).slots = b.slots := rfl

@[simp] theorem killMarks_inEnd (sl : Slot) (rs : List Reg) (c : Core) : (killMarks sl rs c).inEnd = c.inEnd := by
  rw [killMarks_only]; rfl

/-! ### TRAP (R195) -/

/-- The fault that TRAP raises. -/
def trapFault (v : Word) : Exc := { code := 0x07, info := v, fslot := 0 }

/-- The state after a TRAP whose predicate is true and whose operand is `v`. -/
def afterTrap (o : Opnd) (v : Word) (s : State) : State :=
  takeTrap (trapFault v) 1 false false (updCore (killMarks .s (markO o)) s)

theorem exec_trap_on {p : Pred} {o : Opnd} {s : State} {v : Word} (hp : predOn (core s) .s p = true)
    (ho : rdO (core s) .s o = .ok v) : exec (.trap p o) s = .next (afterTrap o v s) := by
  change execTrap p o s = _
  simp only [execTrap, hp, ho, if_true]
  rfl

theorem exec_trap_off {p : Pred} {o : Opnd} {s : State} (hp : predOn (core s) .s p = false) :
    exec (.trap p o) s = .next (updCore (killMarks .s (markO o)) s) := by
  change execTrap p o s = _
  simp only [execTrap, hp, Bool.false_eq_true, if_false]

/-- The trap that a TRAP leaves the core with. -/
def trapByTrap (o : Opnd) (v : Word) (c : Core) : Trap := trapOf (trapFault v) 1 false false (killMarks .s (markO o) c)

/-- TRAP leaves a compute core TRAPPED with SRES 1, its pending branch and the slots of its bundle as they were. -/
theorem core_afterTrap {o : Opnd} {v : Word} {s : State} (hn : isCtrl s.cur = false) :
    (core (afterTrap o v s)).st = .trapped ∧ (core (afterTrap o v s)).csr.sres = 1
      ∧ (core (afterTrap o v s)).br = (core s).br ∧ (core (afterTrap o v s)).trap = some (trapByTrap o v (core s))
      ∧ (core (afterTrap o v s)).bun.slots = (core s).bun.slots := by
  have hrecoverable : excClass (trapFault v).code ≠ 2 := by simp [trapFault, excClass]
  obtain ⟨l, hl⟩ := core_takeTrap (sres := 1) (async := false) (atDecode := false)
    (s := updCore (killMarks .s (markO o)) s) hn hrecoverable
  rw [afterTrap, hl, core_updCore]
  exact ⟨rfl, rfl, killMarks_br _ _ _, rfl, by simp [trappedCore]⟩

/-! ### RFT (R196) -/

/-- A core that is TRAPPED by a fault that is not fatal, and whose length is known where it is skipped, is resumed: status 0. -/
theorem rftStatus_resumes {s : State} {k : Word} {skip : Bool} {t : Trap} (hk : k.toNat < 8)
    (hst : (coreAt s (8 * clusterNo s.cur + k.toNat)).st = .trapped)
    (htrap : (coreAt s (8 * clusterNo s.cur + k.toNat)).trap = some t) (hcls : t.cls ≠ 2)
    (hlen : skip = true → t.exc.fslot ≠ 7) : rftStatus s k skip = 0 := by
  have hskip : (skip && decide (t.exc.fslot = 7)) = false := by
    cases skip with
    | false => rfl
    | true => simp [hlen rfl]
  simp [rftStatus, Nat.not_le.mpr hk, hst, htrap, hcls, hskip]

/-- RFT with status 0 on another core leaves that core as `rftResume` has it. -/
theorem coreAt_rft_resumed {s : State} {p : Pred} {d a : Reg} {k : Word} {skip : Bool} {t : Trap} {g : Nat}
    (hctrl : isCtrl s.cur = true) (hp : predOn (core s) .s p = true) (ha : rdX (core s) .s a = .ok k)
    (hg : g = 8 * clusterNo s.cur + k.toNat) (hne : g ≠ s.cur) (hstatus : rftStatus s k skip = 0)
    (htrap : (coreAt s g).trap = some t) : coreAt (rft skip p d a s) g = rftResume skip t (coreAt s g) := by
  have hkept : coreAt (updCore (resX .s d (word 0) 1) s) g = coreAt s g := coreAt_updCore_ne _ _ hne
  have hissue : rft skip p d a s
      = updCore (killMarks .s []) (rftAct g skip (updCore (resX .s d (word 0) 1) s)) := by
    simp only [rft, hctrl, Bool.not_true, Bool.false_eq_true, if_false]
    refine issue_ok hp ?_
    simp [ha, hstatus, hg, bind, Except.bind]
  have hact : rftAct g skip (updCore (resX .s d (word 0) 1) s)
      = updCoreAt g (rftResume skip t) (updCore (resX .s d (word 0) 1) s) := by
    simp only [rftAct, hkept, htrap]
  rw [hissue, hact, coreAt_updCore_ne, coreAt_updCoreAt, hkept]
  exact hne

/-- RETRY of a fault at issue, with a slot of the bundle issued before it, goes on with the slot that SRES names. -/
theorem rftResume_retry {t : Trap} {c : Core} (hend : t.inEnd = false) (hasync : t.async = false)
    (hdec : t.atDecode = false) (hissued : nothingIssued t c = false) :
    (rftResume false t c).st = .running ∧ (rftResume false t c).resume = some t.sres
      ∧ (rftResume false t c).br = c.br := by
  simp [rftResume, hend, hasync, hdec, show nothingIssued t _ = false from hissued]

/-- A bundle with an S slot has issued something when its trap names a later slot. -/
theorem nothingIssued_of_s {t : Trap} {c : Core} (hs : ∃ x ∈ c.bun.slots, x.1 = Slot.s) (hsres : 0 < t.sres) :
    nothingIssued t c = false := by
  obtain ⟨x, hx, hxs⟩ := hs
  refine List.all_eq_false.mpr ⟨x, hx, ?_⟩
  simp only [hxs, Slot.num, decide_eq_true_eq]
  omega

/-! ### Privileged instructions on a compute core (R42) -/

/-- The test of the core that RFT and every operation of CTXCTL make before all else: a compute core faults PRIV at decode. -/
theorem ctrlOnly_compute {s t : State} (hcompute : s.cur < 256) : (if !isCtrl s.cur then privFault s else t)
    = takeTrap { code := 0x05, info := (core s).bun.word.setWidth 64 } 0 false true s := by
  simp only [isCtrl_compute hcompute, Bool.not_false, if_true]
  rfl

/-! ### The obligation (O8) -/

/-- After TRAP, RETRY of the trapped core goes on with the slot after the S slot (R195, R196). -/
theorem rft_after_trap {o : Opnd} {v : Word} {s u : State} {q : Pred} {d a : Reg} (hcompute : s.cur < 256)
    (hend : (core s).inEnd = false) (hs : ∃ x ∈ (core s).bun.slots, x.1 = Slot.s) (hcur : u.cur = 256 + s.cur / 8)
    (hcore : coreAt u s.cur = core (afterTrap o v s)) (hq : predOn (core u) .s q = true)
    (ha : rdX (core u) .s a = .ok (BitVec.ofNat 64 (s.cur % 8))) :
    ∃ u', exec (.rft q d a) u = .next u' ∧ (coreAt u' s.cur).st = .running ∧ (coreAt u' s.cur).resume = some 1
      ∧ (coreAt u' s.cur).br = (core s).br := by
  obtain ⟨hst, -, hbr, htrap, hslots⟩ := core_afterTrap (o := o) (v := v) (isCtrl_compute hcompute)
  rw [← hcore] at hst hbr htrap hslots
  have hctrl : isCtrl u.cur = true := by simp [isCtrl, hcur]
  have hk : (BitVec.ofNat 64 (s.cur % 8)).toNat = s.cur % 8 := by
    rw [BitVec.toNat_ofNat]
    omega
  have hg : s.cur = 8 * clusterNo u.cur + (BitVec.ofNat 64 (s.cur % 8)).toNat := by
    rw [clusterNo, hctrl, if_pos rfl, hcur, hk]
    omega
  have hstatus : rftStatus u (BitVec.ofNat 64 (s.cur % 8)) false = 0 :=
    rftStatus_resumes (by omega) (hg ▸ hst) (hg ▸ htrap)
      (by simp [trapByTrap, trapOf, trapFault, excClass]) (by simp)
  have hresumed := coreAt_rft_resumed (d := d) hctrl hq ha hg (by omega) hstatus htrap
  have hissued : nothingIssued (trapByTrap o v (core s)) (coreAt u s.cur) = false :=
    nothingIssued_of_s (hslots ▸ hs) Nat.one_pos
  obtain ⟨hrun, hresume, hkept⟩ := rftResume_retry (by simp [trapByTrap, trapOf, hend]) rfl rfl hissued
  rw [← hresumed] at hrun hresume hkept
  exact ⟨_, rfl, hrun, hresume, hkept.trans hbr⟩

/-- Core 0 with a TRAP in its bundle, in the first delay bundle of a branch. -/
def trapping : State :=
  { State.reset with
    cur := 0
    cores := [(0, { placedCore [] {} with br := some ⟨0x40, 1⟩, bun := { slots := [(.s, 0, .trap always (.lit 9))] } })] }

/-- Control core 0 in the handler of that trap. -/
def handling : State :=
  { trapping with cur := 256, cores := [(0, core (afterTrap (.lit 9) 9 trapping)), (256, placedCore [] {})] }

/-- RETRY of core 0 in that state: every hypothesis of `rft_after_trap` is met. -/
theorem rft_handling : ∃ u', exec (.rft always 6 0) handling = .next u' ∧ (coreAt u' 0).st = .running
    ∧ (coreAt u' 0).resume = some 1 ∧ (coreAt u' 0).br = some ⟨0x40, 1⟩ :=
  rft_after_trap (s := trapping) (o := .lit 9) (v := 9) (by decide) rfl ⟨_, List.mem_singleton.mpr rfl, rfl⟩ rfl rfl rfl rfl

/-- Settles O8: a TRAP is taken on the core whose marks have ended; the trap keeps the branch and the slots, so RETRY goes on
behind the S slot; RFT and CTXCTL answer PRIV before they look at anything else. -/
theorem trapAndPrivilege : Obligations.TrapAndPrivilege := by
  unfold Obligations.TrapAndPrivilege
  refine ⟨fun p o s v hp ho => ⟨exec_trap_on hp ho, fun hcompute hend => ?_⟩, fun p o s hp => exec_trap_off hp,
    fun p d a s hcompute i hi => ?_, fun p d a b s hcompute i hi => ?_⟩
  · obtain ⟨hst, hsres, hbr, htrap, -⟩ := core_afterTrap (o := o) (v := v) (isCtrl_compute hcompute)
    exact ⟨hst, hsres, hbr, ⟨_, htrap, rfl, rfl, rfl, rfl, rfl⟩, fun hs q d a u hcur hcore hq ha =>
      rft_after_trap hcompute hend hs hcur hcore hq ha⟩
  · simp only [List.mem_cons, List.not_mem_nil, or_false] at hi
    rcases hi with rfl | rfl
    all_goals exact congrArg _ (ctrlOnly_compute hcompute)
  · simp only [List.mem_cons, List.not_mem_nil, or_false] at hi
    rcases hi with rfl | rfl | rfl | rfl | rfl | rfl | rfl | rfl
    all_goals exact congrArg _ (ctrlOnly_compute hcompute)

end Sys2Proof.Machine.TrapsAndPrivilege

/-! The order of a decision (R276), its end without a placement (R277), and the STARVE event (R278). -/

namespace Sys2Proof.Machine.DecisionsAndStarvation

open Sys2Proof Sys2Proof.Machine Sys2Proof.Machine.Claims

/-! ### The order of READY nodes -/

theorem mem_insertIn {α : Type} (lt : α → α → Bool) (a x : α) (xs : List α) :
    a ∈ sortBy.insertIn lt x xs ↔ a = x ∨ a ∈ xs := by
  induction xs with
  | nil => simp [sortBy.insertIn]
  | cons y ys ih =>
    cases hlt : lt y x with
    | true => simp [sortBy.insertIn, hlt, ih, or_left_comm]
    | false => simp [sortBy.insertIn, hlt]

@[simp] theorem mem_sortBy {α : Type} (lt : α → α → Bool) (a : α) (xs : List α) : a ∈ sortBy lt xs ↔ a ∈ xs := by
  induction xs with
  | nil => rfl
  | cons x xs ih => simp [sortBy, mem_insertIn, ih]

theorem mem_readyNodes {s : State} {x : Nat × Node} : x ∈ readyNodes s ↔ x ∈ s.nodes ∧ x.2.st = .ready := by
  simp [readyNodes]

/-- Of two READY nodes, the second of the table comes first only where it is strictly before the other. -/
theorem readyNodes_pair {s : State} {x y : Nat × Node} (hs : s.nodes = [x, y]) (hx : x.2.st = .ready) (hy : y.2.st = .ready) :
    readyNodes s = if nodeBefore y x then [y, x] else [x, y] := by
  simp [readyNodes, hs, hx, hy, sortBy, sortBy.insertIn]

/-- Priority, then ready time (R276): the part of the order in which the node id has no say. -/
def Outranks (n m : Node) : Prop := m.prio < n.prio ∨ (n.prio = m.prio ∧ n.ready < m.ready)

theorem nodeBefore_of_outranks {x y : Nat × Node} (h : Outranks x.2 y.2) : nodeBefore x y = true := by
  obtain hprio | ⟨hprio, hready⟩ := h
  · simp [nodeBefore, hprio]
  · simp [nodeBefore, hprio, hready]

theorem nodeBefore_of_outranked {x y : Nat × Node} (h : Outranks y.2 x.2) : nodeBefore x y = false := by
  obtain hprio | ⟨hprio, hready⟩ := h
  · have hne : x.2.prio ≠ y.2.prio := BitVec.ne_of_lt hprio
    simp [nodeBefore, hne, BitVec.le_of_lt hprio]
  · simp [nodeBefore, hprio, Nat.le_of_lt hready, Nat.ne_of_gt hready]

/-! ### A decision's walk and its end -/

theorem walkReady_none {s : State} {xs : List (Nat × Node)} (h : ∀ x ∈ xs, canPlace s x = false) : (walkReady s xs).2 = none := by
  induction xs with
  | nil => rfl
  | cons x xs ih =>
    obtain ⟨hx, hxs⟩ := List.forall_mem_cons.mp h
    cases hskip : x.2.skip with
    | true => simp [walkReady, hx, hskip, ih hxs]
    | false => simp [walkReady, hx, hskip]

theorem walkReady_head {s : State} {x : Nat × Node} (xs : List (Nat × Node)) (h : canPlace s x = true) :
    (walkReady s (x :: xs)).2 = some x := by
  simp [walkReady, h]

/-- A node that a decision has passed over. -/
def considered (n : Node) : Node := { n with fresh := false }

/-- The pre-emptions of the nodes that are new to a decision (R277). -/
def preemptFresh (s : State) : State := ((readyNodes s).filter (fun x => x.2.fresh)).foldl preempt s

/-- A decision that places nothing more. -/
def endDecision (s : State) : State :=
  { preemptFresh s with nodes := (preemptFresh s).nodes.map (fun x => (x.1, considered x.2)) }

theorem decideFrom_place {s : State} {x : Nat × Node} (fuel : Nat) (h : (walkReady s (readyNodes s)).2 = some x) :
    decideFrom (fuel + 1) s = decideFrom fuel (place x s) := by
  simp only [decideFrom, h]

theorem decideFrom_end {s : State} (fuel : Nat) (h : ∀ x ∈ readyNodes s, canPlace s x = false) :
    decideFrom (fuel + 1) s = endDecision s := by
  simp only [decideFrom, walkReady_none h]
  rfl

theorem foldl_updCoreAt_nodes (f : Nat → Core → Core) (gs : List Nat) (s : State) :
    (gs.foldl (fun s g => updCoreAt g (f s.now) s) s).nodes = s.nodes := by
  induction gs generalizing s with
  | nil => rfl
  | cons g gs ih => exact (ih _).trans (updCoreAt_nodes g (f s.now) s)

/-- Pre-emption marks cores and leaves the table of nodes as it is. -/
theorem preempt_nodes (s : State) (x : Nat × Node) : (preempt s x).nodes = s.nodes := by
  unfold preempt
  split
  · rfl
  · exact foldl_updCoreAt_nodes preemptCore _ s

theorem foldl_preempt_nodes (xs : List (Nat × Node)) (s : State) : (xs.foldl preempt s).nodes = s.nodes := by
  induction xs generalizing s with
  | nil => rfl
  | cons x xs ih => exact (ih _).trans (preempt_nodes s x)

theorem foldl_preempt_eq {s : State} {xs : List (Nat × Node)} (h : ∀ x ∈ xs, preempt s x = s) : xs.foldl preempt s = s := by
  induction xs with
  | nil => rfl
  | cons x xs ih =>
    obtain ⟨hx, hxs⟩ := List.forall_mem_cons.mp h
    rw [List.foldl_cons, hx, ih hxs]

theorem find?_map_considered (m : Map Node) (k : Nat) :
    Map.find? (m.map (fun x => (x.1, considered x.2))) k = (Map.find? m k).map considered := by
  induction m with
  | nil => rfl
  | cons e m ih =>
    obtain ⟨k', v⟩ := e
    by_cases hk : k' = k
    · simp [Map.find?, hk]
    · simp [Map.find?, hk, ih]

/-- What a decision that places nothing more does to a node: its mark of being new is gone. -/
theorem find?_endDecision (s : State) (k : Nat) :
    Map.find? (endDecision s).nodes k = (Map.find? s.nodes k).map considered := by
  rw [endDecision, find?_map_considered, preemptFresh, foldl_preempt_nodes]

/-- Where no READY node pre-empts, every core is as before. -/
theorem endDecision_cores {s : State} (h : ∀ x ∈ readyNodes s, preempt s x = s) : (endDecision s).cores = s.cores := by
  have hkept : preemptFresh s = s := foldl_preempt_eq fun x hx => h x (List.mem_filter.mp hx).1
  rw [endDecision, hkept]

/-! ### Which nodes pre-empt (R277) -/

theorem preempt_copy {s : State} {x : Nat × Node} (h : x.2.kind = .copy) : preempt s x = s := by
  simp [preempt, h]

/-- A node that no other node's priority is below has no victims. -/
theorem victims_nil {s : State} {n : Node} (h : ∀ x ∈ s.nodes, n.prio ≤ x.2.prio) : victims s n = [] := by
  have hnone : ∀ x ∈ victims s n, False := by
    intro x hx
    simp only [victims, mem_sortBy, List.mem_filter, Bool.and_eq_true, decide_eq_true_eq] at hx
    obtain ⟨hmem, -, hbelow⟩ := hx
    have hle : n.prio.toNat ≤ x.2.prio.toNat := h x hmem
    omega
  exact List.eq_nil_iff_forall_not_mem.mpr hnone

theorem preempt_of_victims_nil {s : State} {x : Nat × Node} (h : victims s x.2 = []) : preempt s x = s := by
  unfold preempt
  split
  · rfl
  · simp [h, enough]

/-! ### Copy nodes placed (R274 to R276) -/

/-- A copy node as its placement leaves it, RUNNING and the latest placed. -/
def startedCopy (s : State) (n : Node) : Node :=
  { n with st := .running, placedAt := s.now, order := nextOrder s, fresh := false
           seq := if creatorRuns n s then (coreAt s n.home).eseq else 0
           after := if creatorRuns n s then (coreAt s n.home).coFence else 0 }

theorem placeCopy_ok {s : State} {n : Node} (k : Nat) (h : copyHandlesOk s n = true) :
    placeCopy k n s = setNode k (startedCopy s n) (if creatorRuns n s then updCoreAt n.home takeSeq s else s) := by
  simp only [placeCopy, h, if_true]
  rfl

theorem placeCopy_nodes {s : State} {n : Node} {k : Nat} (h : copyHandlesOk s n = true) :
    (placeCopy k n s).nodes = Map.put s.nodes k (startedCopy s n) := by
  rw [placeCopy_ok k h, setNode]
  cases creatorRuns n s <;> rfl

theorem find?_placeCopy {s : State} {n : Node} {k : Nat} (h : copyHandlesOk s n = true) :
    Map.find? (placeCopy k n s).nodes k = some (startedCopy s n) := by
  rw [placeCopy_nodes h, Map.find?_put_self]

theorem copyStarted_placeCopy {s : State} {n : Node} {k : Nat} (h : copyHandlesOk s n = true) :
    copyStarted k n s (placeCopy k n s) := by
  refine ⟨find?_placeCopy h, fun g => ?_⟩
  have hcores : coreAt (placeCopy k n s) g = coreAt (if creatorRuns n s then updCoreAt n.home takeSeq s else s) g := by
    rw [placeCopy_ok k h]; rfl
  rw [hcores]
  cases hruns : creatorRuns n s with
  | false => simp
  | true =>
    by_cases hg : g = n.home
    · subst hg; simp [takeSeq]
    · simp [hg, coreAt_updCoreAt_ne]

theorem mem_of_find? {α : Type} {m : Map α} {k : Nat} {v : α} (h : Map.find? m k = some v) : (k, v) ∈ m := by
  induction m with
  | nil => cases h
  | cons e m ih =>
    obtain ⟨k', v'⟩ := e
    by_cases hk : k' = k
    · subst hk
      simp only [Map.find?, if_true, Option.some.injEq] at h
      exact h ▸ List.mem_cons_self
    · simp only [Map.find?, if_neg hk] at h
      exact List.mem_cons_of_mem _ (ih h)

/-- A copy node that runs keeps the engine of its die from every other. -/
theorem copyEngineFree_of_running {s : State} {x : Nat × Node} {n : Node} (hx : x ∈ s.nodes) (hkind : x.2.kind = .copy)
    (hst : x.2.st = .running) (hdie : dieNo x.2.home = dieNo n.home) : copyEngineFree s n = false := by
  simp only [copyEngineFree, Bool.not_eq_false', List.any_eq_true]
  exact ⟨x, hx, by simp [hkind, hst, hdie]⟩

/-- Once a copy node of a die is placed, no other READY copy node of that die can be. -/
theorem canPlace_placeCopy {s : State} {n : Node} {k : Nat} (hkind : n.kind = .copy) (hok : copyHandlesOk s n = true)
    (hcopies : ∀ y ∈ readyNodes s, y.2.kind = .copy ∧ dieNo y.2.home = dieNo n.home) {y : Nat × Node}
    (hy : y ∈ readyNodes (placeCopy k n s)) : y.2.kind = .copy ∧ canPlace (placeCopy k n s) y = false := by
  obtain ⟨hmem, hready⟩ := mem_readyNodes.mp hy
  rw [placeCopy_nodes hok] at hmem
  obtain rfl | hold := Map.mem_put hmem
  · cases hready
  · obtain ⟨hcopy, hdie⟩ := hcopies y (mem_readyNodes.mpr ⟨hold, hready⟩)
    have hbusy : copyEngineFree (placeCopy k n s) y.2 = false :=
      copyEngineFree_of_running (mem_of_find? (find?_placeCopy hok)) hkind rfl hdie.symm
    exact ⟨hcopy, by simp [canPlace, hcopy, hbusy]⟩

/-- The end of a decision keeps a copy node started, where no READY node pre-empts. -/
theorem copyStarted_endDecision {s t : State} {n : Node} {k : Nat} (h : copyStarted k n s t)
    (hcores : (endDecision t).cores = t.cores) : copyStarted k n s (endDecision t) := by
  obtain ⟨hnode, hcore⟩ := h
  refine ⟨by rw [find?_endDecision, hnode]; rfl, fun g => ?_⟩
  rw [← hcore g, coreAt, hcores, coreAt]

/-! ### Decisions (R276) -/

/-- Where every READY node is a copy node of one die whose engine is free, a decision starts the first of them and passes over the
others. -/
theorem exec_dispatchDecision_copy {s : State} {x : Nat × Node} {xs : List (Nat × Node)} (hfirst : readyNodes s = x :: xs)
    (hcopies : ∀ y ∈ readyNodes s, y.2.kind = .copy ∧ dieNo y.2.home = dieNo x.2.home) (hplace : canPlace s x = true)
    (hok : copyHandlesOk s x.2 = true) :
    ∃ t, exec .dispatchDecision s = .next t ∧ copyStarted x.1 x.2 s t
      ∧ ∀ k, k ≠ x.1 → Map.find? t.nodes k = (Map.find? s.nodes k).map considered := by
  have hx : x ∈ readyNodes s := hfirst ▸ List.mem_cons_self
  have hkind : x.2.kind = .copy := (hcopies x hx).1
  have hrest := fun y => canPlace_placeCopy (k := x.1) (y := y) hkind hok hcopies
  have hwalk : (walkReady s (readyNodes s)).2 = some x := by rw [hfirst, walkReady_head xs hplace]
  have hplaced : place x s = placeCopy x.1 x.2 s := by simp only [place, hkind]
  obtain ⟨m, hm⟩ : ∃ m, s.nodes.length = m + 1 :=
    Nat.exists_eq_succ_of_ne_zero (Nat.ne_of_gt (List.length_pos_of_mem (mem_readyNodes.mp hx).1))
  refine ⟨endDecision (placeCopy x.1 x.2 s), ?_, ?_, fun k hk => ?_⟩
  · change execDispatchDecision s = _
    rw [execDispatchDecision, hm, decideFrom_place _ hwalk, hplaced, decideFrom_end _ fun y hy => (hrest y hy).2]
  · exact copyStarted_endDecision (copyStarted_placeCopy hok) (endDecision_cores fun y hy => preempt_copy (hrest y hy).1)
  · rw [find?_endDecision, placeCopy_nodes hok, Map.find?_put_ne _ _ hk]

/-- Where no node runs, the engine of every copy node is free. -/
theorem copyEngineFree_of_ready {s : State} (h : ∀ x ∈ s.nodes, x.2.st = .ready) (n : Node) : copyEngineFree s n = true := by
  simp only [copyEngineFree, Bool.not_eq_true', List.any_eq_false]
  intro x hx
  simp [h x hx]

/-- Of two READY copy nodes of one die, a decision starts the first and passes over the second. -/
theorem exec_dispatchDecision_pair {s : State} {x y : Nat × Node} (hfirst : readyNodes s = [x, y])
    (hready : ∀ z ∈ s.nodes, z.2.st = .ready) (hx : x.2.kind = .copy) (hy : y.2.kind = .copy)
    (hdie : dieNo y.2.home = dieNo x.2.home) (howner : ownerReady s x.2 = true) (hok : copyHandlesOk s x.2 = true)
    (hne : y.1 ≠ x.1) (hfound : Map.find? s.nodes y.1 = some y.2) :
    ∃ t, exec .dispatchDecision s = .next t ∧ copyStarted x.1 x.2 s t ∧ Map.find? t.nodes y.1 = some (considered y.2) := by
  have hcopies : ∀ z ∈ readyNodes s, z.2.kind = .copy ∧ dieNo z.2.home = dieNo x.2.home := by
    simp [hfirst, hx, hy, hdie]
  have hplace : canPlace s x = true := by simp [canPlace, howner, hx, copyEngineFree_of_ready hready]
  obtain ⟨t, hexec, hstarted, hothers⟩ := exec_dispatchDecision_copy hfirst hcopies hplace hok
  exact ⟨t, hexec, hstarted, by rw [hothers _ hne, hfound]; rfl⟩

/-- The region that handle 1 of the context below reads and writes. -/
def copied : Region := { kind := .hbm, st := .held, size := 65536, phase := { mode := 0 } }

/-- A READY copy node of core 0 within that region, since a cycle. -/
def copyNode (since : Nat) : Node :=
  { st := .ready, kind := .copy, ready := since, desc := [1, 0, 1, 4096, 64, 0, 0, 0] }

/-- Two such nodes; the second has waited for longer. -/
def twoCopies : State :=
  { State.reset with
    cores := [(0, placedCore [] {})], regions := [(2 ^ 18, copied)], nodes := [(0, copyNode 9), (1, copyNode 4)]
    ctxs := [(0, { st := .active, alw := 1000, htlen := 8
                   handles := [(1, ⟨7 + (handleOf (2 ^ 18) copied).setWidth 64 * 65536, 65536, 0⟩)] })] }

/-- A decision in that state starts the second node: every hypothesis of `exec_dispatchDecision_pair` is met. -/
theorem dispatchDecision_twoCopies : ∃ t, exec .dispatchDecision twoCopies = .next t
    ∧ copyStarted 1 (copyNode 4) twoCopies t ∧ Map.find? t.nodes 0 = some (considered (copyNode 9)) :=
  exec_dispatchDecision_pair (x := (1, copyNode 4)) (y := (0, copyNode 9)) (by decide) (by decide) rfl rfl rfl (by decide)
    (by decide +kernel) (by decide) rfl

/-- A lone kernel node that finds no cores stays READY, and no core is touched: it has no victim but itself. -/
theorem exec_dispatchDecision_unfit {s : State} {k : Nat} {n : Node} (hs : s.nodes = [(k, n)]) (hkind : n.kind = .kernel)
    (hfit : fit s [] k n = none) :
    ∃ t, exec .dispatchDecision s = .next t ∧ Map.find? t.nodes k = some (considered n) ∧ t.cores = s.cores := by
  have honly : ∀ x ∈ s.nodes, x = (k, n) := by simp [hs]
  have hlone : ∀ x ∈ readyNodes s, x = (k, n) := fun x hx => honly x (mem_readyNodes.mp hx).1
  have hunplaced : ∀ x ∈ readyNodes s, canPlace s x = false := by
    intro x hx
    simp [hlone x hx, canPlace, hkind, hfit]
  have hmild : ∀ x ∈ readyNodes s, preempt s x = s := by
    intro x hx
    refine preempt_of_victims_nil (victims_nil fun y hy => ?_)
    rw [hlone x hx, honly y hy]
    exact BitVec.le_refl _
  refine ⟨endDecision s, ?_, ?_, endDecision_cores hmild⟩
  · exact congrArg Host.Outcome.next (decideFrom_end _ hunplaced)
  · simp [find?_endDecision, hs, Map.find?]

/-! ### STARVE (R278) -/

/-- The fields of an event record (R373): its code, class 3, and the context it is for. -/
theorem eventRecord_fields {code k : Nat} (hcode : code < 256) (ctrl : Bool) (ctx : BitVec 12) (info : Word) :
    (fld (eventRecord code ctrl k ctx info).w0 0 8).toNat = code ∧ fld (eventRecord code ctrl k ctx info).w0 8 2 = 3
      ∧ (k < 256 → fld (eventRecord code ctrl k ctx info).w0 40 12 = ctx) := by
  have hctrl : boolNat ctrl ≤ 1 := by cases ctrl <;> decide
  have hctx : ctx.toNat < 4096 := ctx.isLt
  have hval : (eventRecord code ctrl k ctx info).w0.toNat
      = (code + 768 + boolNat ctrl * 524288 + k * 4294967296 + ctx.toNat * 1099511627776) % 18446744073709551616 :=
    BitVec.toNat_ofNat _ _
  refine ⟨?_, BitVec.eq_of_toNat_eq ?_, fun hk => BitVec.eq_of_toNat_eq ?_⟩
  · rw [BitVec.extractLsb'_toNat, hval, Nat.shiftRight_eq_div_pow]
    omega
  · rw [BitVec.extractLsb'_toNat, hval, Nat.shiftRight_eq_div_pow]
    change _ = 3
    omega
  · rw [BitVec.extractLsb'_toNat, hval, Nat.shiftRight_eq_div_pow]
    omega

/-- An event for a cluster whose trap queue is empty is the one record in it (R190). -/
theorem eventIn_postEvent {s : State} {k code : Nat} (hcode : code < 256) (ctx : BitVec 12) (info : Word)
    (hq : (clusterAt s k).q = []) : eventIn k code ctx info (postEvent k code ctx info s) := by
  obtain ⟨h0, h1, h2⟩ := eventRecord_fields (k := k) hcode true ctx info
  refine ⟨eventRecord code true k ctx info, ?_, h0, h1, h2, rfl⟩
  simp [postEvent, postRecord, hq, enqueueRec, placeRec]

/-- An event changes nothing but the record of its cluster. -/
theorem postEvent_setCluster (k code : Nat) (ctx : BitVec 12) (info : Word) (s : State) :
    ∃ q, postEvent k code ctx info s = setCluster s k q := by
  by_cases hroom : (clusterAt s k).q.length + 5 ≤ 64
  · exact ⟨_, if_pos hroom⟩
  · exact ⟨_, if_neg hroom⟩

/-- A node is due to post STARVE (R278). -/
def StarveDue (s : State) (n : Node) : Prop := n.st = .ready ∧ n.starved = false ∧ n.ready + 2 ^ 16 * 4096 ≤ s.now

/-- The state after a node has posted STARVE to cluster 0. -/
def afterStarve (id : BitVec 32) (k : Nat) (n : Node) (s : State) : State :=
  postEvent 0 0x4A n.owner (id.setWidth 64) (setNode k { n with starved := true } s)

theorem exec_starveTimeout_due {s : State} {id : BitVec 32} {k : Nat} {n : Node} (hn : nodeOf s id = some (k, n))
    (hdue : StarveDue s n) : exec (.starveTimeout id) s = .next (afterStarve id k n s) := by
  change execStarveTimeout id s = _
  simp only [execStarveTimeout, hn, Bool.not_eq_true']
  exact congrArg _ (if_pos hdue)

theorem exec_starveTimeout_idle {s : State} {id : BitVec 32} {k : Nat} {n : Node} (hn : nodeOf s id = some (k, n))
    (hidle : ¬ StarveDue s n) : exec (.starveTimeout id) s = .next s := by
  change execStarveTimeout id s = _
  simp only [execStarveTimeout, hn, Bool.not_eq_true']
  exact congrArg _ (if_neg hidle)

/-- STARVE marks the node, so that it posts once for its stay in READY, and touches no core. -/
theorem afterStarve_keeps (id : BitVec 32) (k : Nat) (n : Node) (s : State) :
    (afterStarve id k n s).cores = s.cores
      ∧ Map.find? (afterStarve id k n s).nodes k = some { n with starved := true } := by
  obtain ⟨q, hq⟩ := postEvent_setCluster 0 0x4A n.owner (id.setWidth 64) (setNode k { n with starved := true } s)
  rw [afterStarve, hq]
  exact ⟨rfl, Map.find?_put_self _ _ _⟩

/-! ### The obligation (O45) -/

/-- Settles O45: the head of the order is placed and takes the die's copy engine from the other node; a lone kernel node has no
victim; STARVE is posted by a node that is due, and by no other. -/
theorem dispatchOrder : Obligations.DispatchOrder := by
  unfold Obligations.DispatchOrder
  refine fun s => ⟨fun k1 n1 k2 n2 hs hlt hc1 hc2 hr1 hr2 hdie hboth => ?_, fun k n hs hkind _ hfit => ?_,
    fun id k n hn hready hstarved hlong => ?_, fun id k n hn hidle => exec_starveTimeout_idle hn ?_⟩
  · obtain ⟨⟨ho1, hh1⟩, ho2, hh2⟩ : (ownerReady s n1 = true ∧ copyHandlesOk s n1 = true)
        ∧ ownerReady s n2 = true ∧ copyHandlesOk s n2 = true := ⟨hboth n1 (by simp), hboth n2 (by simp)⟩
    have hready : ∀ z ∈ s.nodes, z.2.st = .ready := by simp [hs, hr1, hr2]
    have hne : k2 ≠ k1 := Nat.ne_of_gt hlt
    have hf1 : Map.find? s.nodes k1 = some n1 := by simp [hs, Map.find?]
    have hf2 : Map.find? s.nodes k2 = some n2 := by simp [hs, Map.find?, hne.symm]
    have horder := readyNodes_pair hs hr1 hr2
    refine ⟨fun hfirst => ?_, fun hfirst => ?_⟩
    · rw [nodeBefore_of_outranked (x := (k2, n2)) (y := (k1, n1)) hfirst] at horder
      exact exec_dispatchDecision_pair horder hready hc1 hc2 hdie.symm ho1 hh1 hne hf2
    · have houtranks : Outranks n2 n1 := by rwa [Outranks, eq_comm (a := n2.prio)]
      rw [nodeBefore_of_outranks (x := (k2, n2)) (y := (k1, n1)) houtranks] at horder
      exact exec_dispatchDecision_pair horder hready hc2 hc1 hdie ho2 hh2 hne.symm hf1
  · exact exec_dispatchDecision_unfit hs hkind hfit
  · have hexec := exec_starveTimeout_due hn ⟨hready, hstarved, hlong⟩
    obtain ⟨hcores, hmarked⟩ := afterStarve_keeps id k n s
    exact ⟨hexec, fun hq => ⟨_, hexec, hcores, hmarked, eventIn_postEvent (by decide) _ _ hq⟩⟩
  · rintro ⟨hready, hstarved, hlong⟩
    obtain hnot | hyes | hearly := hidle
    · exact hnot hready
    · rw [hstarved] at hyes
      cases hyes
    · exact absurd hlong (Nat.not_le.mpr hearly)

end Sys2Proof.Machine.DecisionsAndStarvation
